-- ==== Sys2Proof/Word.lean ====
section
/-! DEFINITION. The word types of the E9 model: bytes, 32-bit FP32 patterns, digests, keys. -/
namespace Sys2Proof

/-- One byte. -/
abbrev Byte := BitVec 8
/-- A 32-bit word: a register, or an FP32 bit pattern of ERA 1.0 (R54). -/
abbrev Word32 := BitVec 32
/-- A 64-bit word. -/
abbrev Word64 := BitVec 64
/-- An FP32 bit pattern (R54). -/
abbrev F32 := BitVec 32
/-- A SHA-384 digest, 48 bytes; byte 0 of the digest is the most significant byte. -/
abbrev Digest := BitVec 384
/-- A 256-bit key; byte 0 is the most significant byte. -/
abbrev Key := BitVec 256
/-- A 64-byte command or work entry as one little-endian number (R4, R248, R268). -/
abbrev Cmd := BitVec 512
/-- A byte string. -/
abbrev Bytes := List Byte

end Sys2Proof
end

