-- ==== Sys2Proof/Machine/Bytes.lean ====
section
/-! DEFINITION. Byte-string codecs: every multi-byte field is little-endian (R4). -/
namespace Sys2Proof.Machine

/-- The number a little-endian byte string spells (R4). -/
def leNat : Bytes → Nat
  | [] => 0
  | b :: bs => b.toNat + 256 * leNat bs

/-- `n` as `k` little-endian bytes (R4). -/
def toLE : Nat → Nat → Bytes
  | 0, _ => []
  | k + 1, n => BitVec.ofNat 8 n :: toLE k (n / 256)

/-- The number a big-endian byte string spells (the order inside a digest or a key). -/
def beNat (bs : Bytes) : Nat := bs.foldl (fun a b => a * 256 + b.toNat) 0

/-- `n` as `k` big-endian bytes. -/
def toBE (k n : Nat) : Bytes := (toLE k n).reverse

/-- `k` zero bytes: every reserved field and every padding (R6). -/
def zeros (k : Nat) : Bytes := List.replicate k 0

/-- Field of `k` bytes at offset `o` of an object, little-endian (R4). -/
def fieldAt (bs : Bytes) (o k : Nat) : Nat := leNat ((bs.drop o).take k)

/-- The `k` bytes at offset `o`. -/
def sliceAt (bs : Bytes) (o k : Nat) : Bytes := (bs.drop o).take k

/-- Every one of the `k` bytes at offset `o` is zero (a reserved field, R6). -/
def zeroAt (bs : Bytes) (o k : Nat) : Bool := ((bs.drop o).take k).all (· == 0)

/-- `bs` zero-padded to exactly a multiple of `m` bytes. -/
def padTo (m : Nat) (bs : Bytes) : Bytes :=
  bs ++ zeros ((m - bs.length % m) % m)

/-- `bs` cut or zero-padded to exactly `k` bytes. -/
def fitTo (k : Nat) (bs : Bytes) : Bytes := (bs ++ zeros (k - bs.length)).take k

/-- A digest as its 48 bytes. -/
def digestBytes (d : Digest) : Bytes := toBE 48 d.toNat

/-- The digest that 48 bytes spell. -/
def digestOf (bs : Bytes) : Digest := BitVec.ofNat 384 (beNat bs)

/-- A 256-bit key as its 32 bytes. -/
def keyBytes (k : Key) : Bytes := toBE 32 k.toNat

/-- The 256-bit key that 32 bytes spell. -/
def keyOf (bs : Bytes) : Key := BitVec.ofNat 256 (beNat bs)

/-- An ASCII label without a terminator (R310). -/
def label (s : String) : Bytes := s.toList.map fun c => BitVec.ofNat 8 c.toNat

/-- `ceil (a / b)`. -/
def ceilDiv (a b : Nat) : Nat := (a + b - 1) / b

/-- `a` rounded up to a multiple of `m`. -/
def roundUp (a m : Nat) : Nat := ceilDiv a m * m

/-- `bs` cut into pieces of `k` bytes, the last one short if need be. -/
def chunksOf (k : Nat) (bs : List α) : List (List α) :=
  (List.range (ceilDiv bs.length k)).map fun i => (bs.drop (k * i)).take k

/-- The bytes that differ from `bs` only in having `v` at offset `o`. -/
def overwrite (bs : Bytes) (o : Nat) (v : Bytes) : Bytes :=
  bs.take o ++ v ++ bs.drop (o + v.length)

end Sys2Proof.Machine
end

