-- ==== Sys2Proof/Machine/Aes.lean ====
section
/-! DEFINITION. AES-128 and AES-256, GCM and XTS, which the spec names without restating them (R77, R81, R179,
R274, R313): FIPS 197, SP 800-38D and IEEE 1619. PRESUMED from those published standards (log 7). -/
namespace Sys2Proof.Machine.Aes

/-- Multiplication by x in GF(2^8). -/
def xtime (b : Byte) : Byte := (b <<< 1) ^^^ (if b.msb then 0x1b else 0)

/-- Multiplication in GF(2^8). -/
def gmul (a b : Byte) : Byte :=
  ((List.range 8).foldl (fun (st : Byte × Byte) i =>
    (if b.getLsbD i then st.1 ^^^ st.2 else st.1, xtime st.2)) (0, a)).1

/-- The inverse in GF(2^8), 0 for 0: the 254th power. -/
def ginv (a : Byte) : Byte := (List.range 253).foldl (fun r _ => gmul r a) a

/-- The S-box. -/
def sbox (a : Byte) : Byte :=
  let b := ginv a
  b ^^^ b.rotateLeft 1 ^^^ b.rotateLeft 2 ^^^ b.rotateLeft 3 ^^^ b.rotateLeft 4 ^^^ 0x63

/-- The S-box as a table. -/
def sboxTable : Array Byte := ((List.range 256).map fun i => sbox (BitVec.ofNat 8 i)).toArray

/-- The inverse S-box as a table. -/
def invSboxTable : Array Byte :=
  ((List.range 256).foldl (fun (t : Array Byte) i => t.setIfInBounds (sbox (BitVec.ofNat 8 i)).toNat (BitVec.ofNat 8 i))
    (Array.replicate 256 0))

def sub (t : Array Byte) (b : Byte) : Byte := t.getD b.toNat 0

/-- The expanded key: 4 × (rounds + 1) words of 4 bytes, in order. -/
def expandKey (t : Array Byte) (key : Bytes) : List Bytes :=
  let nk := key.length / 4
  let total := 4 * (nk + 7)
  let rev := (List.range (total - nk)).foldl (fun (st : List Bytes × Byte) j =>
    let i := j + nk
    let prev := st.1.headD []
    let back := st.1.getD (nk - 1) []
    if i % nk = 0 then
      let r := (prev.drop 1 ++ prev.take 1).map (sub t)
      let r := (r.headD 0 ^^^ st.2) :: r.drop 1
      ((List.zipWith (· ^^^ ·) back r) :: st.1, xtime st.2)
    else if nk > 6 && i % nk = 4 then
      ((List.zipWith (· ^^^ ·) back (prev.map (sub t))) :: st.1, st.2)
    else ((List.zipWith (· ^^^ ·) back prev) :: st.1, st.2)) ((chunksOf 4 key).reverse, 1)
  rev.1.reverse

/-- The round keys, 16 bytes each. -/
def roundKeys (t : Array Byte) (key : Bytes) : List Bytes :=
  (chunksOf 4 (expandKey t key)).map List.flatten

def xorB (a b : Bytes) : Bytes := List.zipWith (· ^^^ ·) a b

/-- ShiftRows: byte i of the column-major state comes from position 5i mod 16 of each row's rotation. -/
def shiftRows (s : Bytes) : Bytes := (List.range 16).map fun i => s.getD ((i + 4 * (i % 4)) % 16) 0
def invShiftRows (s : Bytes) : Bytes := (List.range 16).map fun i => s.getD ((i + 12 * (i % 4)) % 16) 0

def mixCol (m : List Byte) (c : Bytes) : Bytes :=
  (List.range 4).map fun r =>
    (List.range 4).foldl (fun a j => a ^^^ gmul (m.getD ((j + 4 - r) % 4) 0) (c.getD j 0)) 0

def mixColumns (m : List Byte) (s : Bytes) : Bytes := (chunksOf 4 s).flatMap (mixCol m)

/-- AES encryption of one 16-byte block. -/
def encryptBlock (key blk : Bytes) : Bytes :=
  let t := sboxTable
  let rk := roundKeys t key
  let n := rk.length - 1
  let s0 := xorB blk (rk.getD 0 [])
  let s := (List.range (n - 1)).foldl (fun s i =>
    xorB (mixColumns [2, 3, 1, 1] (shiftRows (s.map (sub t)))) (rk.getD (i + 1) [])) s0
  xorB (shiftRows (s.map (sub t))) (rk.getD n [])

/-- AES decryption of one 16-byte block. -/
def decryptBlock (key blk : Bytes) : Bytes :=
  let t := sboxTable
  let u := invSboxTable
  let rk := roundKeys t key
  let n := rk.length - 1
  let s0 := xorB blk (rk.getD n [])
  let s := (List.range (n - 1)).foldl (fun s i =>
    mixColumns [14, 11, 13, 9] (xorB ((invShiftRows s).map (sub u)) (rk.getD (n - 1 - i) []))) s0
  xorB ((invShiftRows s).map (sub u)) (rk.getD 0 [])

/-- Multiplication in GF(2^128) in GCM's bit order; blocks as 128-bit numbers, first bit most significant. -/
def ghMul (x y : BitVec 128) : BitVec 128 :=
  ((List.range 128).foldl (fun (st : BitVec 128 × BitVec 128) i =>
    let z := if x.getMsbD i then st.1 ^^^ st.2 else st.1
    let v := (st.2 >>> 1) ^^^ (if st.2.getLsbD 0 then 0xe1000000000000000000000000000000#128 else 0)
    (z, v)) (0, y)).1

def blk128 (b : Bytes) : BitVec 128 := BitVec.ofNat 128 (beNat (fitTo 16 b))

/-- GHASH over the padded additional data, the padded ciphertext and their bit lengths. -/
def ghash (h : BitVec 128) (aad ct : Bytes) : Bytes :=
  let x := padTo 16 aad ++ padTo 16 ct ++ toBE 8 (8 * aad.length) ++ toBE 8 (8 * ct.length)
  toBE 16 ((chunksOf 16 x).foldl (fun y b => ghMul (y ^^^ blk128 b) h) 0).toNat

/-- The counter-mode stream of GCM with a 12-byte IV, from block `c`. -/
def gctr (key iv data : Bytes) : Bytes :=
  ((chunksOf 16 data).zipIdx).flatMap fun (b, i) => xorB b (encryptBlock key (iv ++ toBE 4 (i + 2)))

/-- The tag of GCM. -/
def gcmTag (key iv aad ct : Bytes) : Bytes :=
  let h := blk128 (encryptBlock key (zeros 16))
  xorB (ghash h aad ct) (encryptBlock key (iv ++ toBE 4 1))

/-- AES-GCM encryption: ciphertext and 16-byte tag. -/
def gcmEncrypt (key iv aad pt : Bytes) : Bytes × Bytes :=
  let ct := gctr key iv pt
  (ct, gcmTag key iv aad ct)

/-- AES-GCM decryption: none where the tag fails. -/
def gcmDecrypt (key iv aad ct tag : Bytes) : Option Bytes :=
  if gcmTag key iv aad ct = tag then some (gctr key iv ct) else none

/-- Multiplication of an XTS tweak by x; byte 0 is the least significant. -/
def xtsDouble (t : Bytes) : Bytes :=
  let n := leNat t
  toLE 16 ((2 * n) % 2 ^ 128 ^^^ (if n ≥ 2 ^ 127 then 0x87 else 0))

/-- AES-XTS over whole 16-byte blocks of one data unit, with a 64-byte key pair; the tweak is the data unit's number (R313). -/
def xts (f : Bytes → Bytes → Bytes) (key : Bytes) (tweak : Nat) (data : Bytes) : Bytes :=
  let t0 := encryptBlock (key.drop 32) (toLE 16 tweak)
  ((chunksOf 16 data).foldl (fun (st : Bytes × Bytes) b =>
    (st.1 ++ xorB (f (key.take 32) (xorB b st.2)) st.2, xtsDouble st.2)) ([], t0)).1

def xtsEncrypt (key : Bytes) (tweak : Nat) (data : Bytes) : Bytes := xts encryptBlock key tweak data
def xtsDecrypt (key : Bytes) (tweak : Nat) (data : Bytes) : Bytes := xts decryptBlock key tweak data

end Sys2Proof.Machine.Aes
end

