-- ==== Sys2Proof/Machine/Era.lean ====
section
/-! DEFINITION. Eloalu Reference Arithmetic 1.0: formats, rounding, FP32 operations, conversions and block scales
(R53 to R63). A value is an exact dyadic number; every operation computes exactly and rounds once. -/
namespace Sys2Proof.Machine.Era

/-- The exact value of an operand: a NaN, an infinity, or (−1)^neg · m · 2^e. A zero has m = 0 and keeps its sign. -/
inductive Val where
  | nan
  | inf (neg : Bool)
  | fin (neg : Bool) (m : Nat) (e : Int)
  deriving DecidableEq, Repr

/-- Round-to-nearest, ties-to-even, of a / 2^k (R57). -/
def rneShrN (a k : Nat) : Nat :=
  let q := a >>> k
  let r := a % (2 ^ k)
  if 2 * r < 2 ^ k then q else if 2 * r > 2 ^ k then q + 1 else q + q % 2

/-- rne_shr of R57 on an exact integer. -/
def rneShr (a : Int) (k : Nat) : Int :=
  match a with
  | .ofNat n => (rneShrN n k : Int)
  | .negSucc n => -((rneShrN (n + 1) k : Nat) : Int)

/-- m · 2^e as an integer number of units 2^q, rounded under R57. -/
def unitsOf (m : Nat) (e q : Int) : Nat :=
  if q ≤ e then m * 2 ^ (e - q).toNat else rneShrN m (q - e).toNat

/-- The exponent floor(log2 (m · 2^e)) of a nonzero value. -/
def expOf (m : Nat) (e : Int) : Int := (Nat.log2 m : Int) + e

/-- The canonical NaN of FP32 (R55). -/
def nan32 : F32 := 0x7FC00000#32
/-- +∞ or −∞. -/
def inf32 (neg : Bool) : F32 := if neg then 0xFF800000#32 else 0x7F800000#32
/-- +0 or −0. -/
def zero32 (neg : Bool) : F32 := if neg then 0x80000000#32 else 0#32
/-- 1.0 -/
def one32 : F32 := 0x3F800000#32

/-- The FP32 pattern nearest m · 2^e, with the flush and overflow of R56. -/
def round32 (neg : Bool) (m : Nat) (e : Int) : F32 :=
  if m = 0 then zero32 neg else
  let q := expOf m e - 23
  let n := unitsOf m e q
  let (n, q) := if n = 2 ^ 24 then (2 ^ 23, q + 1) else (n, q)
  let x := q + 23
  if x < -126 then zero32 neg
  else if x > 127 then inf32 neg
  else BitVec.ofNat 32 ((if neg then 2 ^ 31 else 0) + (x + 127).toNat * 2 ^ 23 + (n - 2 ^ 23))

/-- The value of an FP32 pattern; a subnormal reads as a zero of its sign (R56). -/
def val32 (x : F32) : Val :=
  let b := x.toNat
  let neg : Bool := decide (2 ^ 31 ≤ b)
  let ex : Nat := b / 2 ^ 23 % 256
  let fr : Nat := b % 2 ^ 23
  if ex = 255 then (if fr = 0 then .inf neg else .nan)
  else if ex = 0 then .fin neg 0 0
  else .fin neg (2 ^ 23 + fr) (Int.ofNat ex - 150)

/-- The value of a BF16 pattern, the upper half of an FP32 pattern (R54). -/
def valBF16 (x : Nat) : Val := val32 (BitVec.ofNat 32 (x % 65536 * 65536))

/-- A value rounded to FP32. -/
def to32 : Val → F32
  | .nan => nan32
  | .inf n => inf32 n
  | .fin n m e => round32 n m e

def isNaN (x : F32) : Bool := match val32 x with | .nan => true | _ => false
def isFinite (x : F32) : Bool := match val32 x with | .fin .. => true | _ => false
def isZero (x : F32) : Bool := match val32 x with | .fin _ m _ => m == 0 | _ => false

/-- The sign-inverted pattern. -/
def neg32 (x : F32) : F32 := x ^^^ 0x80000000#32

/-- (−1)^n · m as an integer. -/
def signed (n : Bool) (m : Nat) : Int := if n then -(m : Int) else m

/-- The value of an exact integer times a power of two, with the given sign for zero. -/
def ofInt (z : Int) (e : Int) (zeroNeg : Bool) : Val :=
  if z = 0 then .fin zeroNeg 0 0 else .fin (decide (z < 0)) z.natAbs e

/-- The exact sum of two values (R55: an exact zero sum is +0 unless both addends are −0). -/
def sumVal : Val → Val → Val
  | .nan, _ => .nan
  | _, .nan => .nan
  | .inf a, .inf b => if a = b then .inf a else .nan
  | .inf a, .fin .. => .inf a
  | .fin .., .inf b => .inf b
  | .fin n1 m1 e1, .fin n2 m2 e2 =>
    let e := if e1 ≤ e2 then e1 else e2
    ofInt (signed n1 (m1 * 2 ^ (e1 - e).toNat) + signed n2 (m2 * 2 ^ (e2 - e).toNat)) e
      (n1 && n2 && m1 == 0 && m2 == 0)

/-- The exact product of two values, signs exclusive-ORed (R55, R63). -/
def mulVal : Val → Val → Val
  | .nan, _ => .nan
  | _, .nan => .nan
  | .inf a, .inf b => .inf (a != b)
  | .inf a, .fin n m _ => if m = 0 then .nan else .inf (a != n)
  | .fin n m _, .inf b => if m = 0 then .nan else .inf (n != b)
  | .fin n1 m1 e1, .fin n2 m2 e2 => .fin (n1 != n2) (m1 * m2) (if m1 * m2 = 0 then 0 else e1 + e2)

/-- fp32_add -/
def add (a b : F32) : F32 := to32 (sumVal (val32 a) (val32 b))
/-- fp32_sub -/
def sub (a b : F32) : F32 := add a (if isNaN b then nan32 else neg32 b)
/-- fp32_mul -/
def mul (a b : F32) : F32 := to32 (mulVal (val32 a) (val32 b))
/-- product() of R63: two operands in any formats, rounded once to FP32. -/
def product (a b : Val) : F32 := to32 (mulVal a b)

/-- Exact comparison of two values that are no NaN: a < b (+0 = −0, R55). -/
def ltVal : Val → Val → Bool
  | .nan, _ => false
  | _, .nan => false
  | .inf a, .inf b => a && !b
  | .inf a, .fin .. => a
  | .fin .., .inf b => !b
  | .fin n1 m1 e1, .fin n2 m2 e2 =>
    let e := if e1 ≤ e2 then e1 else e2
    signed n1 (m1 * 2 ^ (e1 - e).toNat) < signed n2 (m2 * 2 ^ (e2 - e).toNat)

def lt (a b : F32) : Bool := ltVal (val32 a) (val32 b)
def le (a b : F32) : Bool := !isNaN a && !isNaN b && !lt b a

/-- The pattern as an operation reads it: a subnormal as a zero of its sign (R56). -/
def flush (x : F32) : F32 := match val32 x with | .fin n 0 _ => zero32 n | _ => x

/-- max of R55. -/
def max (a b : F32) : F32 :=
  if isNaN a || isNaN b then nan32
  else if isZero a && isZero b then zero32 (a.msb && b.msb)
  else if lt a b then flush b else flush a

/-- fp32_from_fixed(m, s): m · 2^s rounded (R56, R57). -/
def fromFixed (m : Int) (s : Int) : F32 := round32 (decide (m < 0)) m.natAbs s

/-- The narrow floating formats of R54: significand bits with the hidden one, least exponent, bias, greatest finite
magnitude in units of the least subnormal, and how a value beyond range and an infinity are written (R58). -/
structure Narrow where
  bits : Nat
  sigBits : Nat
  emin : Int
  maxUnits : Nat
  maxCode : Nat
  infCode : Option Nat
  nanCode : Option Nat
  deriving DecidableEq, Repr

/-- FP4 E2M1 -/
def fp4 : Narrow := ⟨4, 2, 0, 12, 0x7, none, none⟩
/-- FP8 E4M3 -/
def e4m3 : Narrow := ⟨8, 4, -6, 448 * 2 ^ 9, 0x7E, none, some 0x7F⟩
/-- FP8 E5M2 -/
def e5m2 : Narrow := ⟨8, 3, -14, 57344 * 2 ^ 16, 0x7B, some 0x7C, some 0x7E⟩

/-- The value of a code of a narrow format (R54). -/
def Narrow.val (f : Narrow) (code : Nat) : Val :=
  let neg := code / 2 ^ (f.bits - 1) % 2 = 1
  let mb := f.sigBits - 1
  let mag := code % 2 ^ (f.bits - 1)
  let ex := mag / 2 ^ mb
  let fr := mag % 2 ^ mb
  match f.infCode with
  | some ic =>
    if mag = ic then .inf neg else if mag > ic then .nan
    else if ex = 0 then .fin neg fr (f.emin - mb) else .fin neg (2 ^ mb + fr) (f.emin - mb + (ex - 1 : Nat))
  | none =>
    if f.nanCode = some mag then .nan
    else if ex = 0 then .fin neg fr (f.emin - mb) else .fin neg (2 ^ mb + fr) (f.emin - mb + (ex - 1 : Nat))

/-- Conversion of a value to a narrow format, rounded and saturated (R57, R58). A NaN or an infinity of a format without
one is the block rule's matter (R59) and gives the greatest code or 0. -/
def Narrow.ofVal (f : Narrow) (v : Val) : Nat :=
  let sgn (n : Bool) := if n then 2 ^ (f.bits - 1) else 0
  match v with
  | .nan => f.nanCode.getD 0
  | .inf n => sgn n + f.infCode.getD f.maxCode
  | .fin n m e =>
    if m = 0 then sgn n else
    let mb := f.sigBits - 1
    let x := expOf m e
    let q := (if x ≤ f.emin then f.emin else x) - mb
    let u := unitsOf m e q
    let units := u * 2 ^ (q - (f.emin - mb)).toNat
    if units > f.maxUnits then sgn n + f.maxCode
    else if units < 2 ^ mb then sgn n + units
    else
      let l := Nat.log2 units - mb
      sgn n + (l + 1) * 2 ^ mb + (units / 2 ^ l - 2 ^ mb)

/-- FP32 → BF16 (R58): the 8-bit significand, infinities beyond range, flush under R56. -/
def toBF16 (x : F32) : Nat :=
  match val32 x with
  | .nan => 0x7FC0
  | .inf n => if n then 0xFF80 else 0x7F80
  | .fin n m e =>
    let s := if n then 0x8000 else 0
    if m = 0 then s else
    let q := expOf m e - 7
    let u := unitsOf m e q
    let (u, q) := if u = 256 then (128, q + 1) else (u, q)
    let ex := q + 7
    if ex < -126 then s else if ex > 127 then s + 0x7F80
    else s + (ex + 127).toNat * 128 + (u - 128)

/-- A value to INT8: rounded to an integer, −128 to 127, NaN 0 (R58). -/
def toInt8 : Val → Nat
  | .nan => 0
  | .inf n => if n then 0x80 else 127
  | .fin n m e =>
    let u := unitsOf m e 0
    if n then (256 - Nat.min u 128) % 256 else Nat.min u 127

/-- The value of an INT8 code. -/
def valInt8 (c : Nat) : Val := let c := c % 256; if c < 128 then .fin false c 0 else .fin true (256 - c) 0

/-- A value times 2^k. -/
def scaleVal (v : Val) (k : Int) : Val := match v with | .fin n m e => .fin n m (e + k) | v => v

/-- An element under an E8M0 scale code S: element × 2^(S − 127); 0xFF reads as NaN (R59). -/
def scaled (s : Nat) (v : Val) : Val := if s = 0xFF then .nan else scaleVal v ((s : Int) - 127)

/-- The element formats a block scale is used with (R59, R60). -/
inductive Elem where
  | fp4 | e4m3 | e5m2 | int8
  deriving DecidableEq, Repr

/-- emax of R60. -/
def Elem.emax : Elem → Int | .fp4 => 2 | .e4m3 => 8 | .e5m2 => 15 | .int8 => 0

/-- The value of an element code (MXINT8: the integer × 2^−6, R59). -/
def Elem.val : Elem → Nat → Val
  | .fp4, c => Era.fp4.val c
  | .e4m3, c => Era.e4m3.val c
  | .e5m2, c => Era.e5m2.val c
  | .int8, c => scaleVal (valInt8 c) (-6)

/-- RNE_sat of R60 step 5. -/
def Elem.ofVal : Elem → Val → Nat
  | .fp4, v => Era.fp4.ofVal v
  | .e4m3, v => Era.e4m3.ofVal v
  | .e5m2, v => Era.e5m2.ofVal v
  | .int8, v => toInt8 (scaleVal v 6)

/-- An element code of +0. -/
def isSpecial : Val → Bool | .fin .. => false | _ => true

/-- The unbiased exponent of the largest finite magnitude of some values; none if all are zero. -/
def amaxExp (vs : List Val) : Option Int :=
  vs.foldl (fun a v => match v with
    | .fin _ m e => if m = 0 then a else match a with
      | none => some (expOf m e)
      | some x => some (if x < expOf m e then expOf m e else x)
    | _ => a) none

/-- A clamped scale exponent as a code (R60 step 4). -/
def scaleCode (e : Int) : Nat :=
  ((if e < -127 then -127 else if e > 127 then 127 else e) + 127).toNat

/-- Quantisation of one FP32 block: the scale code and the element codes (R59, R60). -/
def quantBlock (f : Elem) (xs : List F32) : Nat × List Nat :=
  let vs := xs.map val32
  if vs.any isSpecial then (0xFF, xs.map fun _ => 0)
  else match amaxExp vs with
    | none => (0, xs.map fun _ => 0)
    | some x =>
      let s := scaleCode (x - f.emax)
      (s, vs.map fun v => f.ofVal (scaleVal v (127 - (s : Int))))

/-- FP4 codes packed two to a byte: element 2i in bits [3:0] (R61). -/
def packFp4 : List Nat → Bytes
  | [] => []
  | [a] => [BitVec.ofNat 8 (a % 16)]
  | a :: b :: r => BitVec.ofNat 8 (a % 16 + 16 * (b % 16)) :: packFp4 r

/-- FP4 code i of packed bytes. -/
def fp4At (bs : Bytes) (i : Nat) : Nat := (bs.getD (i / 2) 0).toNat / (if i % 2 = 0 then 1 else 16) % 16

/-- Insertion of a page scale under R62: the scale code a position's values would set, none if they are all zero. -/
def kvScale (vs : List Val) : Option Nat :=
  if vs.any isSpecial then some 0xFF
  else (amaxExp vs).map fun x => scaleCode (x - 8 + 2)

/-- The code of a value stored in a page under scale `s` (R62 items 3 to 5): 0 under 0xFF, or before a scale is set. -/
def kvCode (s : Option Nat) (v : Val) : Nat :=
  match s with
  | none => 0
  | some s => if s = 0xFF then 0 else e4m3.ofVal (scaleVal v (127 - (s : Int)))

end Sys2Proof.Machine.Era
end

