-- ==== Sys2Proof/Machine/EraFn.lean ====
section
/-! DEFINITION. ERA 1.0: the canonical reduction tree (R64 to R67), the constant tables (R68) and the three
transcendental primitives (R69 to R71). -/
namespace Sys2Proof.Machine.Era

/-- A block's ascending FP32 sum of already rounded terms, from +0.0 (R64). -/
def blockSum (ts : List F32) : F32 := ts.foldl add 0#32

/-- The largest power of two below n, for n ≥ 2 (R65). -/
def splitAt (n : Nat) : Nat := 2 ^ Nat.log2 (n - 1)

/-- tree() of R65 over the parts from a list, with any joining operation; the fuel bounds the depth. -/
def treeWith (f : α → α → α) (z : α) : Nat → List α → α
  | 0, xs => xs.headD z
  | fuel + 1, xs =>
    if xs.length ≤ 1 then xs.headD z
    else
      let m := splitAt xs.length
      f (treeWith f z fuel (xs.take m)) (treeWith f z fuel (xs.drop m))

/-- tree(0, n) of R65 over block partial sums. -/
def tree (bs : List F32) : F32 := treeWith add 0#32 bs.length bs

/-- A sum under R64 and R65: canonical blocks of 128, then the tree. -/
def treeSum (ts : List F32) : F32 := tree ((chunksOf 128 ts).map blockSum)

/-- The dot product of R63 to R65. -/
def dot (a b : List Val) : F32 := treeSum (List.zipWith product a b)

/-- E[i] of R68: RNE(2^(i/64) · 2^30), decided exactly on 64th powers. -/
def tabE (i : Nat) : Nat :=
  let t := 2 ^ (i + 64 * 30)
  let r := (List.range 31).foldl (fun r k => let c := r + 2 ^ (30 - k); if c ^ 64 ≤ t then c else r) 0
  if (2 * r + 1) ^ 64 ≤ t * 2 ^ 64 then r + 1 else r

/-- ln 2 · 2^200, from the series of 1/(k 2^k), with an error below 2^−190. -/
def ln2Fix : Nat := (List.range 220).foldl (fun a k => a + 2 ^ 200 / ((k + 1) * 2 ^ (k + 1))) 0

/-- a/b rounded to nearest (the tables meet no tie). -/
def rneDiv (a b : Nat) : Nat := (2 * a + b) / (2 * b)

/-- LOG2E of R68. -/
def log2e : Nat := rneDiv (2 ^ 230) ln2Fix
/-- C1, C2 and C3 of R68: RNE((ln 2)^k / k! · 2^30). -/
def c1 : Nat := rneDiv ln2Fix (2 ^ 170)
def c2 : Nat := rneDiv (ln2Fix * ln2Fix) (2 * 2 ^ 370)
def c3 : Nat := rneDiv (ln2Fix * ln2Fix * ln2Fix) (6 * 2 ^ 570)

/-- RC[j] of R68. -/
def tabRC (j : Nat) : Nat := rneDiv (2 ^ 30 * 256) (256 + 2 * j + 1)

/-- RQ[j] of R68: RNE(2^30 / √(w(1 + (2f+1)/128))), decided exactly on squares. -/
def tabRQ (j : Nat) : Nat :=
  let w := if j < 64 then 1 else 2
  let d := w * (128 + 2 * (j % 64) + 1)
  let r := Nat.sqrt (2 ^ 60 * 128 / d)
  if (2 * r + 1) ^ 2 * d ≤ 4 * 2 ^ 60 * 128 then r + 1 else r

/-- arctan(1/n) · 2^200. -/
def atanInv (n : Nat) : Int :=
  (List.range 150).foldl (fun a k =>
    let t : Int := ((2 ^ 200 / ((2 * k + 1) * n ^ (2 * k + 1)) : Nat) : Int)
    if k % 2 = 0 then a + t else a - t) 0

/-- π · 2^200 (Machin's formula). -/
def piFix : Nat := (4 * (4 * atanInv 5 - atanInv 239)).toNat

/-- S[j] of R68: RNE(sin(π j / 2048) · 2^30), from the sine series at 200 fraction bits. -/
def tabS (j : Nat) : Nat :=
  let x := piFix * j / 2048
  let r := (List.range 40).foldl (fun (st : Int × Nat) k =>
    let t := st.2
    let nt := t * x / 2 ^ 200 * x / 2 ^ 200 / ((2 * k + 2) * (2 * k + 3))
    (if k % 2 = 0 then st.1 + t else st.1 - t, nt)) ((0 : Int), x)
  rneDiv r.1.toNat (2 ^ 170)

/-- exp of R69. -/
def exp (x : F32) : F32 :=
  match val32 x with
  | .nan => nan32
  | .inf n => if n then 0#32 else inf32 false
  | .fin n m e =>
    if le (0x43000000#32) x then inf32 false
    else if le x (0xC3000000#32) then 0#32
    else
      let xi := signed n (unitsOf m e (-24))
      let t := rneShr (xi * log2e) 30
      let nn := t >>> 24
      let f := (t - nn * 2 ^ 24).toNat
      let i := f / 2 ^ 18
      let r := f % 2 ^ 18
      let q := c3
      let q := c2 + rneShrN (q * r) 24
      let q := c1 + rneShrN (q * r) 24
      let p := 2 ^ 30 + rneShrN (q * r) 24
      let m := rneShrN (tabE i * p) 30
      if m ≥ 2 ^ 31 then fromFixed (rneShrN m 1 : Nat) (nn + 1 - 30) else fromFixed (m : Nat) (nn - 30)

/-- The Newton step of R70, twice. -/
def recipStep (a : Nat) (g : Int) : Int := rneShr (g * (2 ^ 31 - rneShr (a * g) 23)) 30

/-- recip of R70. -/
def recip (y : F32) : F32 :=
  match val32 y with
  | .nan => nan32
  | .inf n => zero32 n
  | .fin n m e =>
    if m = 0 then inf32 n else
    let j : Nat := m / 2 ^ 16 % 128
    let g := recipStep m (recipStep m (tabRC j))
    fromFixed (if n then -g else g) (-30 - (e + 23))

/-- The Newton step of R71. -/
def rsqrtStep (a2 : Nat) (g : Int) : Int :=
  rneShr (g * (3 * 2 ^ 30 - rneShr (a2 * rneShr (g * g) 30) 23)) 31

/-- rsqrt of R71. -/
def rsqrt (y : F32) : F32 :=
  match val32 y with
  | .nan => nan32
  | .inf n => if n then nan32 else 0#32
  | .fin n m e =>
    if m = 0 then inf32 n else if n then nan32 else
    let e := e + 23
    let odd := e % 2 = 1
    let a2 := if odd then 2 * m else m
    let k := if odd then (e - 1) / 2 else e / 2
    let j : Nat := (if odd then 64 else 0) + m / 2 ^ 17 % 64
    let g := rsqrtStep a2 (rsqrtStep a2 (tabRQ j))
    fromFixed g (-30 - k)

/-- quarter() of R73, 0 ≤ a ≤ 2^62, in Q2.30. -/
def quarter (a : Nat) : Int :=
  let j : Nat := a / 2 ^ 52
  let t : Nat := a / 2 ^ 32 % 2 ^ 20
  if j ≥ 1024 then tabS 1024 else (tabS j : Int) + rneShr (((tabS (j + 1) : Int) - tabS j) * t) 20

/-- The sine and cosine of the phase of pair i at position p (R73). -/
def sinCos (freq p : Nat) : F32 × F32 :=
  let phi := p * freq % 2 ^ 64
  let qd := phi / 2 ^ 62
  let a := phi % 2 ^ 62
  let b := 2 ^ 62 - a
  let sc : Int × Int := match qd with
    | 0 => (quarter a, quarter b)
    | 1 => (quarter b, -quarter a)
    | 2 => (-quarter a, -quarter b)
    | _ => (-quarter b, quarter a)
  (fromFixed sc.1 (-30), fromFixed sc.2 (-30))

end Sys2Proof.Machine.Era
end

