-- ==== Sys2Proof/Machine/Sampling.lean ====
section
/-! DEFINITION. Sampling: the parameters of R75, the pipeline of R76, the random stream of R77. -/
namespace Sys2Proof.Machine.Sampling

/-- The sampling parameters of a request (R75); a disabled filter is none. -/
structure Params where
  temperature : F32
  topK : Option Nat
  topP : Option F32
  minP : Option F32
  deriving DecidableEq, Repr

/-- The range check of R75, each FP32 parameter read under R56 first. -/
def Params.inRange (p : Params) : Bool :=
  (Era.isFinite p.temperature && !Era.lt p.temperature 0#32) &&
  (match p.topK with | none => true | some k => 1 ≤ k && k ≤ 262144) &&
  (match p.topP with | none => true | some x => Era.lt 0#32 x && Era.le x Era.one32) &&
  (match p.minP with | none => true | some x => Era.le 0#32 x && Era.le x Era.one32)

/-- draw(position, index) of R77: w · 2^−24, w from AES-128 of the counter block under the session seed. -/
def draw (seed : BitVec 128) (position index : Nat) : F32 :=
  let ct := Aes.encryptBlock (toBE 16 seed.toNat) (toLE 8 position ++ toLE 4 index ++ zeros 4)
  let w := leNat (ct.take 4) / 256
  Era.round32 false w (-24)

/-- A candidate with its logit. -/
structure Cand where
  id : Nat
  z : F32
  deriving DecidableEq, Repr

/-- The order of R76: logit descending (+0 = −0), then ID ascending. -/
def before (a b : Cand) : Bool := Era.lt b.z a.z || (!Era.lt a.z b.z && a.id ≤ b.id)

/-- The shortest prefix whose running sum reaches top_p (R76), as a length. -/
def topPCount (es : List F32) (r topP : F32) : Nat :=
  ((es.foldl (fun (st : F32 × Nat × Bool) e =>
    if st.2.2 then st else
      let acc := Era.add st.1 (Era.mul e r)
      (acc, st.2.1 + 1, !Era.lt acc topP)) (0#32, 0, false)).2).1

/-- The last loop of R76: the first candidate at which the ascending sum passes x, else the last one. -/
def pick (cs : List (Nat × F32)) (x : F32) : Nat :=
  let r := cs.foldl (fun (st : F32 × Option Nat) c =>
    match st.2 with
    | some _ => st
    | none =>
      let acc := Era.add st.1 c.2
      (acc, if Era.lt x acc then some c.1 else none)) (0#32, none)
  r.2.getD ((cs.getLast?.map (·.1)).getD 0)

/-- The sampling pipeline of R76. `allowed` is the bitmap as the list of allowed IDs in ascending order, not empty. -/
def sample (p : Params) (allowed : List Nat) (z : Nat → F32) (seed : BitVec 128) (position : Nat) : Nat :=
  let c := (allowed.filter fun i => Era.isFinite (z i)).map fun i => (⟨i, z i⟩ : Cand)
  if c.isEmpty then allowed.headD 0 else
  let c := c.mergeSort before
  if Era.isZero p.temperature then (c.headD ⟨0, 0⟩).id else
  let inv := Era.recip p.temperature
  let u := c.map fun x => (x.id, Era.mul x.z inv)
  let u := match p.topK with | some k => u.take k | none => u
  let u0 := (u.headD (0, 0)).2
  let e := u.map fun x => (x.1, Era.exp (Era.sub x.2 u0))
  let r := Era.recip (Era.treeSum (e.map (·.2)))
  let e := match p.topP with | some tp => e.take (topPCount (e.map (·.2)) r tp) | none => e
  let e := match p.minP with
    | some mp => let thr := Era.mul mp r; e.take 1 ++ (e.drop 1).takeWhile fun x => Era.le thr (Era.mul x.2 r)
    | none => e
  pick e (Era.mul (draw seed position 0) (Era.treeSum (e.map (·.2))))

/-- A draft guess (R136): the highest finite logit, the lowest ID on a tie, ID 0 if no logit is finite. -/
def guess (vocab : Nat) (z : Nat → F32) : Nat :=
  match ((List.range vocab).filter fun i => Era.isFinite (z i)) with
  | [] => 0
  | i :: is => is.foldl (fun b j => if Era.lt (z b) (z j) then j else b) i

end Sys2Proof.Machine.Sampling
end

