-- ==== Sys2Proof/Machine/Types.lean ====
section
/-! DEFINITION. The leaf data types of the machine's state: statuses, image headers, page contents, grammar and
request data. Plain data only. -/
namespace Sys2Proof.Machine

/-- Status codes (R249), in code order. -/
inductive Status where
  | ok | eRange | eLength | eState | eNoent | eQuota | eEnergy | eVersion
  | eAuth | eDigest | eTimeout | eBusy | eEpoch | eMixedStep | eLifecycle | eInternal
  deriving DecidableEq, Repr, Inhabited

/-- The code of a status (R249). -/
def Status.code : Status → Nat
  | .ok => 0 | .eRange => 1 | .eLength => 2 | .eState => 3 | .eNoent => 4 | .eQuota => 5 | .eEnergy => 6
  | .eVersion => 7 | .eAuth => 8 | .eDigest => 9 | .eTimeout => 10 | .eBusy => 11 | .eEpoch => 12
  | .eMixedStep => 13 | .eLifecycle => 14 | .eInternal => 15

/-- Lifecycle states (R307). -/
inductive Lifecycle where
  | blank | manufacture | provisioned | field | rma | scrapped
  deriving DecidableEq, Repr, Inhabited

/-- The code of a lifecycle state (R307). -/
def Lifecycle.code : Lifecycle → Nat
  | .blank => 0 | .manufacture => 1 | .provisioned => 2 | .field => 3 | .rma => 4 | .scrapped => 5

/-- The lifecycle state of a code. -/
def Lifecycle.ofCode : Nat → Option Lifecycle
  | 0 => some .blank | 1 => some .manufacture | 2 => some .provisioned | 3 => some .field
  | 4 => some .rma | 5 => some .scrapped | _ => none

/-- Slot classes (R31). -/
inductive SlotClass where
  | empty | admission | prefill | decode | park | revive | search | chkpt | house
  deriving DecidableEq, Repr, Inhabited

/-- The code of a class (R31). -/
def SlotClass.code : SlotClass → Nat
  | .empty => 0 | .admission => 1 | .prefill => 2 | .decode => 3 | .park => 4 | .revive => 5 | .search => 6
  | .chkpt => 7 | .house => 8

/-- The class of a code; codes 9 to 255 are reserved (R31). -/
def SlotClass.ofCode : Nat → Option SlotClass
  | 0 => some .empty | 1 => some .admission | 2 => some .prefill | 3 => some .decode | 4 => some .park
  | 5 => some .revive | 6 => some .search | 7 => some .chkpt | 8 => some .house | _ => none

/-- One slot entry of a schedule table (R30). -/
structure SlotEntry where
  cls : SlotClass
  startUs : Nat
  budgetUs : Nat
  energyUj : Nat
  engines : Nat
  tenants : Nat
  deriving DecidableEq, Repr, Inhabited

/-- A schedule table (R30): rows of slot entries, the EMPTY entries at a row's end left out. -/
structure SchedTable where
  tableId : Nat
  tickUs : Nat
  startTick : Nat
  rows : List (List SlotEntry)
  deriving DecidableEq, Repr, Inhabited

/-- The header of an image container (R83). -/
structure ImageHdr where
  sealed_ : Bool
  imageLen : Nat
  nChunks : Nat
  nonce : Nat
  bodyOffset : Nat
  bodyLen : Nat
  keyRef : Nat
  digest : Digest
  vocabDigest : Digest
  deriving DecidableEq, Repr, Inhabited

/-- The architecture of a model (R84). -/
structure Arch where
  layers : Nat
  headDim : Nat
  width : Nat
  qHeads : Nat
  kvHeads : Nat
  mlpWidth : Nat
  vocab : Nat
  maxPos : Nat
  rotDims : Nat
  rotHalves : Bool
  act : Nat
  rmsEps : F32
  draftHeads : Nat
  tied : Bool
  embedFmt : Nat
  draftFmt : Nat
  eosIds : List Nat
  pvE4m3 : Bool
  deriving DecidableEq, Repr, Inhabited

/-- One layer table entry (R85): the window of a sparse layer, and the seven format codes. -/
structure LayerEntry where
  window : Option Nat
  fmt : List Nat
  deriving DecidableEq, Repr, Inhabited

/-- The adapter-specific header (R98). -/
structure AdapterHdr where
  baseDigest : Digest
  rank : Nat
  targets : Nat
  fmt : Nat
  alpha : F32
  layers : Nat
  width : Nat
  qDim : Nat
  kvDim : Nat
  mlpWidth : Nat
  deriving DecidableEq, Repr, Inhabited

/-- One tensor (K or V) of one head of one page (R114): element codes of the positions written, the page scale and the
index of the position that set it (standard format), the block scales (condensed format). -/
structure Tensor where
  codes : List Nat
  scale : Option (Nat × Nat)
  blockScales : List Nat
  deriving DecidableEq, Repr, Inhabited

/-- The contents of one page: its page index, positions written, and K and V of each head (R113, R114). -/
structure PageData where
  idx : Nat
  condensed : Bool
  fill : Nat
  heads : List (Tensor × Tensor)
  deriving DecidableEq, Repr, Inhabited

/-- The KV that a unit works on: for each layer, its pages in ascending index. -/
abbrev KvView := List (List PageData)

/-- A grammar state (R150); the stack's bottom comes first. -/
structure GState where
  state : Nat
  stack : List Nat
  deriving DecidableEq, Repr, Inhabited

/-- One action of a grammar row (R148). -/
structure GAction where
  first : Nat
  last : Nat
  next : Nat
  op : Nat
  symbol : Nat
  deriving DecidableEq, Repr, Inhabited

/-- One row of a grammar image with its mask's allowed IDs (R148). -/
structure GRow where
  state : Nat
  top : Nat
  allowed : List Nat
  actions : List GAction
  deriving DecidableEq, Repr, Inhabited

/-- A loaded grammar image (R147, R148). -/
structure Grammar where
  digest : Digest
  vocabDigest : Digest
  vocab : Nat
  maxDepth : Nat
  startState : Nat
  rows : List GRow
  imageLen : Nat
  deriving DecidableEq, Repr, Inhabited

/-- One string table entry (R142). -/
structure VocabEntry where
  special : Bool
  bytes : Bytes
  deriving DecidableEq, Repr, Inhabited

/-- A loaded vocabulary image (R141, R142): merges are (LEFT, RIGHT, RESULT) in rank order. -/
structure Vocab where
  digest : Digest
  byteBase : Nat
  classes : List Nat
  entries : List VocabEntry
  merges : List (Nat × Nat × Nat)
  imageLen : Nat
  deriving DecidableEq, Repr, Inhabited

/-! ### Operands of commands that are not numbers -/

/-- The two counters of the TICK_ block that have a SAT bit (R52). -/
inductive SatCounter where
  | abandon | defer
  deriving DecidableEq, Repr, Inhabited

/-- The name of a unit on every device that runs it (R37): queue stamp, session index (2^24 for none), and the place
among the units its creator made. -/
structure UnitKey where
  stamp : Nat
  session : Nat
  sub : Nat
  deriving DecidableEq, Repr, Inhabited

/-- The address spaces outside the device that tiles and rings reach (R193, R211, R215). -/
inductive HostSpace where
  | port0 | port1 | cxl0 | cxl1
  deriving DecidableEq, Repr, Inhabited

/-- What a MIRROR message holds for one session (R293, R341). -/
structure MirrorEntry where
  session : Nat
  entries : List Bytes
  requestMirror : Bytes
  gstate : Bytes
  deriving DecidableEq, Repr, Inhabited

/-- One candidate of a retrieval query (R230, R235). -/
structure Hit where
  dist : F32
  item : Nat
  side : Bool
  deriving DecidableEq, Repr, Inhabited

/-- A side-list entry (R224). -/
structure SideEntry where
  item : Nat
  seq : Nat
  tomb : Bool
  code : Bytes
  deriving DecidableEq, Repr, Inhabited

/-- A main-list version (R223, R228): the sequence it contains, and its items in ascending ID order. -/
structure MainList where
  ver : Nat
  cseq : Nat
  items : List (Nat × Bytes)
  deriving DecidableEq, Repr, Inhabited

/-- A retrieval store's shard on this device (R221 to R228). -/
structure Store where
  tenant : Nat
  d : Nat
  m : Nat
  metric : Nat
  shards : Word64
  codebook : Bytes
  seq : Nat
  degraded : Bool
  /-- Newest version first. -/
  mains : List MainList
  side : List SideEntry
  /-- A COMPACT under way: CSEQ, its command, and the ranks that have committed. -/
  compact : Option (Nat × Option Nat × List Nat)
  deriving DecidableEq, Repr, Inhabited

/-- What a MOVE message carries (R278, R102, R225, R294, R298, R334). -/
inductive MoveItem where
  /-- A vocabulary, a grammar, an adapter version with its body and whether it retires, the last version number of an adapter
  ID, and the current version, for a joining device (R102). -/
  | vocab (slot : Nat) (v : Vocab)
  | grammar (id : Nat) (g : Grammar)
  | adapterVer (id ver : Nat) (retiring : Bool) (digest : Digest) (hdr : AdapterHdr) (keyRef : Option (BitVec 128)) (body : Bytes)
  | adapterId (id lastVersion : Nat) (current : Option Nat)
  /-- A whole spool, with its request's mirror record and grammar state, for the new buddy, or the new sampling device
  (R294, R297). -/
  | spool (session : Nat) (entries : List Bytes) (requestMirror gstate : Bytes)
  /-- Moved KV parts of a session (R297): its pages by layer. -/
  | kv (session kvlen : Nat) (pages : KvView)
  /-- Plaintext tiles of a model body from a byte offset (R298). -/
  | tiles (digest : Digest) (offset : Nat) (data : Bytes)
  /-- A retrieval store's record, for a joining device (R102, R225). -/
  | store (id : Nat) (st : Store)
  /-- A member's shard digest, length and session count (R334). -/
  | shard (digest : Digest) (len sessions : Nat)
  deriving DecidableEq, Repr, Inhabited

/-- One tenant as JOIN_GO copies it (R291): ID, quota block, PROTECTED, mailbox, shaper. -/
structure TenantCopy where
  id : Nat
  quota : Bytes
  isProtected : Bool
  mailbox : Nat
  rate : Nat
  burst : Nat
  bucket : Int
  deriving DecidableEq, Repr, Inhabited

/-- One ACTIVE model slot as JOIN_GO names it: slot, PIN, TENANT_MASK, image address and length (R93, R298). -/
structure ModelCopy where
  slot : Nat
  pin : Bool
  mask : Word64
  addr : Nat
  len : Nat
  deriving DecidableEq, Repr, Inhabited

/-- What JOIN_GO gives the new member under MODE 1 (R291): tenants with quotas and shapers, grants (mailbox, tenant, quota,
PROTECTED), the route map image and epoch, session descriptors, and the model slots whose tiles it is to fetch. -/
structure JoinCopy where
  tenants : List TenantCopy
  grants : List (Nat × Nat × Bytes × Bool)
  routeMap : Bytes
  epoch : Nat
  descriptors : List Bytes
  models : List ModelCopy
  deriving DecidableEq, Repr, Inhabited

/-- The way a HELLO message came (R315): over a link in KEYING, from a group member, or from a handoff peer. -/
inductive HelloVia where
  | link (port : Fin 20)
  | member (rank : Fin 64)
  | transport (handoff : Word64)
  deriving DecidableEq, Repr, Inhabited

/-- One block entry of a BIST record (R378). -/
structure BistBlock where
  block : Nat
  result : Nat
  signature : Word64
  deriving DecidableEq, Repr, Inhabited

/-- One fault entry of a BIST record (R378). -/
structure BistFault where
  block : Nat
  kind : Nat
  repair : Nat
  bit : Nat
  address : Word64
  deriving DecidableEq, Repr, Inhabited

/-- What a run of the self-test gives (R375, R376): refused by its preconditions, or the entries of its record. -/
inductive BistRun where
  | refused
  | ran (blocks : List BistBlock) (faults : List BistFault)
  deriving DecidableEq, Repr, Inhabited

end Sys2Proof.Machine
end

