-- ==== Sys2Proof/Syntax.lean ====
section
/-! DEFINITION. The commands of the block: one constructor per row of spec/opcode_table.json, with the row's operands.
A host command carries its mailbox and the 64 bytes that Steward fetched (R248); a doorbell and the opening of the
commit window carry what the host wrote to its own memory before them (host memory has no row of its own). -/
namespace Sys2Proof
open Machine

inductive Instr where
  /-- Host command that negotiates the NCI version of a mailbox channel. (R252) -/
  | negotiate (m : Fin 64) (c : Cmd)
  /-- Host command that opens a negotiated mailbox channel. (R254) -/
  | openChannel (m : Fin 64) (c : Cmd)
  /-- Host command that returns an open channel to idle if nothing is pending. (R254) -/
  | closeChannel (m : Fin 64) (c : Cmd)
  /-- Host command 0x0104 that writes a selected status item to a host buffer. (R260) -/
  | query (m : Fin 64) (c : Cmd)
  /-- Host command that checks a model image and starts loading the device's shard into a slot. (R90) -/
  | loadModel (m : Fin 64) (c : Cmd)
  /-- Host command that moves an ACTIVE model slot to RETIRING with a drain deadline. (R96) -/
  | evictModel (m : Fin 64) (c : Cmd)
  /-- Host command that checks and loads a new adapter version. (R99) -/
  | loadAdapter (m : Fin 64) (c : Cmd)
  /-- Host command that makes an adapter version retiring. (R101) -/
  | retireAdapter (m : Fin 64) (c : Cmd)
  /-- Host command that checks and loads, replaces or frees a grammar image. (R149) -/
  | loadGrammar (m : Fin 64) (c : Cmd)
  /-- Host command that checks and loads or frees a vocabulary slot. (R142) -/
  | loadVocab (m : Fin 64) (c : Cmd)
  /-- Host command that creates an IDLE session bound to a model and writes its OPEN entry. (R171) -/
  | sessionCreate (m : Fin 64) (c : Cmd)
  /-- Host command that releases a session's state and frees its index. (R172) -/
  | sessionDestroy (m : Fin 64) (c : Cmd)
  /-- Host command that orders a thin or full hank copy of a session into a park store. (R183) -/
  | park (m : Fin 64) (c : Cmd)
  /-- Host command that checks a hank and starts a full or recompute revival. (R185) -/
  | revive (m : Fin 64) (c : Cmd)
  /-- Host command that starts a handoff of a session to another device. (R189) -/
  | handoffOffer (m : Fin 64) (c : Cmd)
  /-- Host command that accepts or refuses an incoming handoff offer. (R190) -/
  | handoffCommit (m : Fin 64) (c : Cmd)
  /-- Host command that asks the source of a handoff who owns the session. (R191) -/
  | queryOwner (m : Fin 64) (c : Cmd)
  /-- Host command that settles an unreachable handoff from a verified reel. (R192) -/
  | adopt (m : Fin 64) (c : Cmd)
  /-- Host command that starts writing a HELD session's output into a new ring. (R198) -/
  | claim (m : Fin 64) (c : Cmd)
  /-- Host command that deletes prefix-tree nodes and starts a recount sweep of pinned pages. (R129) -/
  | purge (m : Fin 64) (c : Cmd)
  /-- Host command that checks and admits a request to a session. (R263) -/
  | submit (m : Fin 64) (c : Cmd)
  /-- Host command that cancels a request at its acting commit point. (R163) -/
  | cancel (m : Fin 64) (c : Cmd)
  /-- Host command that continues a STALLED request with a new or no grammar. (R154) -/
  | resume (m : Fin 64) (c : Cmd)
  /-- Host command that removes the last positions of a session's history. (R166) -/
  | retract (m : Fin 64) (c : Cmd)
  /-- Host command that creates a retrieval store on its shard devices. (R221) -/
  | storeCreate (m : Fin 64) (c : Cmd)
  /-- Host command that inserts items into a retrieval store as a group unit. (R226) -/
  | insert (m : Fin 64) (c : Cmd)
  /-- Host command that appends tombstones for items of a retrieval store. (R226) -/
  | delete (m : Fin 64) (c : Cmd)
  /-- Host command 0x0504 that takes a snapshot and queues a top-k scan of a store. (R231) -/
  | storeQuery (m : Fin 64) (c : Cmd)
  /-- Host command that starts building a new main list of a store on each shard. (R228) -/
  | compact (m : Fin 64) (c : Cmd)
  /-- Host command that starts a group checkpoint of all sessions into shards and a reel. (R332) -/
  | checkpoint (m : Fin 64) (c : Cmd)
  /-- Host command that selects a qualifying reel and restores its sessions. (R336) -/
  | restore (m : Fin 64) (c : Cmd)
  /-- Host command that checks a reel's length, fields, version and signature. (R331) -/
  | verifyReel (m : Fin 64) (c : Cmd)
  /-- Host command that creates a tenant or records a grant, with a vault write. (R259) -/
  | tenantCreate (m : Fin 64) (c : Cmd)
  /-- Host command that writes a signed attestation report or installs a key release blob. (R323) -/
  | attest (m : Fin 64) (c : Cmd)
  /-- Host command that rotates, drops kept or erases a tenant's key generations. (R320) -/
  | keyRotate (m : Fin 64) (c : Cmd)
  /-- Host command that checks and stages a schedule table. (R33) -/
  | schedLoad (m : Fin 64) (c : Cmd)
  /-- Host command that checks and stages a gate list for a Twine port. (R282) -/
  | gateListLoad (m : Fin 64) (c : Cmd)
  /-- Host command that sets a tenant token-rate shaper or a link shaper. (R284) -/
  | shaperSet (m : Fin 64) (c : Cmd)
  /-- Host command that sets the board power limit for the next whorl boundary. (R361) -/
  | energySet (m : Fin 64) (c : Cmd)
  /-- Host command that configures and arms or disables trace capture. (R351) -/
  | traceCfg (m : Fin 64) (c : Cmd)
  /-- Host command that writes a trace trigger record. (R353) -/
  | traceTrigger (m : Fin 64) (c : Cmd)
  /-- Host command that copies the staged hang dump to host memory, capturing one if none is staged. (R358) -/
  | hangDump (m : Fin 64) (c : Cmd)
  /-- Host command that writes a snapshot of one counter group. (R347) -/
  | countersRead (m : Fin 64) (c : Cmd)
  /-- Host command that checks a group descriptor and starts forming or joining a group. (R290) -/
  | groupJoin (m : Fin 64) (c : Cmd)
  /-- Host command that removes a named member with its state moved. (R300) -/
  | groupShrink (m : Fin 64) (c : Cmd)
  /-- Host command that checks and accepts a new route map for activation. (R194) -/
  | routeMapSet (m : Fin 64) (c : Cmd)
  /-- Host command that quiesces the device and optionally starts the self-test. (R374) -/
  | shutdown (m : Fin 64) (c : Cmd)
  /-- Host command that writes the stored self-test record. (R378) -/
  | bistResults (m : Fin 64) (c : Cmd)
  /-- Direct host mode work entry that creates a session. (R268) -/
  | dciCreate (e : Cmd)
  /-- Direct host mode work entry that appends tokens and runs prefill. (R268) -/
  | dciInput (e : Cmd)
  /-- Direct host mode work entry that runs one decode step with k = 0. (R268) -/
  | dciStep (e : Cmd)
  /-- Direct host mode work entry that runs a Flyer descriptor. (R268) -/
  | dciFlyer (e : Cmd)
  /-- Direct host mode work entry that destroys a session. (R268) -/
  | dciDestroy (e : Cmd)
  /-- Write of 1 to GLB_CTRL.DCI_REQ that enters direct host mode. (R264) -/
  | dciReqSet
  /-- Write of 0 to GLB_CTRL.DCI_REQ that ends direct host mode and restarts Steward. (R266) -/
  | dciReqClear
  /-- Write of 1 to GLB_CTRL.WARM_RESET that starts a warm reset. (R371) -/
  | warmReset
  /-- Write of 1 to MBX_CTRL.ENABLE that validates configuration and starts the mailbox afresh. (R244) -/
  | mbxEnable (m : Fin 64)
  /-- Write of 0 to MBX_CTRL.ENABLE that stops the mailbox and cancels its requests. (R241) -/
  | mbxDisable (m : Fin 64)
  /-- Doorbell write of MBX_SQ_TAIL that makes commands available or sets SQ_ERR. (R244) -/
  | sqTailWrite (m : Fin 64) (v : Word32) (hw : List (Nat × List Byte))
  /-- Doorbell write of MBX_CQ_HEAD that frees completion entries. (R244) -/
  | cqHeadWrite (m : Fin 64) (v : Word32) (hw : List (Nat × List Byte))
  /-- Write of TICK_CTRL that selects the tick source in direct host mode only. (R52) -/
  | tickCtrlWrite (v : Word32)
  /-- Read of TICK_NOW_LO that latches TICK_HI. (R52) -/
  | tickNowLoRead
  /-- Write of 1 to a counter's SAT bit that clears the bit and the count. (R52) -/
  | satClear (r : SatCounter)
  /-- Write of DCI_CTRL.ENABLE that starts or stops serving the DCI work queue. (R267) -/
  | dciEnableWrite (v : Word32)
  /-- Doorbell write of DCI_WQ_TAIL that makes work entries available or sets WQ_ERR. (R267) -/
  | dciWqTailWrite (v : Word32) (hw : List (Nat × List Byte))
  /-- Doorbell write of DCI_CQ_HEAD that frees DCI completion entries. (R267) -/
  | dciCqHeadWrite (v : Word32)
  /-- Write to a register field without behaviour of its own, acting per its access code. (R8) -/
  | registerWrite (f : Fin 64) (off : BitVec 24) (v : Word32)
  /-- JTAG instruction that returns and keeps a random lifecycle challenge. (R308) -/
  | lcChallenge
  /-- JTAG instruction that checks a signed token and makes a lifecycle transition. (R308) -/
  | lcAdvance (token : BitVec 1536)
  /-- JTAG instruction that reads the BIST record of a device stopped on BIST failure. (R373) -/
  | bistRead
  /-- JTAG use of the raw test engine, setting debug bit 4. (R377) -/
  | rawTestEngine
  /-- Power-up or PWR_RST_N low clears all state except fuses, BIST record and flash. (R371) -/
  | coldReset
  /-- Rising edge of PWR_RST_N samples straps and starts the cold boot sequence. (R372) -/
  | boot (straps : BitVec 9) (signatureOk : Bool)
  /-- Expiry of the strap-selected crystal wait, after which PLLs start. (R369) -/
  | oscWaitDone
  /-- End of the boot sequence, when the device reports READY. (R372) -/
  | bootComplete
  /-- A rail leaves its range while running and the device halts. (R370) -/
  | railFault
  /-- An on-die sensor above 115 deg C for 10 µs halts the device and asserts PWR_ALERT_N. (R390) -/
  | thermalTrip
  /-- Loss of CLK_XTAL halts the device with MODE 0b11. (R367) -/
  | xtalLoss
  /-- Loss of CLK_HOST takes both host links down. (R367) -/
  | hostClockLoss
  /-- Loss of a CLK_TWN input takes its five ports down. (R270) -/
  | twineClockLoss (k : Fin 4)
  /-- PCIe fundamental reset of one host port's link on its PERST_N pin. (R388) -/
  | pciePerst (p : Fin 2)
  /-- PCIe Function Level Reset that resets one function's mailbox. (R241) -/
  | functionLevelReset (f : Fin 64)
  /-- End of a tick, at which all staged effects of the tick become visible together. (R45) -/
  | commitPoint
  /-- An accepted TICK_IN edge starts the local tick after the fixed delay. (R26) -/
  | tickInEdge (sinceUs : Nat)
  /-- A Twine tick marker flit starts the tick on the marker source and is forwarded. (R27) -/
  | tickMarker (port : Fin 20) (tick : BitVec 48) (root : Fin 64)
  /-- Two ticks without a TICK_IN edge switch the device to the marker source. (R28) -/
  | pinLoss
  /-- 64 good TICK_IN edges switch the device back to the pin source at a whorl boundary. (R28) -/
  | pinRestore
  /-- A marker mismatch or no tick within twice the tick length makes the device leave its group. (R29) -/
  | tickFault (marker : Option (BitVec 48))
  /-- Every 64 ticks the energy ledger settles debt and publishes the new allowance. (R363) -/
  | whorlBoundary (measuredUj : Nat)
  /-- The sequencer carries out a chosen operating-point step 64 ticks later. (R367) -/
  | operatingPointStep (ok : Bool)
  /-- The 100 µs power average above 2,400 W zeroes the allowance. (R364) -/
  | peakTrip
  /-- At START_TICK a staged table becomes active after GO, or alone outside a group. (R35) -/
  | schedActivate
  /-- At B + 8 the decider sends its table verdict, DROP if digests are missing. (R35) -/
  | verdictDeadline
  /-- A member without a verdict four ticks after B + 8 stops countable STATUS. (R35) -/
  | verdictWaitExpiry
  /-- At a slot's start the E9 admits queued units of its class. (R37) -/
  | slotStart (k : Fin 16)
  /-- At a slot's end every unfinished unit is abandoned without effect. (R40) -/
  | slotEnd (k : Fin 16)
  /-- A unit abandoned 256 times in a row ends its owning work with E_TIMEOUT. (R42) -/
  | unitEnded (u : Nat)
  /-- At TICK_US − 8 µs participants report READY or NOT_READY and Steward does its commit-window work. (R48) -/
  | commitWindowOpen (hw : List (Nat × List Byte))
  /-- At TICK_US − 5 µs a coordinator without READY from all sends ABANDON. (R48) -/
  | coordinatorDeadline
  /-- A Steward command without MIRROR_ACK by TICK_US − 2 µs is re-checked next tick. (R293) -/
  | mirrorAckDeadline
  /-- A unit in doubt for 64 ticks is abandoned and handed to fault replay. (R49) -/
  | inDoubtExpiry (u : Nat)
  /-- ADMIT unit that tokenizes whole pieces of request text. (R144) -/
  | tokenize (u : Nat)
  /-- ADMIT unit that matches prefix-tree chunks and maps shared pages. (R126) -/
  | prefixLookup (u : Nat)
  /-- PREFILL unit that runs the model over a run of positions and restripes its KV. (R106) -/
  | prefillSlice (u : Nat)
  /-- DECODE unit that runs a step, samples and decides accepted tokens. (R135) -/
  | decodeStep (u : Nat)
  /-- A request's next DECODE unit is created at the first commit point with ring room. (R158) -/
  | decodeUnitCreate (r : Nat)
  /-- A request that waits 10 s for ring room completes with E_TIMEOUT. (R158) -/
  | ringRoomTimeout (r : Nat)
  /-- A STALLED request not resumed within STALL_HOLD_MS is freed. (R153) -/
  | stallHoldExpiry (r : Nat)
  /-- PARK unit that writes one hank tile, completing the park with the header tile. (R184) -/
  | parkTile (u : Nat)
  /-- An unacknowledged park tile write after 100 ms fails the park. (R184) -/
  | parkTileTimeout (u : Nat)
  /-- REVIVE unit that reads and checks one hank tile, completing a full revival with the last. (R185) -/
  | reviveTile (u : Nat)
  /-- A hank tile read not complete within 100 ms fails the revival. (R185) -/
  | reviveTileTimeout (u : Nat)
  /-- SEARCH unit that scans 32 MiB per Spindle for one scan group. (R233) -/
  | searchPass (u : Nat)
  /-- A store query not written by its deadline completes with E_TIMEOUT. (R231) -/
  | storeQueryDeadline (q : Nat)
  /-- CHKPT unit that writes one shard tile. (R334) -/
  | chkptTile (u : Nat)
  /-- An unacknowledged checkpoint tile write after 100 ms fails the checkpoint. (R335) -/
  | chkptTileTimeout (u : Nat)
  /-- When all shard digests are held the accepting member writes the signed reel. (R334) -/
  | reelWrite
  /-- HOUSE unit that builds a shard's new main list of a store. (R228) -/
  | compactBuild (u : Nat)
  /-- HOUSE unit that deletes prefix-tree leaves until use falls to 3/4 of budget. (R128) -/
  | prune (u : Nat)
  /-- HOUSE sweep that recounts holders of pinned pages after PURGE. (R129) -/
  | purgeSweep (u : Nat)
  /-- A purge sweep not ended within 10 s completes PURGE with E_TIMEOUT. (R129) -/
  | purgeTimeout (p : Nat)
  /-- HOUSE unit that re-encrypts a 2 MiB page from a DRAINING generation. (R321) -/
  | reencryptionSweep (u : Nat)
  /-- HOUSE system unit that frees an evicted model's shard when its last request ends. (R96) -/
  | modelShardFree (u : Nat)
  /-- At the drain deadline a still-bound RETIRING model returns to ACTIVE. (R96) -/
  | evictDrainDeadline (slot : Fin 8)
  /-- HOUSE unit that frees a retiring adapter version with no bound requests. (R101) -/
  | adapterFree (u : Nat)
  /-- Completion of a background read of a model shard chunk, checked by tag and digest. (R91) -/
  | modelChunkRead (slot : Fin 8) (chunk : Nat)
  /-- A model chunk read not complete within 100 ms fails the load. (R91) -/
  | modelChunkTimeout (slot : Fin 8) (chunk : Nat)
  /-- Outside a group the model becomes ACTIVE at the commit after its last chunk passes. (R91) -/
  | modelActivate (slot : Fin 8)
  /-- Expiry of GROUP_WAIT_S makes the lowest rank send ABORT for a group load. (R92) -/
  | groupWaitTimeout (x : Nat)
  /-- Commit point at which every member applies a group-exchanged change. (R92) -/
  | groupApply (x : Nat)
  /-- Completion of a key vault write, completing TENANT_CREATE or KEY_ROTATE. (R311) -/
  | vaultWriteDone
  /-- A release private key expires 600 s after its report. (R317) -/
  | releaseKeyExpiry (id : Word64)
  /-- A new route map epoch activates and live requests take or keep their epoch. (R195) -/
  | routeMapActivate
  /-- At D requests still under the old epoch stop and their output is held. (R196) -/
  | epochDrainDeadline
  /-- Held output not claimed by D + HOLD_S is discarded. (R199) -/
  | holdTimeout (idx : Nat)
  /-- At the source deadline without ACCEPT the session reverts and ABORT is sent. (R189) -/
  | handoffOfferDeadline (h : Word64)
  /-- At its deadline an ACCEPTING destination starts querying the source. (R191) -/
  | handoffAcceptDeadline (h : Word64)
  /-- The destination repeats QUERY_OWNER every 10 ms until answered. (R191) -/
  | ownerQueryRetry (h : Word64)
  /-- A handoff not settled by twice H completes HANDOFF_COMMIT with E_TIMEOUT. (R191) -/
  | handoffSettleTimeout (h : Word64)
  /-- Handoff message OFFER received, reported to the host on mailbox 0. (R190) -/
  | offer (src : Word64) (msg : BitVec 1024)
  /-- Handoff message ACCEPT received; the source relinquishes at the commit. (R189) -/
  | accept (src : Word64) (msg : BitVec 1024)
  /-- Handoff message COMMIT received; the destination acquires the session. (R190) -/
  | handoffMsgCommit (src : Word64) (msg : BitVec 1024)
  /-- Handoff message ABORT received; the receiving side reverts or frees the index. (R189) -/
  | handoffMsgAbort (src : Word64) (msg : BitVec 1024)
  /-- Handoff message QUERY_OWNER received; the source answers with a verdict. (R189) -/
  | queryOwnerMsg (src : Word64) (msg : BitVec 1024)
  /-- Handoff message OWNER_REPLY received; the asker activates, frees or waits. (R191) -/
  | ownerReply (src : Word64) (msg : BitVec 1024)
  /-- A handoff hank tile message received by the destination. (R189) -/
  | hankTile (src : Word64) (h : Word64) (tile : Nat) (data : List Byte)
  /-- Group message READY for a unit received by its coordinator. (R48) -/
  | ready (rank : Fin 64) (key : UnitKey)
  /-- Group message NOT_READY for a unit received by its coordinator. (R48) -/
  | notReady (rank : Fin 64) (key : UnitKey)
  /-- Coordinator decision COMMIT received, applied at the commit point. (R48) -/
  | commit (rank : Fin 64) (key : UnitKey)
  /-- Coordinator decision ABANDON received, applied at the commit point. (R48) -/
  | abandon (rank : Fin 64) (key : UnitKey)
  /-- A participant's query for a kept coordinator decision. (R49) -/
  | decisionQuery (rank : Fin 64) (key : UnitKey)
  /-- A member's staged-table digest received by the decider. (R35) -/
  | tableDigest (rank : Fin 64) (id : Word32) (digest : Digest)
  /-- GO or DROP verdict received for a staged table. (R35) -/
  | tableVerdict (go : Bool)
  /-- A member's LOADED report received by the lowest rank. (R92) -/
  | loaded (rank : Fin 64) (digest : Digest) (lastVersion : Nat)
  /-- A member's FAILED report received by the lowest rank, which aborts. (R92) -/
  | failed (rank : Fin 64) (digest : Digest) (status : Fin 16)
  /-- ACTIVATE message naming the commit point at which a load applies. (R92) -/
  | activate (digest : Digest) (tick : BitVec 48) (version : Nat)
  /-- ABORT message that makes every member free a group load. (R92) -/
  | abort (digest : Digest)
  /-- A forwarded group-wide command received for application at one commit point. (R292) -/
  | forward (rank : Fin 64) (c : Cmd) (body : List Byte)
  /-- Spool entries received by the buddy and staged for the same commit. (R293) -/
  | mirror (rank : Fin 64) (key : UnitKey) (entries : List MirrorEntry)
  /-- Buddy acknowledgement that lets a unit report READY. (R293) -/
  | mirrorAck (rank : Fin 64) (key : UnitKey)
  /-- In-slot activations, partial sums, logits or sparse fetches received. (R278) -/
  | act (rank : Fin 64) (body : List Byte)
  /-- Weight tiles, KV parts, spools or images received in a MOVE message. (R278) -/
  | move (rank : Fin 64) (item : MoveItem)
  /-- A shard's top-k list received by the accepting device, which merges when all are held. (R235) -/
  | topk (rank : Fin 64) (stamp : Word64) (query : Nat) (hits : List Hit)
  /-- Trace message received over Twine. (R278) -/
  | traceMsg (rank : Fin 64) (body : List Byte)
  /-- A member's STATUS received, enabling delivery of its committed messages. (R287) -/
  | status (rank : Fin 64) (tick : BitVec 48) (counts : List Nat)
  /-- Four ticks without STATUS from a member make the decider declare it lost. (R295) -/
  | memberLost (rank : Fin 64)
  /-- SHRINK message naming the survivors and the commit point C. (R296) -/
  | shrink (survivors : Word64) (tick : BitVec 48)
  /-- At commit point C the survivors compact ranks and re-evaluate mappings. (R296) -/
  | widthChange
  /-- HOUSE unit that moves or releases a session's state after a width change. (R297) -/
  | sessionMove (u : Nat)
  /-- System unit that fetches model or adapter tiles new to a survivor's shard. (R298) -/
  | reshardTile (u : Nat)
  /-- GROUP_SHRINK moves not committed within 60 s complete with E_TIMEOUT. (R300) -/
  | shrinkTimeout
  /-- A device's JOIN_ACK received by rank 0 during a join. (R291) -/
  | joinAck (rank : Fin 64) (status : Fin 16)
  /-- JOIN_PROPOSE received with JOIN_TICK and the root's table. (R291) -/
  | joinPropose (joinTick : BitVec 48) (table : List Byte)
  /-- JOIN_GO at JOIN_TICK makes every device take its rank, tick and table. (R291) -/
  | joinGo (tick : BitVec 48) (copy : Option JoinCopy)
  /-- A join not completed by DEADLINE_MS fails with E_TIMEOUT. (R290) -/
  | joinTimeout
  /-- HELLO message with an optional key-exchange phase received. (R315) -/
  | hello (via : HelloVia) (body : List Byte)
  /-- A port completes training at full or half width, or goes DOWN. (R271) -/
  | linkTrained (port : Fin 20) (lanes : BitVec 8)
  /-- A DOWN port retrains every 1 s. (R271) -/
  | portRetrain (port : Fin 20)
  /-- Three tag failures or 16 resends of one flit take the port DOWN. (R275) -/
  | portDown (port : Fin 20)
  /-- CTRL RETRY flit received; the sender goes back to the expected SEQ. (R275) -/
  | retry (port : Fin 20) (seq : BitVec 16)
  /-- No ACK progress for 4 µs makes the sender resend from the oldest flit. (R275) -/
  | linkRetryTimeout (port : Fin 20)
  /-- CTRL ECHO flit received and answered with ECHO_REPLY. (R291) -/
  | echo (port : Fin 20) (ns : Word64)
  /-- CTRL ECHO_REPLY received, giving a round-trip latency sample. (R291) -/
  | echoReply (port : Fin 20) (ns : Word64) (nowNs : Word64)
  /-- After 2^31 flits the sender moves to the next phase key. (R274) -/
  | keyPhaseSwitch (port : Fin 20)
  /-- At each 1 µs boundary a link shaper adds RATE bytes. (R285) -/
  | linkShaperRefill (port : Fin 20)
  /-- At TAKEOVER_TICK a staged gate list replaces the active one. (R283) -/
  | gateTakeover (port : Fin 20)
  /-- At an entry's START_US the port's open classes change. (R282) -/
  | gateEntrySwitch (port : Fin 20) (entry : Fin 32)
  /-- A host ATS translation response is cached or reports not present. (R216) -/
  | atsResponse (space : HostSpace) (page : Nat) (frame : Option Nat)
  /-- A page request response resolves a translation fault or refuses the page. (R217) -/
  | pageResponse (space : HostSpace) (page : Nat) (ok : Bool)
  /-- A page request unanswered for 100 ms fails the background transfer. (R219) -/
  | pageRequestTimeout (space : HostSpace) (page : Nat)
  /-- A host invalidation completes after the tile using the entry ends. (R216) -/
  | atsInvalidation (space : HostSpace) (page : Nat)
  /-- Held records and completions are written once the ring translation is present. (R220) -/
  | delayedRingWrite (space : HostSpace) (page : Nat)
  /-- No fetch from a non-empty SQ for MBX_WDOG.MS sets WDOG and declares a hang. (R246) -/
  | mailboxWatchdog (m : Fin 64)
  /-- Steward watchdog expiry enters direct host mode with cause 2. (R265) -/
  | stewardWatchdog
  /-- A commit or engine release overdue declares a hang with cause 0. (R356) -/
  | tickWatchdog
  /-- A hang dump copy not ended within 10 s fails with E_TIMEOUT. (R358) -/
  | hangDumpTimeout
  /-- End of the shut-down self-test, writing the record and setting SHUT to 3. (R375) -/
  | bistRunDone (run : BistRun)
  /-- Receipt of a Twine flit: its ACK and returned credits are taken, and a flit that fails FEC or its tag, or that leaves a SEQ gap, is dropped and RETRY is sent for the expected SEQ. (R275) -/
  | flit (port : Fin 20) (flit : BitVec 2048) (fecOk : Bool)
  /-- Steward finishes restarting from the boot flash after direct host mode ends, READY returns to 1 and every mailbox channel is idle. (R266) -/
  | stewardRestart
  /-- A member finishes reading and placing one session's shard record during RESTORE, the session leaves REVIVING, and RESTORE completes with the last record, or a failed or mismatching tile read ends it. (R339) -/
  | restoreRecord (idx : Nat) (ok : Bool)
  /-- A HOUSE system unit marks the BIST record's repair entries as applied after each boot. (R376) -/
  | bistResultUpkeep (u : Nat)
  /-- A write of MBX_CTRL.WDOG_EN that stops the mailbox watchdog or, on 0 then 1, rearms it to time a new period. (R246) -/
  | wdogEnWrite (m : Fin 64) (v : Bool)
  deriving DecidableEq, Repr

end Sys2Proof
end

