-- ==== Sys2Proof/Decode.lean ====
section
/-! DEFINITION. The command that a word spells by the bits of spec/opcode_table.json. No row of the table gives bits. -/
namespace Sys2Proof

/-- The command of a table word: none, since the table gives no row bits. DESIGN CHOICE (log 113). -/
def decodeTableWord (_nbits _w : Nat) : Option Instr := none

end Sys2Proof
end

