-- ==== Sys2Proof/Config.lean ====
section
/-! DEFINITION. What the spec leaves open for one device or one draw. Every constant here has no body: no proof sees a
value of it, and a statement holds whatever it is. -/
namespace Sys2Proof.Config

/-- The value of the n-th draw that the spec leaves open: random bytes of the CTR_DRBG (R310), nonces, seeds, keys and
challenges. A drawer takes the low bits it needs. DESIGN CHOICE (log 4). -/
opaque freeValue : Nat → BitVec 512

/-- DEVICE_ID as fused (R242, R309). DESIGN CHOICE (log 2). -/
opaque deviceId : Word64
/-- The device root secret as fused (R309, R310). DESIGN CHOICE (log 2). -/
opaque deviceRootSecret : Key
/-- The private identity key as fused (R309, R310): a P-384 scalar. DESIGN CHOICE (log 2). -/
opaque identityKey : Nat
/-- CERT_SIG as fused (R309): 96 bytes. -/
opaque certSig : BitVec 768
/-- Lenkeson's device-CA public key in ROM (R316): 97 bytes, uncompressed. -/
opaque deviceCaKey : BitVec 776
/-- Lenkeson's lifecycle public key in ROM (R308): 97 bytes, uncompressed. -/
opaque lifecycleKey : BitVec 776
/-- The firmware digests ROM, BOOT, STEWARD, WARDEN, TALLY and SCRIBE of the attestation report (R324), in order. -/
opaque firmwareDigest : Nat → Digest
/-- The vault contents of the flash as the board delivers it are empty; the flash image's version of a block's BIST
signature is in ROM (R376): the ROM signature of a block. -/
opaque romSignature : Nat → Word64

/-- Device virtual addresses that the device chooses by an internal rule (R169): by session index and which of
SPOOL_FIRST (0), SPOOL_LAST (1) and PAGE_MAP (2). PRESUMED (log 6). -/
opaque deviceVa : Nat → Nat → Word64

/-- The amounts of work of one unit (R362); the spec gives the cost of each amount and no formula for the amounts. -/
structure Work where
  memoryMib : Nat
  mx4Passes : Nat
  mx8Passes : Nat
  bf16Passes : Nat
  blocks : Nat
  pqEntries : Nat
  twineMib : Nat
  hostTiles : Nat
  sramMib : Nat
  deriving DecidableEq, Repr, Inhabited

/-- The work of a unit of a kind (its code), of a size, on a group of a width (R362). DESIGN CHOICE (log 9). -/
opaque work : Nat → Nat → Nat → Work

/-- Granules of the KV arena that tenants may use on one Spindle (R114, R201), those of the device first, then those of the other
members by their number in the group: not stated.
DESIGN CHOICE (log 111). -/
opaque arenaGranules : Nat → Nat
/-- Node records that a tenant's node pool holds (R124, R127): not stated. DESIGN CHOICE (log 111). -/
opaque nodePool : Nat → Nat
/-- Cells of the page record pool (R117): not stated. DESIGN CHOICE (log 111). -/
opaque recordCells : Nat
/-- Sections 0 to 8 of a hang dump (R359), whose entry layouts the spec does not state: by draw and section.
DESIGN CHOICE (log 31). -/
opaque dumpSection : Nat → Nat → List (BitVec 8)
/-- A byte of a Twine message whose body the spec gives no layout (R278), by draw and offset. DESIGN CHOICE (log 45). -/
opaque messageByte : Nat → Nat → BitVec 8
/-- A byte at a device virtual address that no Flyer descriptor has written (R214), by draw and address.
PRESUMED (log 6). -/
opaque deviceByte : Nat → Nat → BitVec 8
/-- The translation entry of a 64 KiB page of the small-page window that the model does not hold (R214, R215): FRAME, CTL, KEY_GEN
are boot firmware's and not stated. DESIGN CHOICE (log 89). -/
opaque translation : Nat → Nat × BitVec 32 × Nat

/-- A plaintext byte of the body of an image, by digest and offset, that this device does not hold: another member of the group holds
its part of a model or an adapter (R102, R103), and an adapter that a replay names may be gone (R97). DESIGN CHOICE (log 127). -/
opaque imageByte : Digest → Nat → BitVec 8
/-- The header of an adapter image that is gone while a replay names its digest. DESIGN CHOICE (log 127). -/
opaque imageHeader : Digest → List (BitVec 8)

end Sys2Proof.Config
end

