-- ==== Sys2Proof/Machine/Forward.lean ====
section
/-! DEFINITION. The evaluation of a model at one position: layer stages (R72), rotary positions (R73), attention (R74,
R107 to R111), the model (R87), the draft heads (R88), over KV pages in the stored formats (R62, R114 to R116, R122). -/
namespace Sys2Proof.Machine.Fwd

open Era

/-- The FP32 value nearest the rational a/b (RNE_fp32 of R72). -/
def ratTo32 (a b : Nat) : F32 :=
  let s := 64 + Nat.log2 b
  let q := a * 2 ^ s / b
  round32 false (2 * q + (if a * 2 ^ s % b = 0 then 0 else 1)) (-(s : Int) - 1)

/-- RNE_fp32(√(2/π)) -/
def geluScale : F32 := 0x3F4C422A#32
/-- RNE_fp32(0.044715) -/
def geluCubic : F32 := ratTo32 44715 1000000
def two32 : F32 := 0x40000000#32
def half32 : F32 := 0x3F000000#32

def silu (x : F32) : F32 := mul x (recip (add one32 (exp (neg32 x))))

def gelu (x : F32) : F32 :=
  let u := mul geluScale (add x (mul geluCubic (mul x (mul x x))))
  let th := sub one32 (mul two32 (recip (add (exp (mul two32 u)) one32)))
  mul (mul half32 x) (add one32 th)

def relu (x : F32) : F32 := if isNaN x then nan32 else if lt 0#32 x then x else 0#32

/-- The activation of R84: 0 SiLU, 1 GELU, 2 ReLU. -/
def act (k : Nat) (x : F32) : F32 := match k with | 0 => silu x | 1 => gelu x | _ => relu x

/-- RMS normalisation (R72). -/
def rmsnorm (eps : F32) (x gain : List F32) : List F32 :=
  let ss := treeSum (x.map fun v => product (val32 v) (val32 v))
  let ms := mul ss (ratTo32 1 x.length)
  let rs := rsqrt (add ms eps)
  List.zipWith (fun v g => mul (mul v rs) g) x gain

def residual (a b : List F32) : List F32 := List.zipWith add a b

/-- Bytes of one 128 × 128 tile (R86). -/
def tileBytes (fmt : Nat) : Nat := match fmt with | 0 => 8704 | 1 => 16896 | _ => 32768

/-- The 128 element values of row r of a tile (R86). -/
def tileRow (fmt : Nat) (tile : Bytes) (r : Nat) : List Val :=
  match fmt with
  | 0 =>
    let row := sliceAt tile (64 * r) 64
    let sc := sliceAt tile (8192 + 4 * r) 4
    (List.range 128).map fun i => scaled (sc.getD (i / 32) 0).toNat (fp4.val (fp4At row i))
  | 1 =>
    let row := sliceAt tile (128 * r) 128
    let sc := sliceAt tile (16384 + 4 * r) 4
    (List.range 128).map fun i => scaled (sc.getD (i / 32) 0).toNat (e4m3.val (row.getD i 0).toNat)
  | _ => (List.range 128).map fun i => valBF16 (fieldAt tile (256 * r + 2 * i) 2)

/-- An activation vector converted to a matrix's format (R72, R59, R60). -/
def convert (fmt : Nat) (x : List F32) : List Val :=
  let blocks (f : Elem) := (chunksOf 32 x).flatMap fun b =>
    let q := quantBlock f (b ++ List.replicate (32 - b.length) 0#32)
    (q.2.take b.length).map fun c => scaled q.1 (f.val c)
  match fmt with
  | 0 => blocks .fp4
  | 1 => blocks .e4m3
  | _ => x.map fun v => valBF16 (toBF16 v)

/-- A stored matrix: where its tiles begin in the body, outputs, contraction length, format (R85, R86). -/
structure Mat where
  off : Nat
  outs : Nat
  k : Nat
  fmt : Nat
  deriving DecidableEq, Repr

def Mat.kTiles (m : Mat) : Nat := ceilDiv m.k 128
def Mat.bytes (m : Mat) : Nat := ceilDiv m.outs 128 * m.kTiles * tileBytes m.fmt

/-- Row r of a matrix, its first `k` contraction elements. -/
def Mat.row (rd : Nat → Nat → Bytes) (m : Mat) (r : Nat) : List Val :=
  ((List.range m.kTiles).flatMap fun t =>
    tileRow m.fmt (rd (m.off + (r / 128 * m.kTiles + t) * tileBytes m.fmt) (tileBytes m.fmt)) (r % 128)).take m.k

/-- A projection: one dot product per output (R72, R86). -/
def Mat.apply (rd : Nat → Nat → Bytes) (m : Mat) (x : List F32) : List F32 :=
  let v := convert m.fmt x
  (List.range m.outs).map fun r => dot (m.row rd r) v

/-- Body offsets of R85: objects at multiples of 256, the first two padded to 4,096. -/
structure Layout where
  layerTab : Nat
  freqTab : Nat
  embed : Mat
  /-- per layer: attention gain, Wq, Wk, Wv, Wo, MLP gain, Wgate, Wup, Wdown -/
  layer : List (Nat × List Mat × Nat × List Mat)
  finalGain : Nat
  outProj : Mat
  drafts : List (Nat × Mat)
  len : Nat
  deriving DecidableEq, Repr

/-- The layout that R85 gives for a header and a layer table. -/
def layout (a : Arch) (ls : List LayerEntry) : Layout :=
  let freq := roundUp (16 * a.layers) 4096
  let emb := freq + roundUp (8 * (a.rotDims / 2)) 4096
  let embed : Mat := ⟨emb, a.vocab, a.width, a.embedFmt⟩
  let gainLen := roundUp (2 * a.width) 256
  let q := a.qHeads * a.headDim
  let kv := a.kvHeads * a.headDim
  let mat (o outs k fmt : Nat) : Mat := ⟨o, outs, k, fmt⟩
  let st := ls.foldl (fun (st : Nat × List (Nat × List Mat × Nat × List Mat)) e =>
    let f (i : Nat) := e.fmt.getD i 0
    let g1 := st.1
    let wq := mat (g1 + gainLen) q a.width (f 0)
    let wk := mat (wq.off + wq.bytes) kv a.width (f 1)
    let wv := mat (wk.off + wk.bytes) kv a.width (f 2)
    let wo := mat (wv.off + wv.bytes) a.width q (f 3)
    let g2 := wo.off + wo.bytes
    let wg := mat (g2 + gainLen) a.mlpWidth a.width (f 4)
    let wu := mat (wg.off + wg.bytes) a.mlpWidth a.width (f 5)
    let wd := mat (wu.off + wu.bytes) a.width a.mlpWidth (f 6)
    (wd.off + wd.bytes, st.2 ++ [(g1, [wq, wk, wv, wo], g2, [wg, wu, wd])])) (emb + embed.bytes, [])
  let fg := st.1
  let op : Mat := if a.tied then embed else ⟨fg + gainLen, a.vocab, a.width, a.embedFmt⟩
  let d0 := if a.tied then fg + gainLen else op.off + op.bytes
  let ds := (List.range a.draftHeads).foldl (fun (st : Nat × List (Nat × Mat)) _ =>
    let m : Mat := ⟨st.1 + gainLen, a.width, a.width, a.draftFmt⟩
    (m.off + m.bytes, st.2 ++ [(st.1, m)])) (d0, [])
  ⟨0, freq, embed, st.2, fg, op, ds.2, ds.1⟩

/-- A model ready to evaluate: its architecture, layer table and a reader of its body. -/
structure Model where
  arch : Arch
  layers : List LayerEntry
  rd : Nat → Nat → Bytes

/-- An adapter ready to evaluate (R98). -/
structure Adapter where
  hdr : AdapterHdr
  rd : Nat → Nat → Bytes

/-- WIDTH BF16 gains at a body offset. -/
def Model.gain (m : Model) (off : Nat) : List F32 :=
  let b := m.rd off (2 * m.arch.width)
  (List.range m.arch.width).map fun i => to32 (valBF16 (fieldAt b (2 * i) 2))

/-- Outputs and contraction of adapter target t (R98). -/
def targetShape (h : AdapterHdr) (t : Nat) : Nat × Nat :=
  match t with
  | 0 => (h.qDim, h.width)
  | 1 | 2 => (h.kvDim, h.width)
  | 3 => (h.width, h.qDim)
  | 4 | 5 => (h.mlpWidth, h.width)
  | _ => (h.width, h.mlpWidth)

/-- A and B of one target, from a body offset (R98). -/
def targetMats (h : AdapterHdr) (off t : Nat) : Mat × Mat :=
  let s := targetShape h t
  let a : Mat := ⟨off, h.rank, s.2, h.fmt⟩
  (a, ⟨off + a.bytes, s.1, h.rank, h.fmt⟩)

/-- The bytes of the targets of one layer below target t (R98: in bit order). -/
def targetOff (h : AdapterHdr) (t : Nat) : Nat :=
  (List.range t).foldl (fun o i =>
    if h.targets.testBit i then let p := targetMats h o i; p.2.off + p.2.bytes else o) 0

/-- BODY_PLAIN_LEN that R98 gives for the header's fields. -/
def adapterBodyLen (h : AdapterHdr) : Nat := h.layers * targetOff h 7

/-- A projection plus the adapter's terms (R72): base + alpha · B·(A·x). -/
def project (ad : Option Adapter) (m : Model) (l t : Nat) (w : Mat) (x : List F32) : List F32 :=
  let base := w.apply m.rd x
  match ad with
  | none => base
  | some a =>
    if a.hdr.targets.testBit t then
      let p := targetMats a.hdr (l * targetOff a.hdr 7 + targetOff a.hdr t) t
      let y := p.2.apply a.rd (p.1.apply a.rd x)
      List.zipWith (fun b v => add b (mul a.hdr.alpha v)) base y
    else base

/-- The rotation of one head's vector at a position (R73). -/
def rotate (m : Model) (pos : Nat) (x : List F32) : List F32 :=
  let r := m.arch.rotDims
  let lay := roundUp (16 * m.arch.layers) 4096
  let tab := m.rd lay (8 * (r / 2))
  let cs := (List.range (r / 2)).map fun i => sinCos (fieldAt tab (8 * i) 8) pos
  (List.range x.length).map fun d =>
    if d ≥ r then x.getD d 0 else
    let h := m.arch.rotHalves
    let i := if h then d % (r / 2) else d / 2
    let first := if h then d < r / 2 else d % 2 = 0
    let ix := if h then i else 2 * i
    let iy := if h then i + r / 2 else 2 * i + 1
    let (s, c) := cs.getD i (0, 0)
    let vx := x.getD ix 0
    let vy := x.getD iy 0
    if first then sub (mul vx c) (mul vy s) else add (mul vx s) (mul vy c)

/-! ### KV pages -/

/-- The stored value of dimension d at index j of a tensor (R62, R114). -/
def tensorVal (condensed : Bool) (dim : Nat) (t : Tensor) (j d : Nat) : Val :=
  let c := t.codes.getD (j * dim + d) 0
  if condensed then scaled (t.blockScales.getD (j * (dim / 32) + d / 32) 0) (fp4.val c)
  else match t.scale with
    | none => fp4.val 0
    | some (s, _) => scaled s (e4m3.val c)

/-- One position's values appended to a tensor at index `j` (R62, R115, R60). -/
def tensorAppend (condensed : Bool) (t : Tensor) (j : Nat) (xs : List F32) : Tensor :=
  if condensed then
    let qs := (chunksOf 32 xs).map (quantBlock .fp4)
    { t with codes := t.codes ++ qs.flatMap (·.2), blockScales := t.blockScales ++ qs.map (·.1) }
  else
    let vs := xs.map val32
    let sc := match t.scale with
      | some s => some s
      | none => (kvScale vs).map fun s => (s, j)
    { t with codes := t.codes ++ vs.map (kvCode (sc.map (·.1))), scale := sc }

/-- The last positions of a tensor removed, `fill` of them staying (R116). -/
def tensorCut (condensed : Bool) (dim fill : Nat) (t : Tensor) : Tensor :=
  { codes := t.codes.take (fill * dim)
    scale := match t.scale with | some (s, j) => if j < fill then some (s, j) else none | none => none
    blockScales := if condensed then t.blockScales.take (fill * (dim / 32)) else [] }

/-- A tensor converted to the condensed format (R122). -/
def tensorCondense (dim fill : Nat) (t : Tensor) : Tensor :=
  (List.range fill).foldl (fun a j =>
    tensorAppend true a j ((List.range dim).map fun d => to32 (tensorVal false dim t j d))) ⟨[], none, []⟩

def PageData.empty (idx : Nat) (condensed : Bool) (heads : Nat) : PageData :=
  ⟨idx, condensed, 0, List.replicate heads (⟨[], none, []⟩, ⟨[], none, []⟩)⟩

/-- One position's K and V of every head written into a page at index FILL (R115). -/
def pageAppend (p : PageData) (kv : List (List F32 × List F32)) : PageData :=
  { p with
    fill := p.fill + 1
    heads := List.zipWith (fun t x => (tensorAppend p.condensed t.1 p.fill x.1, tensorAppend p.condensed t.2 p.fill x.2))
      p.heads kv }

/-- A page left as if only `fill` positions had been written (R116). -/
def pageCut (dim fill : Nat) (p : PageData) : PageData :=
  { p with
    fill := Nat.min p.fill fill
    heads := p.heads.map fun t => (tensorCut p.condensed dim fill t.1, tensorCut p.condensed dim fill t.2) }

/-- A page in the condensed format (R122). -/
def pageCondense (dim : Nat) (p : PageData) : PageData :=
  if p.condensed then p else
  { p with condensed := true
           heads := p.heads.map fun t => (tensorCondense dim p.fill t.1, tensorCondense dim p.fill t.2) }

/-- One position appended to a layer's pages; a full last page opens the next one (R115). -/
def layerAppend (psize pos : Nat) (condensed : Bool) (ps : List PageData) (kv : List (List F32 × List F32)) :
    List PageData :=
  let i := pos / psize
  if ps.any (fun p => p.idx = i) then ps.map fun p => if p.idx = i then pageAppend p kv else p
  else ps ++ [pageAppend (PageData.empty i condensed kv.length) kv]

/-- The K and V values of one head at a position, from a layer's pages. -/
def kvAt (psize dim : Nat) (ps : List PageData) (head pos : Nat) : List Val × List Val :=
  match ps.find? (fun p => p.idx = pos / psize) with
  | none => (List.replicate dim (.fin false 0 0), List.replicate dim (.fin false 0 0))
  | some p =>
    let t := p.heads.getD head (⟨[], none, []⟩, ⟨[], none, []⟩)
    let j := pos % psize
    ((List.range dim).map (tensorVal p.condensed dim t.1 j), (List.range dim).map (tensorVal p.condensed dim t.2 j))

/-! ### Attention -/

/-- The list L of positions a query at P attends to (R74, R110). -/
def attended (window : Option Nat) (globals : List Nat) (pos : Nat) : List Nat :=
  match window with
  | none => List.range (pos + 1)
  | some w => (List.range (pos + 1)).filter fun i => pos + 1 ≤ i + w || globals.contains i

/-- A block's running maximum, denominator and weighted sum (R74). -/
structure Part where
  m : F32
  l : F32
  o : List F32
  deriving DecidableEq, Repr

/-- combine() of R74. -/
def combine (x y : Part) : Part :=
  let mm := Era.max x.m y.m
  let ax := exp (sub x.m mm)
  let ay := exp (sub y.m mm)
  ⟨mm, add (mul x.l ax) (mul y.l ay), List.zipWith (fun a b => add (mul a ax) (mul b ay)) x.o y.o⟩

/-- RNE_fp32(1/√d) of R72. -/
def scoreScale (dim : Nat) : F32 := if dim = 256 then 0x3D800000#32 else 0x3DB504F3#32

/-- One block of R74. -/
def attBlock (pvE4m3 : Bool) (dim : Nat) (q : List F32) (kv : List (List Val × List Val)) : Part :=
  let qv := q.map val32
  let s := kv.map fun p => mul (dot qv p.1) (scoreScale dim)
  let m := s.foldl Era.max (s.headD 0)
  let e := s.map fun x => exp (sub x m)
  let w := e.map fun x => if pvE4m3 then e4m3.val (e4m3.ofVal (val32 x)) else valBF16 (toBF16 x)
  ⟨m, blockSum e, (List.range dim).map fun d =>
    blockSum (List.zipWith (fun x p => product x (p.2.getD d .nan)) w kv)⟩

/-- Attention of one query head (R74). -/
def attend (pvE4m3 : Bool) (dim : Nat) (q : List F32) (kv : List (List Val × List Val)) : List F32 :=
  let parts := (chunksOf 128 kv).map (attBlock pvE4m3 dim q)
  let r := treeWith combine ⟨0, 0, []⟩ parts.length parts
  r.o.map fun x => mul x (recip r.l)

/-! ### The model -/

/-- The 32-bit values of an embedding row (R87). -/
def embed (m : Model) (token : Nat) : List F32 := (((layout m.arch m.layers).embed).row m.rd token).map to32

/-- One layer at one position: the new hidden state and the K and V it makes, the K and V stored first and attention
reading stored values only (R87, R108). -/
def layer (m : Model) (ad : Option Adapter) (psize : Nat) (condensed : Bool) (globals : List Nat) (pos l : Nat)
    (h : List F32) (ps : List PageData) : List F32 × List PageData :=
  let a := m.arch
  let e := m.layers.getD l ⟨none, []⟩
  let g := (layout a m.layers).layer.getD l (0, [], 0, [])
  let w (i : Nat) := g.2.1.getD i ⟨0, 0, 0, 0⟩
  let u (i : Nat) := g.2.2.2.getD i ⟨0, 0, 0, 0⟩
  let x := rmsnorm a.rmsEps h (m.gain g.1)
  let heads (n : Nat) (v : List F32) := (List.range n).map fun i => (v.drop (i * a.headDim)).take a.headDim
  let qs := (heads a.qHeads (project ad m l 0 (w 0) x)).map (rotate m pos)
  let ks := (heads a.kvHeads (project ad m l 1 (w 1) x)).map (rotate m pos)
  let vs := heads a.kvHeads (project ad m l 2 (w 2) x)
  let ps := layerAppend psize pos condensed ps (ks.zip vs)
  let lst := attended e.window globals pos
  let grp := a.qHeads / a.kvHeads
  let att := (qs.zipIdx).flatMap fun (q, i) =>
    attend a.pvE4m3 a.headDim q (lst.map fun p => kvAt psize a.headDim ps (i / grp) p)
  let h := residual h (project ad m l 3 (w 3) att)
  let x := rmsnorm a.rmsEps h (m.gain g.2.2.1)
  let gate := project ad m l 4 (u 0) x
  let up := project ad m l 5 (u 1) x
  let hid := List.zipWith (fun p q => mul (act a.act p) q) gate up
  (residual h (project ad m l 6 (u 2) hid), ps)

/-- The model at one position: the last hidden state and the KV with this position stored (R87). -/
def position (m : Model) (ad : Option Adapter) (psize : Nat) (condensed : Bool) (globals : List Nat) (pos token : Nat)
    (kv : KvView) : List F32 × KvView :=
  (List.range m.arch.layers).foldl (fun (st : List F32 × KvView) l =>
    let r := layer m ad psize condensed globals pos l st.1 (st.2.getD l [])
    (r.1, st.2.set l r.2)) (embed m token, kv)

/-- The main head's logits of a hidden state (R87). -/
def logits (m : Model) (hl : List F32) : List F32 :=
  let ly := layout m.arch m.layers
  ly.outProj.apply m.rd (rmsnorm m.arch.rmsEps hl (m.gain ly.finalGain))

/-- The logits of draft head d (1-based) of a hidden state (R88). -/
def draftLogits (m : Model) (d : Nat) (hl : List F32) : List F32 :=
  let ly := layout m.arch m.layers
  let p := ly.drafts.getD (d - 1) (0, ⟨0, 0, 0, 0⟩)
  let z := (p.2.apply m.rd (rmsnorm m.arch.rmsEps hl (m.gain p.1))).map (act m.arch.act)
  logits m (residual hl z)

end Sys2Proof.Machine.Fwd
end

