-- ==== Sys2Proof/Machine/Sha.lean ====
section
/-! DEFINITION. SHA-384, HMAC and HKDF, which the spec names without restating them (R82, R173, R310):
FIPS 180-4, RFC 2104 and RFC 5869. PRESUMED from those published standards (log 7). -/
namespace Sys2Proof.Machine.Sha

/-- The first 80 primes, from which FIPS 180-4 derives its round constants. -/
def primes : List Nat :=
  ((List.range 410).filter fun n => 2 ≤ n && (List.range n).all fun d => d < 2 || n % d != 0)

/-- The first 64 bits of the fractional part of the cube root of `p`. -/
def cubeFrac (p : Nat) : Nat :=
  let t := p * 2 ^ 192
  let go := (List.range 70).foldl (fun r i =>
    let c := r + 2 ^ (69 - i)
    if c ^ 3 ≤ t then c else r) 0
  go % 2 ^ 64

/-- The first 64 bits of the fractional part of the square root of `p`. -/
def sqrtFrac (p : Nat) : Nat := Nat.sqrt (p * 2 ^ 128) % 2 ^ 64

/-- The 80 round constants. -/
def kTable : List Word64 := (primes.take 80).map fun p => BitVec.ofNat 64 (cubeFrac p)

/-- The eight initial words of SHA-384: square roots of the ninth to sixteenth primes. -/
def h384 : List Word64 := ((primes.drop 8).take 8).map fun p => BitVec.ofNat 64 (sqrtFrac p)

def rotr (x : Word64) (n : Nat) : Word64 := x.rotateRight n
def bigSigma0 (x : Word64) : Word64 := rotr x 28 ^^^ rotr x 34 ^^^ rotr x 39
def bigSigma1 (x : Word64) : Word64 := rotr x 14 ^^^ rotr x 18 ^^^ rotr x 41
def smallSigma0 (x : Word64) : Word64 := rotr x 1 ^^^ rotr x 8 ^^^ (x >>> 7)
def smallSigma1 (x : Word64) : Word64 := rotr x 19 ^^^ rotr x 61 ^^^ (x >>> 6)

/-- The message schedule of one 128-byte block, newest word first while it is built. -/
def schedule (blk : Bytes) : List Word64 :=
  let w0 := (chunksOf 8 blk).map fun b => BitVec.ofNat 64 (beNat b)
  let rev := (List.range 64).foldl (fun (r : List Word64) _ =>
    (smallSigma1 (r.getD 1 0) + r.getD 6 0 + smallSigma0 (r.getD 14 0) + r.getD 15 0) :: r) w0.reverse
  rev.reverse

/-- The eight working variables. -/
structure Vars where
  a : Word64
  b : Word64
  c : Word64
  d : Word64
  e : Word64
  f : Word64
  g : Word64
  h : Word64
  deriving DecidableEq, Repr

/-- One round. -/
def round (v : Vars) (k w : Word64) : Vars :=
  let t1 := v.h + bigSigma1 v.e + ((v.e &&& v.f) ^^^ (~~~v.e &&& v.g)) + k + w
  let t2 := bigSigma0 v.a + ((v.a &&& v.b) ^^^ (v.a &&& v.c) ^^^ (v.b &&& v.c))
  ⟨t1 + t2, v.a, v.b, v.c, v.d + t1, v.e, v.f, v.g⟩

/-- One block of the compression function; `ks` are the round constants. -/
def compress (ks : List Word64) (v : Vars) (blk : Bytes) : Vars :=
  let r := (ks.zip (schedule blk)).foldl (fun v kw => round v kw.1 kw.2) v
  ⟨v.a + r.a, v.b + r.b, v.c + r.c, v.d + r.d, v.e + r.e, v.f + r.f, v.g + r.g, v.h + r.h⟩

/-- The padded message: 0x80, zeros, the bit length in 16 bytes. -/
def padded (m : Bytes) : Bytes :=
  let l := m.length
  m ++ [0x80] ++ zeros ((128 - (l + 17) % 128) % 128) ++ toBE 16 (8 * l)

/-- SHA-384 as 48 bytes. -/
def sha384Bytes (m : Bytes) : Bytes :=
  let ks := kTable
  let i := h384
  let v0 : Vars := ⟨i.getD 0 0, i.getD 1 0, i.getD 2 0, i.getD 3 0, i.getD 4 0, i.getD 5 0, i.getD 6 0, i.getD 7 0⟩
  let v := (chunksOf 128 (padded m)).foldl (compress ks) v0
  [v.a, v.b, v.c, v.d, v.e, v.f].flatMap fun x => toBE 8 x.toNat

/-- SHA-384. -/
def sha384 (m : Bytes) : Digest := digestOf (sha384Bytes m)

/-- HMAC with SHA-384 (block 128 bytes). -/
def hmac (key msg : Bytes) : Bytes :=
  let k := fitTo 128 (if key.length > 128 then sha384Bytes key else key)
  let x (c : Byte) := k.map (· ^^^ c)
  sha384Bytes (x 0x5c ++ sha384Bytes (x 0x36 ++ msg))

/-- HKDF-Extract (RFC 5869). -/
def hkdfExtract (salt ikm : Bytes) : Bytes := hmac salt ikm

/-- HKDF-Expand (RFC 5869). -/
def hkdfExpand (prk info : Bytes) (len : Nat) : Bytes :=
  let r := (List.range (ceilDiv len 48)).foldl (fun (st : Bytes × Bytes) i =>
    let t := hmac prk (st.1 ++ info ++ [BitVec.ofNat 8 (i + 1)])
    (t, st.2 ++ t)) ([], [])
  r.2.take len

/-- HKDF with SHA-384; the salt is 48 zero bytes unless a row names one (R310). -/
def hkdf (ikm info : Bytes) (len : Nat) (salt : Bytes := zeros 48) : Bytes :=
  hkdfExpand (hkdfExtract salt ikm) info len

end Sys2Proof.Machine.Sha
end

