-- ==== Sys2Proof/Machine/Images.lean ====
section
/-! DEFINITION. Image containers and their checks: model (R80 to R86, R90), adapter (R98, R99), vocabulary (R141, R142),
grammar (R147 to R149). Each check answers the first failure's status, in the stated order. -/
namespace Sys2Proof.Machine

/-- A check: fail with `st` where the condition does not hold. -/
def need (st : Status) (b : Bool) : Except Status Unit := if b then .ok () else .error st

/-! ### The container -/

/-- Plaintext bytes of a chunk (R80). -/
def chunkBytes : Nat := 1048576

/-- The common header fields (R83). -/
def imageHdr (h : Bytes) : ImageHdr :=
  { sealed_ := fieldAt h 6 1 = 1
    imageLen := fieldAt h 8 8
    nChunks := fieldAt h 16 4
    nonce := fieldAt h 20 4
    bodyOffset := fieldAt h 24 8
    bodyLen := fieldAt h 32 8
    keyRef := fieldAt h 40 16
    digest := digestOf (sliceAt h 64 48)
    vocabDigest := digestOf (sliceAt h 112 48) }

/-- Plaintext bytes of chunk i (R80). -/
def chunkLen (h : ImageHdr) (i : Nat) : Nat := Nat.min chunkBytes (h.bodyLen - chunkBytes * i)

/-- Chunk i of an image whose bytes this device does not hold. -/
def unheldChunk (d : Digest) (h : ImageHdr) (i : Nat) : Bytes :=
  (List.range (chunkLen h i)).map fun j => Config.imageByte d (i * chunkBytes + j)

/-- Offset of chunk i in the image file (R80). -/
def chunkOffset (h : ImageHdr) (i : Nat) : Nat :=
  h.bodyOffset + i * (chunkBytes + if h.sealed_ then 16 else 0)

/-- MAGIC, FORMAT, SEALED, the reserved fields of R83 and the N_CHUNKS of 0 that R83 names. -/
def containerFields (magic : Nat) (h : Bytes) : Bool :=
  fieldAt h 0 4 = magic && fieldAt h 4 2 = 1 && fieldAt h 6 1 ≤ 1 && zeroAt h 7 1 && zeroAt h 56 8 &&
  fieldAt h 16 4 ≠ 0 &&
  (fieldAt h 6 1 = 1 || (zeroAt h 20 4 && zeroAt h 40 16))

/-- N_CHUNKS, BODY_OFFSET and IMAGE_LEN agree with BODY_PLAIN_LEN (R80). -/
def containerLengths (h : ImageHdr) : Bool :=
  h.nChunks = ceilDiv h.bodyLen chunkBytes && h.bodyOffset = roundUp (512 + 48 * h.nChunks) 4096 &&
  h.imageLen = h.bodyOffset + h.bodyLen + (if h.sealed_ then 16 * h.nChunks else 0)

/-- The image digest of R82: over the header with its digest field zero, then the chunk digest table. -/
def imageDigest (head : Bytes) : Digest :=
  let h := head.take 512
  Sha.sha384 (overwrite h 64 (zeros 48) ++ sliceAt head 512 (48 * fieldAt h 16 4))

/-- The digest the table gives chunk i (R80). -/
def chunkDigest (head : Bytes) (i : Nat) : Digest := digestOf (sliceAt head (512 + 48 * i) 48)

/-- One chunk opened: decrypted if sealed (R81), none where the tag fails. -/
def openChunk (key : Key) (head : Bytes) (i : Nat) (raw : Bytes) : Option Bytes :=
  let h := imageHdr head
  if h.sealed_ then
    let n := chunkLen h i
    Aes.gcmDecrypt (keyBytes key) (toLE 4 h.nonce ++ toLE 8 i) (head.take 512) (raw.take n) (sliceAt raw n 16)
  else some (raw.take (chunkLen h i))

/-! ### Models -/

def modelMagic : Nat := 0x4D494C45
def adapterMagic : Nat := 0x41494C45

/-- The architecture fields of a model header (R84). -/
def archOf (h : Bytes) : Arch :=
  { layers := fieldAt h 160 2, headDim := fieldAt h 162 2, width := fieldAt h 164 4, qHeads := fieldAt h 168 2
    kvHeads := fieldAt h 170 2, mlpWidth := fieldAt h 172 4, vocab := fieldAt h 176 4, maxPos := fieldAt h 180 4
    rotDims := fieldAt h 184 2, rotHalves := fieldAt h 186 1 = 1, act := fieldAt h 187 1
    rmsEps := BitVec.ofNat 32 (fieldAt h 188 4), draftHeads := fieldAt h 192 1, tied := fieldAt h 193 1 = 1
    embedFmt := fieldAt h 194 1, draftFmt := fieldAt h 195 1
    eosIds := (List.range (fieldAt h 196 1)).map fun i => fieldAt h (200 + 4 * i) 4
    pvE4m3 := fieldAt h 197 1 = 1 }

/-- Check 2 of R90 for a model header: container fields, reserved fields, format codes. -/
def modelFields (h : Bytes) : Bool :=
  containerFields modelMagic h && zeroAt h 198 2 && zeroAt h 220 292 && fieldAt h 194 1 ≤ 2 && fieldAt h 195 1 ≤ 2

/-- Check 3 of R90: the architecture lies in R84 and R20, as far as the header shows. -/
def archOk (h : Bytes) : Bool :=
  let a := archOf h
  (1 ≤ a.layers && a.layers ≤ 192) && (a.headDim = 128 || a.headDim = 256) &&
  (1024 ≤ a.width && a.width ≤ 32768 && a.width % 128 = 0) &&
  (1 ≤ a.kvHeads && a.kvHeads ≤ 64) &&
  (a.qHeads % a.kvHeads = 0 && 1 ≤ a.qHeads && a.qHeads ≤ 32 * a.kvHeads && a.qHeads ≤ 256) &&
  (128 ≤ a.mlpWidth && a.mlpWidth ≤ 131072 && a.mlpWidth % 128 = 0) &&
  (257 ≤ a.vocab && a.vocab ≤ 262144) && (1 ≤ a.maxPos && a.maxPos ≤ 1048576) &&
  (32 ≤ a.rotDims && a.rotDims ≤ a.headDim && a.rotDims % 32 = 0) && fieldAt h 186 1 ≤ 1 && a.act ≤ 2 &&
  (Era.isFinite a.rmsEps && Era.lt 0#32 a.rmsEps) && a.draftHeads ≤ 3 && fieldAt h 193 1 ≤ 1 &&
  (a.draftHeads ≠ 0 || a.draftFmt = 0) && fieldAt h 197 1 ≤ 1 &&
  (1 ≤ fieldAt h 196 1 && fieldAt h 196 1 ≤ 4) &&
  (List.range 4).all (fun i => if i < fieldAt h 196 1 then fieldAt h (200 + 4 * i) 4 < a.vocab else zeroAt h (200 + 4 * i) 4)

/-- Every layer with one format for all its matrices: the bounds the header alone sets on BODY_PLAIN_LEN. -/
def bodyLenWith (a : Arch) (fmt : Nat) : Nat :=
  (Fwd.layout a (List.replicate a.layers ⟨none, List.replicate 7 fmt⟩)).len

/-- Checks 1 to 5 of R90, on the header, the chunk digest table and the gap up to BODY_OFFSET (`head`). Of the comparison of
BODY_PLAIN_LEN check 4 makes, before the formats are known, that it lies between the lengths for all-MXFP4 and all-BF16 layers.
DESIGN CHOICE (log 131). -/
def modelChecks (cmdLen : Nat) (head : Bytes) : Except Status Unit := do
  let h := imageHdr head
  need .eLength (512 ≤ cmdLen && cmdLen = h.imageLen)
  need .eRange (modelFields head)
  need .eRange (archOk head)
  need .eLength (containerLengths h && bodyLenWith (archOf head) 0 ≤ h.bodyLen && h.bodyLen ≤ bodyLenWith (archOf head) 2)
  need .eRange (zeroAt head (512 + 48 * h.nChunks) (h.bodyOffset - (512 + 48 * h.nChunks)))
  need .eDigest (imageDigest head = h.digest)

/-- The layer table in body chunk 0 (R85). -/
def layerTable (a : Arch) (body : Bytes) : List LayerEntry :=
  (List.range a.layers).map fun l =>
    ⟨if fieldAt body (16 * l) 1 = 1 then some (fieldAt body (16 * l + 4) 4) else none,
      (List.range 7).map fun i => fieldAt body (16 * l + 8 + i) 1⟩

/-- The layer-table checks made between checks 6 and 7 of R90. -/
def layerChecks (a : Arch) (bodyLen : Nat) (body : Bytes) : Except Status Unit := do
  let ok (l : Nat) : Bool :=
    let o := 16 * l
    let w := fieldAt body (o + 4) 4
    zeroAt body (o + 1) 3 && zeroAt body (o + 15) 1 &&
    (match fieldAt body o 1 with | 0 => w = 0 | 1 => 256 ≤ w && w ≤ 16384 | _ => false) &&
    (List.range 7).all fun i => fieldAt body (o + 8 + i) 1 ≤ 2
  need .eRange ((List.range a.layers).all ok)
  let ls := layerTable a body
  need .eRange (a.maxPos ≤ 131072 || ls.any fun e => e.window.isSome)
  need .eLength (bodyLen = (Fwd.layout a ls).len)

/-! ### Adapters -/

def adapterOf (h : Bytes) : AdapterHdr :=
  { baseDigest := digestOf (sliceAt h 160 48), rank := fieldAt h 208 2, targets := fieldAt h 210 1, fmt := fieldAt h 211 1
    alpha := BitVec.ofNat 32 (fieldAt h 212 4), layers := fieldAt h 216 2, width := fieldAt h 220 4
    qDim := fieldAt h 224 4, kvDim := fieldAt h 228 4, mlpWidth := fieldAt h 232 4 }

/-- Check 2 of R99: every field of R98 within R98 and R20. -/
def adapterFields (h : Bytes) : Bool :=
  let a := adapterOf h
  containerFields adapterMagic h && zeroAt h 112 48 && zeroAt h 218 2 && zeroAt h 236 276 &&
  (1 ≤ a.rank && a.rank ≤ 256) && (1 ≤ a.targets && a.targets < 128) && a.fmt ≤ 2 && Era.isFinite a.alpha &&
  (1 ≤ a.layers && a.layers ≤ 192) && (1024 ≤ a.width && a.width ≤ 32768 && a.width % 128 = 0) &&
  (a.qDim % 128 = 0 && 128 ≤ a.qDim && a.qDim ≤ 65536) && (a.kvDim % 128 = 0 && 128 ≤ a.kvDim && a.kvDim ≤ 16384) &&
  (128 ≤ a.mlpWidth && a.mlpWidth ≤ 131072 && a.mlpWidth % 128 = 0)

/-- Steps 1, 2, 4 and 5 of R90 as R99 applies them to an adapter. -/
def adapterChecks (cmdLen : Nat) (head : Bytes) : Except Status Unit := do
  let h := imageHdr head
  need .eLength (512 ≤ cmdLen && cmdLen = h.imageLen)
  need .eRange (adapterFields head)
  need .eLength (containerLengths h && h.bodyLen = Fwd.adapterBodyLen (adapterOf head))
  need .eRange (zeroAt head (512 + 48 * h.nChunks) (h.bodyOffset - (512 + 48 * h.nChunks)))
  need .eDigest (imageDigest head = h.digest)

/-- The adapter fits the base model it is bound with (R98). -/
def adapterFits (a : AdapterHdr) (m : Arch) : Bool :=
  a.layers = m.layers && a.width = m.width && a.qDim = m.qHeads * m.headDim && a.kvDim = m.kvHeads * m.headDim &&
  a.mlpWidth = m.mlpWidth

/-! ### Vocabularies -/

def vocabMagic : Nat := 0x56494C45

/-- The string table entry of token i (R142). -/
def vocabEntry (im : Bytes) (off i : Nat) : VocabEntry :=
  let o := off + 20 * i
  ⟨fieldAt im (o + 1) 1 = 1, sliceAt im (o + 4) (fieldAt im o 1)⟩

def vocabOf (im : Bytes) : Vocab :=
  { digest := digestOf (sliceAt im 64 48)
    byteBase := fieldAt im 20 4
    classes := (List.range 256).map fun i => fieldAt im (112 + i) 1
    entries := (List.range (fieldAt im 16 4)).map (vocabEntry im (fieldAt im 32 8))
    merges := (List.range (fieldAt im 24 4)).map fun i =>
      let o := fieldAt im 40 8 + 12 * i
      (fieldAt im o 4, fieldAt im (o + 4) 4, fieldAt im (o + 8) 4)
    imageLen := fieldAt im 8 8 }

/-- Range checks of R141 and the entry rules of R142 (check 2). -/
def vocabFields (im : Bytes) : Bool :=
  let n := fieldAt im 16 4
  let so := fieldAt im 32 8
  fieldAt im 0 4 = vocabMagic && fieldAt im 4 2 = 1 && zeroAt im 6 2 && (257 ≤ n && n ≤ 262144) &&
  fieldAt im 20 4 + 255 < n && fieldAt im 24 4 ≤ n - 256 && zeroAt im 28 4 && so % 64 = 0 && fieldAt im 40 8 % 64 = 0 &&
  zeroAt im 48 16 && (List.range 256).all (fun i => fieldAt im (112 + i) 1 ≤ 15) && zeroAt im 368 144 &&
  (List.range n).all fun i =>
    let o := so + 20 * i
    let l := fieldAt im o 1
    l ≤ 16 && fieldAt im (o + 1) 1 ≤ 1 && (l ≠ 0 || fieldAt im (o + 1) 1 = 1) && zeroAt im (o + 2) 2 &&
    zeroAt im (o + 4 + l) (16 - l)

/-- Check 3 of R142: byte tokens, SPECIAL tokens and merges. -/
def vocabTables (v : Vocab) : Bool :=
  let e (i : Nat) := v.entries.getD i ⟨true, []⟩
  let isByte (i : Nat) : Bool := v.byteBase ≤ i && i < v.byteBase + 256
  (List.range 256).all (fun b => (e (v.byteBase + b)).bytes == [BitVec.ofNat 8 b] && !(e (v.byteBase + b)).special) &&
  v.entries.all (fun x => !x.special || x.bytes.isEmpty) &&
  v.merges.all (fun (l, r, t) =>
    l < v.entries.length && r < v.entries.length && t < v.entries.length && !(e l).special && !(e r).special &&
    !(e t).special && !isByte t && (e t).bytes == (e l).bytes ++ (e r).bytes) &&
  (v.merges.map fun (l, r, _) => (l, r)).Nodup

/-- Checks 1 to 4 of R142 on an image of `len` bytes. -/
def vocabChecks (len : Nat) (im : Bytes) : Except Status Vocab := do
  need .eLength (512 ≤ len && len = fieldAt im 8 8)
  need .eLength (fieldAt im 32 8 + 20 * fieldAt im 16 4 ≤ len && fieldAt im 40 8 + 12 * fieldAt im 24 4 ≤ len)
  need .eRange (vocabFields im)
  let v := vocabOf im
  need .eRange (vocabTables v)
  need .eDigest (Sha.sha384 (overwrite im 64 (zeros 48)) = v.digest)
  pure v

/-! ### Grammars -/

def grammarMagic : Nat := 0x47494C45

/-- Bytes of one mask bitmap (R148). -/
def maskBytes (vocab : Nat) : Nat := roundUp (ceilDiv vocab 8) 64

/-- The IDs set in mask `m` of the pool (R148), in ascending order. -/
def maskIds (im : Bytes) (m : Nat) : List Nat :=
  let v := fieldAt im 136 4
  let bits := sliceAt im (fieldAt im 152 8 + m * maskBytes v) (maskBytes v)
  (List.range v).filter fun i => (bits.getD (i / 8) 0).getLsbD (i % 8)

/-- Action i of the action table (R148). -/
def grammarAction (im : Bytes) (i : Nat) : GAction :=
  let o := fieldAt im 160 8 + 16 * i
  ⟨fieldAt im o 4, fieldAt im (o + 4) 4, fieldAt im (o + 8) 4, fieldAt im (o + 12) 1, fieldAt im (o + 14) 2⟩

/-- ACTION_FIRST of row i, N_ACTIONS past the last row (R148). -/
def rowFirst (im : Bytes) (i : Nat) : Nat :=
  if i < fieldAt im 124 4 then fieldAt im (fieldAt im 144 8 + 16 * i + 8) 4 else fieldAt im 132 4

/-- Row i of the row table (R148). -/
def grammarRow (im : Bytes) (i : Nat) : GRow :=
  let o := fieldAt im 144 8 + 16 * i
  let f := rowFirst im i
  ⟨fieldAt im o 4, fieldAt im (o + 4) 2, maskIds im (fieldAt im (o + 6) 2),
    (List.range (rowFirst im (i + 1) - f)).map fun k => grammarAction im (f + k)⟩

def grammarOf (im : Bytes) : Grammar :=
  { digest := digestOf (sliceAt im 16 48), vocabDigest := digestOf (sliceAt im 64 48), vocab := fieldAt im 136 4
    maxDepth := fieldAt im 118 2, startState := fieldAt im 120 4
    rows := (List.range (fieldAt im 124 4)).map (grammarRow im), imageLen := fieldAt im 8 8 }

/-- Check 2 of R149: header ranges, reserved fields, table entries. -/
def grammarFields (im : Bytes) : Bool :=
  let ns := fieldAt im 112 4
  let ny := fieldAt im 116 2
  let nr := fieldAt im 124 4
  let nm := fieldAt im 128 4
  let na := fieldAt im 132 4
  let v := fieldAt im 136 4
  fieldAt im 0 4 = grammarMagic && fieldAt im 4 2 = 1 && zeroAt im 6 2 && (1 ≤ ns && ns ≤ 65536) &&
  (1 ≤ ny && ny ≤ 4095) && (1 ≤ fieldAt im 118 2 && fieldAt im 118 2 ≤ 256) && fieldAt im 120 4 < ns &&
  (1 ≤ nr && nr ≤ 1048576) && (1 ≤ nm && nm ≤ 65536) && (1 ≤ na && na ≤ 16777216) && (257 ≤ v && v ≤ 262144) &&
  zeroAt im 140 4 && fieldAt im 144 8 % 64 = 0 && fieldAt im 152 8 % 64 = 0 && fieldAt im 160 8 % 64 = 0 &&
  zeroAt im 168 88 &&
  (List.range nr).all (fun i =>
    let o := fieldAt im 144 8 + 16 * i
    fieldAt im o 4 < ns && (fieldAt im (o + 4) 2 < ny || fieldAt im (o + 4) 2 = 0xFFFF) && fieldAt im (o + 6) 2 < nm &&
    zeroAt im (o + 12) 4 && (i ≠ 0 || rowFirst im 0 = 0) && rowFirst im i ≤ rowFirst im (i + 1) && rowFirst im i ≤ na) &&
  (List.range nm).all (fun m =>
    let bits := sliceAt im (fieldAt im 152 8 + m * maskBytes v) (maskBytes v)
    (List.range (8 * maskBytes v - v)).all fun k => !(bits.getD ((v + k) / 8) 0).getLsbD ((v + k) % 8)) &&
  (List.range na).all (fun i =>
    let a := grammarAction im i
    let o := fieldAt im 160 8 + 16 * i
    a.first ≤ a.last && a.last < v && a.next < ns && a.op ≤ 3 && zeroAt im (o + 13) 1 &&
    (if a.op = 1 || a.op = 3 then a.symbol < ny else a.symbol = 0))

/-- A row's actions ascend without overlap and cover exactly its mask (R149 check 3). -/
def rowOk (r : GRow) : Bool :=
  (r.actions.zip (r.actions.drop 1)).all (fun (a, b) => a.last < b.first) &&
  r.actions.flatMap (fun a => (List.range (a.last + 1 - a.first)).map (· + a.first)) == r.allowed &&
  (r.top ≠ 0xFFFF || r.actions.all fun a => a.op < 2)

/-- Checks 1 to 4 of R149 on an image of `len` bytes. -/
def grammarChecks (len : Nat) (im : Bytes) : Except Status Grammar := do
  need .eLength (256 ≤ len && len = fieldAt im 8 8)
  need .eLength (fieldAt im 144 8 + 16 * fieldAt im 124 4 ≤ len &&
    fieldAt im 152 8 + maskBytes (fieldAt im 136 4) * fieldAt im 128 4 ≤ len &&
    fieldAt im 160 8 + 16 * fieldAt im 132 4 ≤ len)
  need .eRange (grammarFields im)
  let g := grammarOf im
  need .eRange ((g.rows.zip (g.rows.drop 1)).all fun (a, b) =>
    a.state < b.state || (a.state = b.state && a.top < b.top))
  need .eRange (g.rows.all rowOk)
  need .eDigest (Sha.sha384 (overwrite im 16 (zeros 48)) = g.digest)
  pure g

/-! ### Grammar steps (R151) -/

/-- The stack's top symbol, 0xFFFF when it is empty. -/
def GState.top (g : GState) : Nat := g.stack.getLast?.getD 0xFFFF

/-- The row of a configuration. -/
def Grammar.row (gr : Grammar) (g : GState) : Option GRow :=
  gr.rows.find? fun r => r.state = g.state && r.top = g.top

/-- The action whose range holds token s. -/
def GRow.action (r : GRow) (s : Nat) : Option GAction := r.actions.find? fun a => a.first ≤ s && s ≤ a.last

/-- mask(g) of R151 as the allowed IDs in ascending order. -/
def Grammar.mask (gr : Grammar) (g : GState) : List Nat :=
  match gr.row g with
  | none => []
  | some r =>
    if g.stack.length = gr.maxDepth then r.allowed.filter fun s => match r.action s with | some a => a.op ≠ 1 | none => true
    else r.allowed

/-- advance(g, s) of R151. -/
def Grammar.advance (gr : Grammar) (g : GState) (s : Nat) : GState :=
  match (gr.row g).bind fun r => r.action s with
  | none => g
  | some a =>
    let st := if a.op = 2 || a.op = 3 then g.stack.dropLast else g.stack
    let st := if a.op = 1 || a.op = 3 then st ++ [a.symbol] else st
    ⟨a.next, st⟩

/-- The start configuration (R147, R150). -/
def Grammar.start (gr : Grammar) : GState := ⟨gr.startState, []⟩

/-- The stored form of a grammar state (R150). -/
def GState.encode (id maxDepth : Nat) (g : GState) : Bytes :=
  padTo 16 (toLE 2 id ++ toLE 2 g.stack.length ++ toLE 4 g.state ++ zeros 8 ++
    g.stack.flatMap (toLE 2) ++ zeros (2 * (maxDepth - g.stack.length)))

end Sys2Proof.Machine
end

