-- ==== Sys2Proof/Machine/Sched.lean ====
section
/-! DEFINITION. Schedule tables: layout (R30 to R32), the checks of R33, the default table (R36). -/
namespace Sys2Proof.Machine

/-- Slots that use all engines of R32. -/
def allEngines : Nat := 0x1FFFF
/-- All tenants. -/
def allTenants : Nat := 2 ^ 64 - 1

/-- An EMPTY entry (R31). -/
def SlotEntry.none : SlotEntry := ⟨.empty, 0, 0, 0, 0, 0⟩

/-- The default table of R36 for a board power limit: its slots are the entries 1 to 5 of each row, and entry 0 is EMPTY. -/
def defaultTable (boardW : Nat) : SchedTable :=
  let e (c : SlotClass) (st b : Nat) : SlotEntry := ⟨c, st, b, boardW * 500 / 5, allEngines, allTenants⟩
  let even := [SlotEntry.none, e .admission 0 40, e .prefill 40 120, e .decode 160 200, e .park 360 60, e .revive 420 72]
  let odd := [SlotEntry.none, e .admission 0 40, e .decode 40 200, e .search 240 100, e .chkpt 340 60, e .house 400 92]
  ⟨0, 500, 0, (List.range 64).map fun k => if k % 2 = 0 then even else odd⟩

/-- The 16 entries of row k, EMPTY ones included, by their offsets (R30). -/
def rawEntry (t : Bytes) (k s : Nat) : Bytes := sliceAt t (64 + 512 * k + 32 * s) 32

/-- A slot entry's fields (R30). -/
def entryOf (e : Bytes) : SlotEntry :=
  ⟨(SlotClass.ofCode (fieldAt e 0 1)).getD .empty, fieldAt e 2 2, fieldAt e 4 2, fieldAt e 8 4, fieldAt e 12 4, fieldAt e 16 8⟩

/-- A table's rows without the EMPTY entries. -/
def tableOf (t : Bytes) : SchedTable :=
  { tableId := fieldAt t 16 4, tickUs := fieldAt t 6 2, startTick := fieldAt t 8 8
    rows := (List.range 64).map fun k =>
      ((List.range 16).filter fun s => fieldAt (rawEntry t k s) 0 1 ≠ 0).map fun s => entryOf (rawEntry t k s) }

/-- Check 5 of R33 for one entry (the reserved fields are check 2's). -/
def entryOk (e : Bytes) : Bool :=
  if fieldAt e 0 1 = 0 then zeroAt e 0 32
  else fieldAt e 0 1 ≤ 8 && fieldAt e 4 2 ≠ 0 && fieldAt e 8 4 ≠ 0 && fieldAt e 12 4 ≠ 0 && fieldAt e 12 4 < 2 ^ 17 &&
    fieldAt e 16 8 ≠ 0

/-- The reserved fields of a slot entry (R30). -/
def entryReserved (e : Bytes) : Bool := zeroAt e 1 1 && zeroAt e 6 2 && zeroAt e 24 8

/-- Two entries overlap in time and share an engine (R33 check 8). -/
def clash (a b : SlotEntry) : Bool :=
  a.startUs < b.startUs + b.budgetUs && b.startUs < a.startUs + a.budgetUs && (a.engines &&& b.engines) ≠ 0

/-- No two entries of a row clash. -/
def rowClear : List SlotEntry → Bool
  | [] => true
  | a :: r => r.all (fun b => !clash a b) && rowClear r

/-- The sum of a row's energy budgets. -/
def rowEnergy (r : List SlotEntry) : Nat := (r.map (·.energyUj)).sum

/-- Checks 2 to 10 of R33, in order: `now` is the current tick, `allow w` the tick allowance for a tick length. -/
def schedChecks (now : Nat) (allow : Nat → Nat) (t : Bytes) : Except Status SchedTable := do
  let ent (p : Bytes → Bool) : Bool := (List.range 64).all fun k => (List.range 16).all fun s => p (rawEntry t k s)
  need .eRange (fieldAt t 0 4 = 0x4C524857 && fieldAt t 4 2 = 1 && fieldAt t 16 4 ≠ 0 && zeroAt t 14 2 && zeroAt t 20 44 &&
    ent entryReserved)
  let b := tableOf t
  need .eRange (125 ≤ b.tickUs && b.tickUs ≤ 4000)
  need .eRange (b.startTick % 64 = 0 && now + 128 ≤ b.startTick)
  need .eRange (ent entryOk)
  need .eRange (b.rows.all fun r => r.all fun e => e.startUs + e.budgetUs + 8 ≤ b.tickUs)
  need .eRange ((List.range 64).all fun k =>
    let codes := (List.range 16).map fun s => fieldAt (rawEntry t k s) 0 1
    (codes.zip (codes.drop 1)).all fun (a, c) => a ≠ 0 || c = 0)
  need .eRange (b.rows.all fun r => (r.zip (r.drop 1)).all fun (a, c) => a.startUs ≤ c.startUs)
  need .eRange (b.rows.all rowClear)
  need .eRange ([SlotClass.admission, .prefill, .decode, .park, .revive, .search, .chkpt, .house].all fun c =>
    b.rows.any fun r => r.any fun e => e.cls = c)
  need .eEnergy (b.rows.all fun r => rowEnergy r ≤ allow b.tickUs)
  pure b

end Sys2Proof.Machine
end

