-- ==== Sys2Proof/Machine/TypesWork.lean ====
section
/-! DEFINITION. The records that the state holds: mailboxes, sessions, requests, pages, units, stores, ports, messages.
Plain data only; each structure cites the rule that gives it. Ring indices, lengths, ticks and byte addresses that the
model only counts with are Nat; what software reads or writes whole as bits is a bit vector. -/
namespace Sys2Proof.Machine

/-- Sparse data by number: pairs in strictly ascending key order. -/
abbrev Tbl (α : Type) := List (Nat × α)

/-! ### Host interface -/

/-- A completion or event (R249), its STAMP given at the commit. -/
structure Completion where
  tag : Nat
  opcode : Nat
  status : Status
  kind : Nat
  result : Bytes
  deriving DecidableEq, Repr, Inhabited

/-- The channel states of a mailbox (R243, R252). -/
inductive Chan where
  | idle | negotiated | opened
  deriving DecidableEq, Repr, Inhabited

/-- One mailbox page (R243) and what Steward keeps for it (R244 to R246). -/
structure Mailbox where
  sqBase : Word64
  cqBase : Word64
  shadow : Word64
  sqLog2 : BitVec 4
  cqLog2 : BitVec 5
  enable : Bool
  irqEn : Bool
  wdogEn : Bool
  enabled : Bool
  chan : Chan
  cfgErr : Bool
  sqErr : Bool
  /-- Fetching has stopped until ENABLE is written 0, then 1 (R243, R244). -/
  stopped : Bool
  wdog : Bool
  evtLost : Bool
  resetSeen : Bool
  nci : Nat
  sqTail : Nat
  cqHead : Nat
  sqHead : Nat
  cqTail : Nat
  wdogMs : Nat
  /-- SQ_HEAD and CQ_TAIL as the shadow block shows them (R243, R245). -/
  shSqHead : Nat
  shCqTail : Nat
  /-- EVT_LOST of the shadow block (R245, R246). -/
  lost : Nat
  /-- Completions owed (R246). -/
  debts : Nat
  /-- The number of enables: a command accepted under an earlier one has its completion discarded (R241). -/
  gen : Nat
  /-- The shadow block is to be written in the next commit window (R244, R245). -/
  shadowDue : Bool
  /-- STAMP of the shadow block as last written (R245). -/
  shadowStamp : Nat
  /-- The time from which the watchdog counts, none after it has fired (R246). -/
  wdogFrom : Option Nat
  /-- It has fired, and neither a fetch nor a new enable has come since (R246). -/
  wdogFired : Bool
  /-- Times that vector 0 and vector 1 were raised (R240). -/
  irq0 : Nat
  irq1 : Nat
  /-- Completions with their stamps that wait for the queue's translation (R220). -/
  delayed : List (Nat × Completion)
  deriving DecidableEq, Repr, Inhabited

/-- An accepted command whose completion is still owed (R247). -/
structure PendCmd where
  mbox : Nat
  gen : Nat
  tag : Nat
  opcode : Nat
  deriving DecidableEq, Repr, Inhabited

/-- The DCI_ block (R267). -/
structure Dci where
  active : Bool
  cause : Nat
  /-- The coming commit point is the entry commit point, for this cause (R264). -/
  entering : Option Nat
  wqErr : Bool
  /-- Fetching has stopped until ENABLE is written 0, then 1 (R267). -/
  stopped : Bool
  enable : Bool
  wqLog2 : BitVec 4
  cqLog2 : BitVec 5
  wqBase : Word64
  cqBase : Word64
  wqTail : Nat
  cqHead : Nat
  wqHead : Nat
  cqTail : Nat
  /-- Completions that wait for the queue's translation (R220). -/
  delayed : List Bytes
  deriving DecidableEq, Repr, Inhabited

/-- A host's memory as the device reaches it: (address, byte) in strictly ascending address order (R193, R257). -/
abbrev HostMem := List (Nat × Byte)

/-! ### Sessions, requests, KV -/

/-- Session states (R170), in code order. -/
inductive SessState where
  | free | idle | busy | parking | parked | reviving | offered | accepting | gone
  deriving DecidableEq, Repr, Inhabited

/-- Held output of a session (R196, R180): its records in position order, its completion, and the hold's deadline. -/
structure HeldOutput where
  epoch : Nat
  untilUs : Nat
  records : List Bytes
  completion : Option Completion
  deriving DecidableEq, Repr, Inhabited

/-- How far a request has come: its text is tokenized, its prefix looked up, its input prefilled, it decodes. -/
inductive Phase where
  | text | lookup | prefill | decode | stalled | done
  deriving DecidableEq, Repr, Inhabited

/-- A committed output token of a request: position, token, the tick of its commit, whether its record is published,
and whether fault replay produced it (R155 to R162, R342). -/
structure OutTok where
  pos : Nat
  tok : Nat
  tick : Nat
  published : Bool
  replayed : Bool
  deriving DecidableEq, Repr, Inhabited

/-- The reasons of a request completion (R250), in code order from 1. -/
inductive Reason where
  | eos | stop | maxlen | cancelled | stall | parkedOnEpoch
  deriving DecidableEq, Repr, Inhabited

/-- A request table entry (R261, R341). -/
structure Req where
  mbox : Nat
  mboxGen : Nat
  tag : Nat
  session : Nat
  maxNew : Nat
  specWidth : Nat
  stops : List Bytes
  params : Sampling.Params
  adapter : Option (Nat × Nat)
  grammarId : Option Nat
  grammar : Option Grammar
  gstate : Option GState
  slice : Nat
  stallHoldMs : Nat
  condenseAt : Nat
  noTree : Bool
  ringAddr : Nat
  ringCount : Nat
  indexAddr : Nat
  producer : Nat
  consumer : Nat
  epoch : Nat
  phase : Phase
  /-- Text not yet tokenized, and the tokens made so far (R144). -/
  text : Bytes
  textTokens : List Nat
  inputGlobals : List Nat
  /-- Length before the turn's input, and after it (R165, R127). -/
  startLen : Nat
  inputEnd : Nat
  /-- The next slice's length: halved on abandonment (R41). -/
  nextSlice : Nat
  /-- k = 0 in the next step (R133). -/
  firstStep : Bool
  out : List OutTok
  /-- A completion held to the end of the stop horizon: reason and the tick that decided it (R162). -/
  heldReason : Option (Reason × Nat)
  /-- The tick of an accepted CANCEL, and DISCARD_TURN (R163). -/
  cancel : Option (Nat × Bool)
  /-- The cancel is the epoch drain (R196). -/
  drained : Bool
  stallUntilUs : Option Nat
  /-- The hold time left while a park suspends the hold (R183). -/
  stallLeftUs : Option Nat
  ringWaitUs : Option Nat
  condensedRun : Bool
  replayed : Bool
  hostProducer : Nat
  /-- GRAMMAR_ID and MAX_DEPTH of a grammar state that came with the request (R150, R180). -/
  stateOf : Option (Nat × Nat)
  /-- Page indices reserved for each layer, and spool bytes (R130, R175). -/
  resPages : List (List Nat)
  resSpool : Nat
  treeLive : Bool
  /-- The stamp of the first event of the commit that made the request ready for its next DECODE unit (R37). -/
  unitStamp : Nat
  dci : Option Nat
  /-- Records with their stamps that wait for the ring's translation (R220). -/
  delayed : List (Nat × Bytes)
  deriving DecidableEq, Repr

/-- Ring records of a request that is over, which wait for the ring's translation (R220). -/
structure LateRing where
  mbox : Nat
  mboxGen : Nat
  ringAddr : Nat
  ringCount : Nat
  indexAddr : Nat
  producer : Nat
  records : List Bytes
  deriving DecidableEq, Repr

/-- A session: the descriptor (R169) and what hangs on it: history, spool, page map, guesses, kept states (R137). -/
structure Session where
  gen : Nat
  state : SessState
  tenant : Nat
  condensed : Bool
  psize : Nat
  hist : List Nat
  kvlen : Nat
  reqId : Nat
  treeNode : Nat
  treeGen : Nat
  globals : List Nat
  epoch : Nat
  model : Digest
  /-- Spool entries as encoded, in SEQ order (R173). -/
  spool : List Bytes
  spoolDigest : Digest
  /-- SPOOL_SEQ and SPOOL_LEN (R169), which stay while a parked session's spool is off the device. -/
  spoolSeq : Nat
  spoolLen : Nat
  /-- Spool segments in use, and the bytes used in the last (R173, R175). -/
  segments : Nat
  segFill : Nat
  /-- For each layer, the page ID of each page index held (R117). -/
  pageMap : List (Tbl Nat)
  lastCommit : Nat
  parkStore : Nat
  parkOffset : Nat
  seed : BitVec 128
  hankId : Nat
  handoffId : Nat
  peer : Nat
  held : Option HeldOutput
  guesses : List Nat
  /-- Residual states kept, by position (R133, R137). -/
  residuals : Tbl (List F32)
  /-- The first position whose KV each of the last 8 steps stored, newest first (R137). -/
  resFrom : List Nat
  /-- Length and grammar state after each of the last 8 commits, newest first (R137). -/
  marks : List (Nat × Option GState)
  /-- The windows of the layers that the pages were trimmed by, for when the model is in no slot (R112). -/
  windows : List (Option Nat)
  /-- The KV must be recomputed before the next unit (R112, R297, R339). -/
  rebuild : Bool
  /-- The state before a park or an offer (R184, R189). -/
  prior : SessState
  /-- The STALLED request that left the table when the session was parked (R183). -/
  parkedReq : Option (Nat × Req)
  deriving DecidableEq, Repr

/-- A page record and its contents (R114, R117): the parts' frames, one for each head, and their key fields. -/
structure Page where
  refs : Nat
  /-- REFCOUNT at the tick's start, by which copy-on-write is decided (R121). -/
  refs0 : Nat
  pinned : Bool
  recount : Bool
  layer : Nat
  tenant : Nat
  psize : Nat
  dim : Nat
  data : PageData
  frames : List Nat
  /-- Granules that each part held at the tick's start: what it gives up since is free from the next tick on (R119). -/
  gran0 : Nat
  enc : Bool
  keySlot : Nat
  keyGen : Nat
  deriving DecidableEq, Repr, Inhabited

/-- The key of a prefix-tree root (R123). -/
structure RootKey where
  tenant : Nat
  model : Digest
  adapter : Digest
  psize : Nat
  condensed : Bool
  deriving DecidableEq, Repr, Inhabited

/-- A node record (R124); `key` is its root's key. -/
structure Node where
  id : Nat
  gen : Nat
  key : RootKey
  parent : Nat
  parentGen : Nat
  depth : Nat
  children : Nat
  lastUse : Nat
  root : Bool
  live : Bool
  retired : Bool
  globalMask : Nat
  tokens : List Nat
  /-- Pages listed: for each layer, page index and page ID. -/
  pages : List (Tbl Nat)
  /-- LAYERS of the model header (R124). -/
  layers : Nat
  deriving DecidableEq, Repr, Inhabited

/-- An edge of a tenant's tree (R124, R125). -/
structure Edge where
  tenant : Nat
  parent : Nat
  parentGen : Nat
  child : Nat
  childGen : Nat
  deriving DecidableEq, Repr, Inhabited

/-- A purge sweep under way (R129). -/
structure Purge where
  tenant : Nat
  pages : List Nat
  deadlineUs : Nat
  cmd : Option Nat
  deriving DecidableEq, Repr, Inhabited

/-- A tenant: quotas (R204), protection and first route (R259), token shaper (R284, R286). -/
structure Tenant where
  stackMib : Nat
  treeMib : Nat
  bobbins : Nat
  sessions : Nat
  parkTiles : Nat
  isProtected : Bool
  mailbox : Nat
  rate : Nat
  burst : Nat
  bucket : Int
  decodeSeen : Bool
  /-- The tick in which its route last changed (R187). -/
  routeSince : Nat
  deriving DecidableEq, Repr, Inhabited

/-- A grant of TENANT_CREATE (R259). -/
structure Grant where
  tenant : Nat
  quota : Bytes
  isProtected : Bool
  deriving DecidableEq, Repr, Inhabited

/-! ### Models, adapters, groups of loads -/

/-- Model slot states other than FREE (R89). -/
inductive ModelState where
  | loading | active | retiring
  deriving DecidableEq, Repr, Inhabited

/-- A model slot that is not FREE (R89 to R96). -/
structure Model where
  state : ModelState
  pin : Bool
  tenantMask : Word64
  digest : Digest
  head : Bytes
  hdr : ImageHdr
  arch : Arch
  layers : List LayerEntry
  addr : Nat
  len : Nat
  group : Bool
  /-- Chunks of the shard still to be read, and plaintext chunks held (R91). -/
  need : List Nat
  chunks : Tbl Bytes
  /-- The chunks that other members hold, as this member's reads of the image show them (R15, R103). -/
  others : Tbl Bytes
  /-- The last chunk has passed: activation is due at the commit point (R91). -/
  loaded : Bool
  cmd : Option Nat
  lastBind : Nat
  drainUs : Nat
  /-- The next commit point is the drain deadline (R96). -/
  drainDue : Bool
  pages : Nat
  deriving DecidableEq, Repr, Inhabited

/-- An adapter version (R98 to R101). -/
structure AdapterVer where
  id : Nat
  ver : Nat
  digest : Digest
  hdr : AdapterHdr
  body : Bytes
  retiring : Bool
  pages : Nat
  /-- KEY_REF of a sealed image (R80, R317). -/
  keyRef : Option (BitVec 128)
  deriving DecidableEq, Repr, Inhabited

/-- What a group-exchanged change does when it is applied (R92, R102, R292, R194). -/
inductive GroupWhat where
  | model (slot : Nat)
  | adapter (id : Nat) (ver : AdapterVer)
  | grammar (id : Nat) (g : Grammar)
  | vocab (slot : Nat) (v : Vocab)
  | forward (opcode : Nat) (c : Cmd) (body : Bytes)
  | checkpoint
  | others
  deriving DecidableEq, Repr, Inhabited

/-- A group exchange under way (R92): the change, `others` where only other members have begun it, its command here, the lowest
rank's count of reports, when it began and the deadline of GROUP_WAIT_S, and the commit point of its application once named. -/
structure Exchange where
  what : GroupWhat
  digest : Digest
  cmd : Option Nat
  startUs : Nat
  waitUs : Nat
  loadedHere : Bool
  loadedRanks : List (Nat × Nat)
  applyTick : Option Nat
  version : Nat
  /-- The rank of the member that accepted a forwarded command. -/
  accepting : Nat := 0
  deriving DecidableEq, Repr, Inhabited

/-! ### Keys -/

/-- Key slot states other than FREE (R311). -/
inductive SlotKind where
  | current | draining | kept | dormant | model | transport
  /-- Taken by a KEY_ROTATE whose vault write has begun (R312, R320). -/
  | coming
  deriving DecidableEq, Repr, Inhabited

/-- A key slot in use (R311, R318). -/
structure KeySlot where
  kind : SlotKind
  tenant : Nat
  gen : Nat
  key : Key
  keep : Bool
  keyRef : BitVec 128
  modelDigest : Digest
  handoff : Nat
  /-- Encrypted pages other than KV parts and mapped device pages, under an older generation that is not swept yet (R311). -/
  rest : Nat
  deriving DecidableEq, Repr, Inhabited

/-- A release key (R317). -/
structure ReleaseKey where
  id : Nat
  priv : Nat
  expiryUs : Nat
  deriving DecidableEq, Repr, Inhabited

/-- What takes effect when a vault write finishes (R311, R312, R320). -/
inductive VaultWork where
  | create (tenant : Nat) (t : Tenant)
  | rotate (tenant newSlot : Nat) (keep : Bool)
  | dropKept (tenant : Nat)
  | erase (tenant newSlot : Nat)
  deriving DecidableEq, Repr, Inhabited

/-- A vault write under way (R311). -/
structure VaultJob where
  work : VaultWork
  cmd : Option Nat
  finished : Bool
  deriving DecidableEq, Repr, Inhabited

/-! ### Route maps and handoffs -/

/-- A tenant entry of a route map (R193). -/
structure RouteEntry where
  mailbox : Nat
  store : Nat
  areaOff : Nat
  areaLen : Nat
  deriving DecidableEq, Repr, Inhabited

/-- A park store (R193). -/
structure ParkStore where
  kind : Nat
  port : Nat
  rate : Nat
  base : Nat
  len : Nat
  mask : Word64
  deriving DecidableEq, Repr, Inhabited

/-- A route map (R193). -/
structure RouteMap where
  epoch : Nat
  drainMs : Nat
  holdS : Nat
  tenants : Tbl RouteEntry
  stores : Tbl ParkStore
  deriving DecidableEq, Repr, Inhabited

/-- The source side of a handoff (R189, R192). -/
structure HandoffSrc where
  session : Nat
  dst : Nat
  timeoutMs : Nat
  cmd : Option Nat
  /-- OFFER sent: the deadline. -/
  deadlineUs : Option Nat
  accepted : Option Nat
  aborted : Option Nat
  /-- Restored from a reel: never reverts on its own timeout (R192). -/
  restored : Bool
  /-- Reverted: the record stays so that a QUERY_OWNER is answered with verdict 0 (R189). -/
  reverted : Bool
  full : Bool
  /-- HANDOFF_ID and PEER of the session before the offer (R189). -/
  was : Nat × Nat
  deriving DecidableEq, Repr, Inhabited

/-- The destination side of a handoff (R190, R191). -/
structure HandoffDst where
  src : Nat
  offer : Bytes
  tiles : Tbl Bytes
  session : Option Nat
  cmd : Option Nat
  deadlineUs : Option Nat
  nextQueryUs : Option Nat
  settleUs : Nat
  /-- The QUERY_OWNER command that waits for an answer, and until when (R191, R258). -/
  ask : Option (Nat × Nat)
  /-- What the next commit point does: activation, with ACQUIRE's BY, or the freeing of the index with a status. -/
  by_ : Option Nat
  aborted : Option Nat
  /-- Activated here. -/
  owned : Bool
  deriving DecidableEq, Repr, Inhabited

/-- A CLAIM under way (R198): its command, the claiming mailbox, the new ring, and the records written. -/
structure ClaimJob where
  cmd : Nat
  mbox : Nat
  /-- The enable of the mailbox that accepted the command (R241). -/
  gen : Nat
  ring : Nat
  count : Nat
  indexAddr : Nat
  written : Nat
  deriving DecidableEq, Repr, Inhabited

/-! ### Background copies, revivals, rebuilds -/

/-- What a background copy is for (R181). -/
inductive CopyFor where
  | park (store offset resultAddr : Nat) (port : HostSpace) (resident : Bool)
  | handoff (id : Nat)
  | epochPark (store offset : Nat)
  | chkpt
  deriving DecidableEq, Repr, Inhabited

/-- A PARK or HANDOFF_OFFER copy (R181 to R184): the hank's tiles with their byte offsets, in write order. -/
structure Copy where
  session : Nat
  for_ : CopyFor
  cmd : Option Nat
  full : Bool
  /-- LIMIT of a PARK (R183). -/
  limit : Nat
  hankId : Nat
  hankLen : Nat
  digest : Digest
  tiles : List (Nat × Bytes)
  written : Nat
  /-- Sections in clear that wait for the transport key (R189), with the session as of the consistency point. -/
  snap : Option Session
  sections : List (Nat × Bytes)
  stamp : Nat
  /-- Pages that the copy still holds, each with the number of tiles after which it is copied (R118, R181). -/
  pages : List (Nat × Nat)
  resPages : List (List Nat)
  /-- The session's format at the ordering commit, in which its reservation counts (R131, R205). -/
  condensed : Bool
  deriving DecidableEq, Repr

/-- A full revival, or the tile reading of a recompute revival (R185 to R187, R190). -/
structure Revival where
  session : Nat
  fresh : Bool
  cmd : Option Nat
  header : Bytes
  tags : Bytes
  key : Bytes
  store : Nat
  offset : Nat
  recompute : Bool
  slice : Nat
  nData : Nat
  plain : Tbl Bytes
  resPages : List (List Nat)
  before : Option Session
  deriving DecidableEq, Repr

/-- A recompute of a session's KV (R187, R297, R340): where it ends, its slice, and what its end completes. -/
structure Rebuild where
  target : Nat
  slice : Nat
  nextSlice : Nat
  /-- FORMAT entries still to apply, by KVLEN. -/
  formats : List Nat
  cmd : Option Nat
  /-- The REVIVE entry to append: HANK_ID, MODE, SOURCE (R174); none for a width change. -/
  entry : Option (Nat × Nat × Nat)
  /-- Spool entries that the completing commit writes before it: STALL_FREE, HELD_DISCARD (R187). -/
  gone : List (Nat × Bytes)
  resPages : List (List Nat)
  lookedUp : Bool
  step : Nat
  deriving DecidableEq, Repr, Inhabited

/-! ### Retrieval stores -/

/-- A query and its scan record (R227, R231, R233, R235). -/
structure Query where
  store : Nat
  cmd : Option Nat
  mbox : Nat
  snap : Nat
  ver : Nat
  vec : List F32
  k : Nat
  resAddr : Nat
  deadlineUs : Nat
  stamp : Nat
  group : Option Nat
  top : List Hit
  /-- Lists held, by rank; the query was accepted on another device when `origin` names it. -/
  lists : Tbl (List Hit)
  origin : Option Nat
  deriving DecidableEq, Repr, Inhabited

/-- A scan group (R232, R233): next pass, pass count, and the top-k of the tick's passes in staging, by query. -/
structure ScanGroup where
  store : Nat
  ver : Nat
  queries : List Nat
  stamp : Nat
  nextPass : Nat
  passes : Nat
  staged : Tbl (List Hit)
  stagedPass : Nat
  /-- The last abandoned pass, with its tick (R233). -/
  cut : Option (Nat × Nat)
  deriving DecidableEq, Repr, Inhabited

/-- A session's move after a width change (R297, R299): whether its spool and a part of its pages were lost, what the
projection of R299 asks of it, the ranks, in the new numbering, that sampled it before and that hold its spool or the
mirror of it, and the lost sampling device's old rank and DEVICE_ID. -/
structure SessMove where
  lostSpool : Bool
  lostPart : Bool
  condense : Bool
  release : Bool
  oldSampler : Option Nat
  holder : Option Nat
  lost : Nat × Nat
  deriving DecidableEq, Repr, Inhabited

/-! ### Units -/

/-- What a unit does (R31). -/
inductive UnitKind where
  | tokenize (req : Nat)
  | lookup (session : Nat)
  | prefill (session : Nat)
  | decode (req : Nat)
  | parkTile (copy tile : Nat)
  | reviveTile (rev tile : Nat)
  | searchPass (group pass : Nat)
  | chkptTile (tile : Nat)
  | compact (store : Nat)
  | prune (tenant : Nat)
  | sweep (purge : Nat)
  | reencrypt (tenant slot : Nat)
  | modelFree (slot : Nat)
  | adapterFree (id ver : Nat)
  | sessionMove (session : Nat)
  | reshard (slot chunk : Nat)
  | bistUpkeep
  deriving DecidableEq, Repr, Inhabited

/-- A unit (R37 to R44, R48, R49). -/
structure UnitRec where
  key : UnitKey
  cls : SlotClass
  kind : UnitKind
  tenant : Option Nat
  session : Option Nat
  est : Nat
  abandons : Nat
  lastSlot : Nat
  /-- The unit runs on every member of the group and commits under R48. -/
  group : Bool
  /-- Waits for a translation fault to resolve (R217), by the page it waits for. -/
  paused : Option (HostSpace × Nat)
  /-- Size of the work, and for system work the size of the pieces that are to follow (R39). -/
  size : Nat
  left : Nat
  /-- Slots of the running tick that had started before the unit's pause ended (R217). -/
  notIn : List Nat
  /-- Protection tags other than 0 of the SRAM that the unit holds while it runs (R305). -/
  tags : List Nat
  deriving DecidableEq, Repr, Inhabited

/-- What a unit's lock set names (R43, R210): a session, a KV page, a store's side list, a model slot, a traffic class's link credit,
a park store's credit, a Flyer (0 to 31 on the Hub, from 32 on four for each Spindle). -/
inductive Lock where
  | session (idx : Nat)
  | page (id : Nat)
  | store (k : Nat)
  | model (slot : Nat)
  | link (tc : Nat)
  | park (store : Nat)
  | flyer (n : Nat)
  deriving DecidableEq, Repr

/-- One coordinator decision, with the tick that took it (R49). -/
structure Decision where
  tick : Nat
  key : UnitKey
  commit : Bool
  deriving DecidableEq, Repr, Inhabited

/-! ### Twine -/

/-- Where a message goes (R277): a member, a device outside the group, or the far end of one port. -/
inductive MsgDst where
  | rank (r : Nat)
  | device (id : Nat)
  | port (p : Nat)
  deriving DecidableEq, Repr, Inhabited

/-- What a message says (R278). The spec gives no byte layout for most bodies, so they are typed. -/
inductive MsgBody where
  | ready (key : UnitKey)
  | notReady (key : UnitKey)
  | commit (key : UnitKey)
  | abandon (key : UnitKey)
  | decisionQuery (key : UnitKey)
  | tableDigest (id : Nat) (digest : Digest)
  | tableVerdict (go : Bool)
  | loaded (digest : Digest) (lastVersion : Nat)
  | failed (digest : Digest) (status : Nat)
  | activate (digest : Digest) (tick version : Nat)
  | abort (digest : Digest)
  | forward (c : Cmd) (body : Bytes)
  | mirror (key : UnitKey) (entries : List MirrorEntry)
  | mirrorAck (key : UnitKey)
  | handoff (body : Bytes)
  | hankTile (handoff tile : Nat) (data : Bytes)
  | topk (query : Nat) (hits : List Hit)
  | status (tick : Nat) (counts : List Nat)
  | shrink (survivors : Word64) (tick : Nat)
  | joinAck (status : Nat)
  | joinPropose (joinTick : Nat) (table : SchedTable)
  | joinGo (tick : Nat) (copy : Option JoinCopy)
  | hello (body : Bytes)
  | move (item : MoveItem)
  /-- A tile that a Flyer descriptor moves to a Twine peer (R211), in MOVE's class: at the peer's address. -/
  | tile (addr : Nat) (data : Bytes)
  | marker (tick root : Nat)
  | retry (seq : Nat)
  | echo (ns : Nat)
  | echoReply (ns : Nat)
  deriving DecidableEq, Repr, Inhabited

/-- MTYPE (R278); 0 for what flits carry without a message. -/
def MsgBody.mtype : MsgBody → Nat
  | .hello _ => 0x0001 | .joinPropose .. => 0x0010 | .joinAck .. => 0x0011 | .joinGo .. => 0x0012
  | .status .. => 0x0018 | .shrink .. => 0x0019 | .ready _ => 0x0020 | .notReady _ => 0x0021 | .commit _ => 0x0022
  | .abandon _ => 0x0023 | .decisionQuery _ => 0x0024 | .tableDigest .. => 0x0028 | .tableVerdict _ => 0x0029
  | .loaded .. => 0x0030 | .failed .. => 0x0031 | .activate .. => 0x0032 | .abort _ => 0x0033 | .forward .. => 0x0038
  | .mirror .. => 0x0040 | .mirrorAck _ => 0x0041 | .move _ => 0x0058 | .tile .. => 0x0058 | .handoff _ => 0x0060
  | .hankTile .. => 0x0061 | .topk .. => 0x0068 | .marker .. => 0 | .retry _ => 0 | .echo _ => 0 | .echoReply _ => 0

/-- The traffic class of a message (R278); markers and control flits go in the highest (R27). -/
def MsgBody.tc : MsgBody → Nat
  | .loaded .. => 5 | .failed .. => 5 | .activate .. => 5 | .abort _ => 5 | .forward .. => 5 | .mirror .. => 5 | .mirrorAck _ => 5
  | .move _ => 3 | .tile .. => 3 | .handoff _ => 4 | .hankTile .. => 4 | .topk .. => 2 | _ => 7

/-- A committed message (R47, R287): it waits at its receiver for its sender's STATUS. What forms the group and decides on units acts
at its arrival and carries STAMP 0. DEDUCED (log 14). -/
def MsgBody.committed : MsgBody → Bool
  | .tableVerdict _ => true | .loaded .. => true | .failed .. => true | .activate .. => true | .abort _ => true | .forward .. => true
  | .move _ => true | .tile .. => true | .handoff _ => true | .hankTile .. => true | .topk .. => true
  | _ => false

/-- The Twine version since which a message exists (R278), in GLB_VERSION encoding; handoff TYPE 5 and 6 came with 2.1. -/
def MsgBody.since : MsgBody → Nat
  | .joinPropose .. => 0x22 | .joinAck .. => 0x22 | .joinGo .. => 0x22 | .status .. => 0x22 | .shrink .. => 0x22
  | .mirror .. => 0x22 | .mirrorAck _ => 0x22 | .handoff b => if fieldAt b 0 1 = 5 || fieldAt b 0 1 = 6 then 0x21 else 0x20
  | _ => 0x20

/-- A message that the device has sent: STAMP is 0 for in-slot data (R277). -/
structure OutMsg where
  dst : MsgDst
  stamp : Nat
  sendTick : Nat
  seq : Nat
  body : MsgBody
  deriving DecidableEq, Repr, Inhabited

/-- Port states (R272), in code order. -/
inductive PortState where
  | down | training | keying | up8 | up4
  deriving DecidableEq, Repr, Inhabited

/-- A gate list (R282): TAKEOVER_TICK and entries of START_US and OPEN. -/
structure GateList where
  takeover : Nat
  entries : List (Nat × BitVec 8)
  deriving DecidableEq, Repr, Inhabited

/-- A link shaper of one class (R285): RATE in MB/s, BURST in flits, bucket in bytes, class queue empty since. -/
structure LinkShaper where
  rate : Nat
  burst : Nat
  bucket : Nat
  busy : Bool
  deriving DecidableEq, Repr, Inhabited

/-- The key exchange of a port, member or transport (R315, R316). -/
structure KeyExchange where
  ephPriv : Nat
  nonce : Bytes
  peerId : Nat
  peerNonce : Bytes
  peerEph : Bytes
  /-- Phase 1 received, and the exchange done with the peer's report accepted. -/
  gotPhase1 : Bool
  done : Bool
  deriving DecidableEq, Repr, Inhabited

/-- What a flit says, before its port adds the link's fields and encrypts it (R273): KIND, CTL without KEY_PHASE, DST_RANK, SRC_RANK,
and as many payload bytes as LEN counts. -/
structure FlitBody where
  kind : Nat
  ctl : Nat
  dst : Nat
  src : Nat
  payload : Bytes
  deriving DecidableEq, Repr, Inhabited

/-- A message that waits for a port (R277, R281): its class, whether its flits need no credit (R276), DST_RANK, its flits and how many
of them have gone, and the DATA of the TW_SEND record that the first of them writes (R350). -/
structure TxMsg where
  tc : Nat
  free : Bool
  dst : Nat
  flits : List FlitBody
  done : Nat
  note : Option Bytes
  deriving DecidableEq, Repr, Inhabited

/-- A message from its first flit on, to be sent again (R280). -/
def TxMsg.restart (m : TxMsg) : TxMsg := { m with done := 0, note := none }

/-- A flit in the retry buffer (R275): its sequence, its 256 bytes as they went, how often it was resent, and its message. -/
structure SentFlit where
  seq : Nat
  bytes : Bytes
  resent : Nat
  msg : TxMsg
  deriving DecidableEq, Repr, Inhabited

/-- A Twine port (R270 to R276, R282, R285). -/
structure Port where
  state : PortState
  version : Nat
  peerRank : Nat
  laneMap : BitVec 8
  retries : Nat
  peerId : Nat
  latencyNs : Nat
  fecUncorr : Nat
  /-- Port secret, salt, key phases and flit sequences of the two directions (R274, R316). -/
  secret : Bytes
  salt : Bytes
  txPhase : Nat
  rxPhase : Nat
  txSeq : Nat
  rxSeq : Nat
  /-- What waits to be sent, oldest first (R277, R281), and the flits sent and not yet acknowledged (R275). -/
  txq : List TxMsg
  retryBuf : List SentFlit
  /-- When RETRY was last sent, and when ACK last made progress or the first unacknowledged flit went (R275). -/
  retryUs : Option Nat
  ackUs : Nat
  /-- When the port last went DOWN (R271). -/
  downUs : Nat
  tagFails : Nat
  /-- Credits held to send, and credits to return, by class (R276). -/
  credits : List Nat
  toReturn : List Nat
  /-- Bytes of messages being received, by class (R277). -/
  partials : List Bytes
  exchange : Option KeyExchange
  echoes : List Nat
  gates : GateList
  stagedGates : Option GateList
  gateEntry : Nat
  shapers : List LinkShaper
  deriving DecidableEq, Repr, Inhabited

end Sys2Proof.Machine
end

