-- ==== Sys2Proof/Machine/Effects.lean ====
section
/-! DEFINITION. Staged effects (R45): what a unit or a Steward command does at its commit point, as data. -/
namespace Sys2Proof.Machine

/-- One change that becomes visible at a commit point. The first eight constructors are the externally visible events
that take a commit stamp (R50). -/
inductive Effect where
  /-- A ring record (R155, R156): INFO without POSITION. -/
  | ring (req pos tok info : Nat)
  /-- A held record and a held completion, published by CLAIM (R198). -/
  | heldRing (idx k : Nat)
  | heldDone (idx : Nat)
  /-- A command's completion (R249). -/
  | complete (cmd : Nat) (st : Status) (res : Bytes)
  /-- A request's completion (R250): REASON code, 0 for an error status. -/
  | reqDone (req : Nat) (st : Status) (reason : Nat)
  /-- An event on mailbox 0 (R251). -/
  | event (code : Nat) (res : Bytes)
  /-- A spool entry: type, flags, payload (R173, R174). -/
  | spool (session ty flags : Nat) (payload : Bytes)
  /-- A committed Twine message (R47, R277). -/
  | send (dst : MsgDst) (body : MsgBody)
  /-- The Steward command that the item belongs to (R247, R293): its number, mailbox and bytes. -/
  | accepted (cmd m : Nat) (c : Cmd)
  /-- Bytes written to host memory in the commit window (R46). -/
  | hostWrite (space : HostSpace) (addr : Nat) (data : Bytes)
  /-- Bytes written at a device virtual address by a Flyer descriptor of the DCI (R211). -/
  | devWrite (va : Nat) (data : Bytes)
  /-- Channel state and negotiated version of a mailbox (R252, R254). -/
  | chan (m : Nat) (c : Chan) (nci : Nat)
  /-- A model slot starts loading, the model that held it being evicted (R91, R95). -/
  | modelLoad (slot : Nat) (m : Model)
  /-- A model slot starts to drain; DRAIN_MS, and the command that waits (R96). -/
  | modelRetire (slot drainMs : Nat) (cmd : Option Nat)
  | modelActive (slot : Nat)
  | modelFree (slot : Nat)
  /-- A group exchange starts here (R92). -/
  | exchange (x : Exchange)
  /-- An adapter version becomes current (R99). -/
  | adapterAdd (a : AdapterVer)
  | adapterRetire (id ver : Nat)
  | adapterFree (id ver : Nat)
  | grammarSet (id : Nat) (g : Option Grammar)
  | vocabSet (slot : Nat) (v : Option Vocab)
  /-- A new session in its index (R171). -/
  | sessCreate (idx : Nat) (s : Session)
  | sessDestroy (idx : Nat)
  | sessState (idx : Nat) (st : SessState)
  /-- A copy of a session is ordered (R181): the hank is taken at this commit. -/
  | copyStart (c : Copy)
  /-- A tile of a copy, or of a checkpoint, has been written (R184, R334). -/
  | copyTile (copy : Nat)
  | copyFail (copy : Nat) (st : Status)
  | reviveStart (r : Revival)
  | reviveTile (rev tile : Nat) (data : Bytes)
  | reviveFail (rev : Nat) (st : Status)
  /-- A recompute is given up (R42). -/
  | rebuildFail (idx : Nat) (gone : Bool)
  | handoffOffer (id : Nat) (h : HandoffSrc)
  | handoffAccept (id : Nat) (tenant : Nat) (r : Revival)
  | handoffRefuse (id : Nat) (cmd : Nat) (st : Status)
  | ownerQuery (id cmd : Nat)
  /-- A source gives its session away (R189), takes it back, a destination activates or frees its index (R190 to R192). -/
  | relinquish (idx id : Nat)
  | revert (id : Nat)
  | ownNow (id : Nat)
  | freeDst (id : Nat)
  /-- CLAIM has written so many more records (R198). -/
  | claimed (idx n : Nat)
  | claimStart (idx cmd mbox gen ring count indexAddr : Nat)
  | purge (key : RootKey) (node : Option Nat) (cmd : Nat)
  /-- An accepted SUBMIT: the request and its token input (R263, R134). -/
  | submit (id : Nat) (r : Req) (tokens : List Nat)
  /-- RESUME (R154): the request, the mailbox that owes its completion now, that mailbox's enable (R246), and the grammar. -/
  | resume (req mbox gen : Nat) (gid : Option Nat) (g : Option Grammar)
  | retract (idx n : Nat)
  /-- A tokenization unit's text consumed and tokens made (R144). -/
  | tokenized (req taken : Nat) (tokens : List Nat)
  /-- A lookup's pages and nodes, each node by its ID and GEN (R126). -/
  | lookedUp (idx : Nat) (nodes : List (Nat × Nat)) (pages : List (Tbl Nat)) (upto : Nat)
  /-- A prefill slice's KV (R106). -/
  | prefilled (idx upto : Nat) (kv : KvView)
  /-- A decode step's result (R137): tokens, KV and its length, residual states, grammar state, guesses. -/
  | decoded (req : Nat) (acc : List Nat) (kv : KvView) (kvlen : Nat) (residuals : Tbl (List F32)) (g : Option GState)
      (guesses : List Nat)
  /-- A step that met an empty mask at its first position (R153). -/
  | stalled (req : Nat)
  | storeCreate (id : Nat) (st : Store)
  | storeDestroy (id : Nat)
  | groupVote (rank : Nat) (c : Cmd)
  /-- The rank of the other member that accepted the command (R168). -/
  | fromRank (rank : Nat)
  | storeAppend (id : Nat) (entries : List (Nat × Bool × Bytes))
  | queryStart (q : Nat) (query : Query)
  | compactStart (id : Nat) (cmd : Nat)
  | compactDone (id : Nat)
  /-- A query ends: its scan record is freed (R231, R235). -/
  | queryEnd (q : Nat)
  | passDone (group pass : Nat) (tops : Tbl (List Hit))
  | checkpointStart (cmd store offset limit reelAddr reelLen : Nat)
  | chkptTile (tile : Nat)
  /-- The copies of a checkpoint are ordered in a group (R333). -/
  | chkptOrder
  /-- A checkpoint fails (R335); the reel is written with the stamp of its commit (R334). -/
  | chkptFail (st : Status)
  | reelWrite
  /-- A restore ends before its last record (R339). -/
  | restoreEnd
  /-- Held output is gone (R199). -/
  | heldDrop (idx : Nat)
  | restoreStart (cmd : Nat) (reel : Bytes) (by_ : Nat)
  | restoreRecord (idx : Nat)
  | oneShard (cmd : Nat) (idx gen : Nat) (s : Session) (rb : Rebuild)
  | grant (mailbox : Nat) (g : Grant)
  /-- A vault write begins (R311). -/
  | vaultStart (j : VaultJob)
  | vaultDone
  | installKey (slot : Nat) (k : KeySlot) (usedReport : Nat)
  | releaseKey (k : ReleaseKey)
  | attest (space : HostSpace) (addr kind : Nat) (nonce : Bytes) (reportId priv : Nat) (subject : Bytes) (cmd : Nat)
  | schedStage (t : SchedTable) (digest : Digest)
  | gateStage (port : Nat) (g : GateList)
  | tenantShaper (tenant rate burst : Nat) (full : Bool)
  | linkShaper (port tc rate burst : Nat)
  | energySet (w : Nat)
  | traceCfg (cfg : Bytes)
  | traceTrigger (code : Nat)
  | countersRead (group : Nat) (space : HostSpace) (addr : Nat)
  | hangDump (space : HostSpace) (addr len : Nat) (cmd : Nat)
  | joinStart (desc : Bytes) (cmd : Nat)
  | shrinkStart (rank : Nat) (cmd : Nat)
  | routeMap (m : RouteMap)
  | shutdown (bist : Bool) (cmd : Nat)
  /-- A prune pass (R128), a sweep (R129), a re-encryption (R321), a move (R297), a re-shard tile (R298), BIST upkeep. -/
  | prune (tenant : Nat)
  | sweep (purge : Nat)
  | reencrypt (tenant slot : Nat)
  | sessionMove (idx : Nat)
  | reshard (slot chunk : Nat) (data : Option Bytes)
  | bistUpkeep
  /-- DCI work (R268): a completion of an entry, a DCI turn's input. -/
  | dciComplete (tag op : Nat) (st : Status) (res : Bytes)
  | dciInput (tag idx : Nat) (tokens : List Nat)
  | dciStep (tag idx : Nat) (p : Sampling.Params)
  deriving DecidableEq, Repr

/-- The staged effects of one unit or one Steward command (R45, R51). -/
structure Item where
  unit : Option UnitRec
  slot : Nat
  session : Option Nat
  effs : List Effect
  deriving DecidableEq, Repr

end Sys2Proof.Machine
end

