-- ==== Sys2Proof/Machine/State.lean ====
section
/-! DEFINITION. The state of the block, its faults and refusals, and its reset. -/
namespace Sys2Proof.Machine

/-- Why the machine stops. No row of this block stops it: a failed check is a completion with a status (R3), and an
event whose condition does not hold does not occur. The one constructor is raised by nobody; it stands so that the type
is not empty (safe). -/
inductive Fault where
  | stopped
  deriving DecidableEq, Repr

/-- Why a command has no meaning in the model. -/
inductive Refusal where
  /-- Raised by an arm of `exec` whose meaning is not written (safe: nothing can be proved of it). -/
  | notModelled (mnemonic : String)
  deriving DecidableEq, Repr

/-- GLB_STATUS.MODE (R242), in code order. -/
inductive Mode where
  | nci | direct | boot | halted
  deriving DecidableEq, Repr, Inhabited

/-- The GLB_ block and what boot keeps (R242, R369, R372, R384). -/
structure Glb where
  ready : Bool
  mode : Mode
  lifecycle : Lifecycle
  bistFail : Bool
  rank : Nat
  inGroup : Bool
  dciReq : Bool
  /-- STRAP_ pins as held (R384): OSC_WAIT [3:0], PORT_MODE [5:4], JTAG_2W [6], I3C_ADDR [8:7]. -/
  straps : BitVec 9
  /-- Boot: whether the boot image's signature verifies (R372 step 4), and the sequence's stage: 0 off, 1 waiting for
  the crystal, 2 at work, 3 stopped, 4 done. -/
  signatureOk : Bool
  bootStage : Nat
  bootUntilUs : Nat
  /-- Both host links (R238, R367, R388). -/
  link0 : Bool
  link1 : Bool
  /-- A thermal trip holds PWR_ALERT_N low until power is removed (R388, R390). -/
  thermal : Bool
  /-- Steward is restarting from the boot flash (R266). -/
  restarting : Bool
  /-- When a Steward core last restarted the Steward watchdog, in µs (R265). -/
  stewardUs : Nat
  deriving DecidableEq, Repr

/-- A staged schedule table (R34, R35): its digest, and the verdict received. -/
structure StagedTable where
  table : SchedTable
  digest : Digest
  verdict : Option Bool
  deriving DecidableEq, Repr

/-- The tick, the schedule and the slots of the tick that runs (R23 to R52). -/
structure TickSt where
  tick : Nat
  startUs : Nat
  hiLatch : Nat
  src : Nat
  onMarker : Bool
  pinLoss : Bool
  tickFault : Bool
  schedMismatch : Bool
  defer : Bool
  /-- One of PIN_LOSS, TICK_FAULT, SCHED_MISMATCH, DEFER rose in this tick (R251). -/
  rose : Bool
  table : SchedTable
  staged : Option StagedTable
  abandonCnt : Nat
  abandonSat : Bool
  deferCnt : Nat
  deferSat : Bool
  /-- Ticks in a row that a marker has started without an edge, commit points since the last edge or marker, and ticks in a row
  that have had a good edge (R28, R29). -/
  missedEdges : Nat
  missedBeats : Nat
  goodEdges : Nat
  /-- The tick whose number stands has not started: its edge or its marker is awaited (R26, R27). -/
  awaited : Bool
  /-- An edge has come for the running tick; when the last edge came; the start of the coming tick, where its edge has come
  before the commit point (R26, R28). -/
  edgeSeen : Bool
  edgeUs : Nat
  edgeDue : Option Nat
  /-- The device takes the marker source with the next marker (R28). -/
  toMarker : Bool
  /-- The fixed delay of the device's place in the chain; while a join runs, an edge or a marker whose partner of the same tick
  has not come, and the samples taken (R26, R291 step 4). -/
  pinDelayNs : Nat
  pinEdge : Option Nat
  pinMark : Option Nat
  pinSamples : List Int
  /-- Table pairs held by the decider, and whether its verdict is sent (R35). -/
  digests : Tbl (Nat × Digest)
  verdictSent : Bool
  verdictBy : Option Nat
  /-- This member sends no STATUS that the decider counts (R35). -/
  mute : Bool
  /-- Slots that run: index, energy left, whether a unit has run in it. -/
  slots : List (Nat × Nat)
  /-- The tick's remaining allowance (R38). -/
  allowLeft : Nat
  windowOpen : Bool
  /-- A queued unit was refused for the tick's allowance (R380 counter 3). -/
  refused : Bool
  /-- No new units are taken (R29, R295, R374). -/
  noUnits : Bool
  deriving DecidableEq, Repr

/-- Units: queues, running, finished, in doubt, deferred; Steward's staged commands (R37 to R51). -/
structure WorkSt where
  queue : List UnitRec
  running : List (Nat × UnitRec)
  done : List Item
  /-- Finished units whose decision is not known, with the tick since which (R49). -/
  inDoubt : List (Nat × Item)
  deferred : List Item
  steward : List Item
  /-- READY, NOT_READY and decisions received (R48, R49). -/
  votes : List (UnitKey × Nat × Bool)
  decisions : List Decision
  acks : List UnitKey
  /-- Park credits taken in the tick by store, and tiles by tenant (R200, R208). -/
  storeCredits : Tbl Nat
  tenantTiles : Tbl Nat
  /-- Steward commands without MIRROR_ACK, to be checked again in the next tick (R293): command, mailbox, bytes. -/
  again : List (Nat × Nat × Cmd)
  /-- Requests whose outcome R51 put off, and whether it put off what the commit point itself makes. -/
  lateReqs : List Nat
  lateMade : Bool
  /-- Units and requests skipped since which stamp do not count. The number of units made in the running commit. -/
  nextSub : Nat
  deriving DecidableEq, Repr

/-- Images: model slots, adapters, grammars, vocabularies, exchanges (R89 to R102, R141 to R149). -/
structure ImageSt where
  models : Tbl Model
  adapters : List AdapterVer
  adapterLast : Tbl Nat
  adapterCurrent : Tbl Nat
  grammars : Tbl Grammar
  vocabs : Tbl Vocab
  exchanges : Tbl Exchange
  nextExchange : Nat
  deriving DecidableEq, Repr

/-- Sessions and requests, copies, revivals, rebuilds, handoffs (R167 to R192). -/
structure SessSt where
  sessions : Tbl Session
  gens : Tbl Nat
  retired : List Nat
  reqs : Tbl Req
  nextReq : Nat
  copies : Tbl Copy
  nextCopy : Nat
  revivals : Tbl Revival
  nextRev : Nat
  rebuilds : Tbl Rebuild
  nextHank : Nat
  nextHandoff : Nat
  srcs : Tbl HandoffSrc
  dsts : Tbl HandoffDst
  lastMsg : Tbl Bytes
  claims : Tbl ClaimJob
  /-- Records of requests that are over, which wait for a translation (R220). -/
  lateRings : List LateRing
  /-- Copies ordered in this commit, with their stamps: taken when the commit's items are applied (R181). -/
  freshCopies : List (Nat × Nat)
  deriving DecidableEq, Repr

/-- Pages and prefix trees (R113 to R132). -/
structure KvSt where
  pages : Tbl Page
  /-- Net reference changes staged in the commit (R119), by page. -/
  nodes : List Node
  edges : List Edge
  purges : Tbl Purge
  nextPurge : Nat
  /-- Pages free at the tick's start are those not listed here: freed in this tick's commit (R119). -/
  freedNow : List Nat
  deriving DecidableEq, Repr

/-- Tenants, grants, route maps (R193 to R206, R259). -/
structure TenantSt where
  tenants : Tbl Tenant
  grants : Tbl Grant
  map : RouteMap
  /-- The previous map, its drain deadline, and the tick that its successor's activation started (R195, R196). -/
  old : Option (RouteMap × Nat × Nat)
  /-- A map accepted and not yet activated, and the commit point (tick) that activates it (R194). -/
  next : Option (RouteMap × Nat)
  deriving DecidableEq, Repr

/-- Retrieval stores (R221 to R237). -/
structure StoreSt where
  stores : Tbl Store
  queries : Tbl Query
  nextQuery : Nat
  groups : Tbl ScanGroup
  nextGroup : Nat
  deriving DecidableEq, Repr

/-- A checkpoint under way on this member (R332 to R335). DESIGN CHOICE (log 122). -/
structure Checkpoint where
  cmd : Option Nat
  /-- The rank of the accepting member. -/
  accepting : Nat
  store : Nat
  offset : Nat
  limit : Nat
  reelAddr : Nat
  reelLen : Nat
  step : Nat
  /-- The shard's tiles in write order with their indices, and how many are written. -/
  tiles : List (Nat × Bytes)
  /-- The tenant of the session whose record each tile belongs to, in the order of the tiles (R208). -/
  owners : List (Option Nat)
  written : Nat
  shardLen : Nat
  sessions : Nat
  digest : Digest
  /-- (digest, length, sessions) reported by each rank (R334), and handoff entries and tenants of the step (R330). -/
  reports : Tbl (Digest × Nat × Nat)
  /-- The tiles after which each session's clear record is written, by session. -/
  ends : Tbl Nat
  /-- What is charged of sessions destroyed since the step: tenant, bytes, and the tiles after which it is copied (R335). -/
  kept : List (Nat × Nat × Nat)
  handoffs : List Bytes
  tenants : Nat
  epoch : Nat
  deriving DecidableEq, Repr

/-- A restore under way on this member (R336 to R339). DESIGN CHOICE (log 138). -/
structure Restore where
  cmd : Option Nat
  reel : Bytes
  step : Nat
  shard : Bytes
  sameMembers : Bool
  todo : List Nat
  /-- The rank of the accepting member, and the ranks that have reported their last record (R339). DESIGN CHOICE (log 138). -/
  accepting : Nat
  reports : List Nat
  deriving DecidableEq, Repr

/-- Security (R306 to R321). -/
structure SecSt where
  /-- The debug sticky bits (R306). -/
  sticky : BitVec 5
  challenge : Option (BitVec 256)
  jtagRefused : Bool
  /-- What the last JTAG instruction with a result has returned (R308, R373). -/
  jtagOut : List (BitVec 8)
  slots : Tbl KeySlot
  vault : Tbl KeySlot
  vaultJobs : List VaultJob
  releases : List ReleaseKey
  /-- Ephemeral exchanges with members and handoff peers (R315). -/
  exchanges : List (HelloVia × KeyExchange)
  identityFused : Bool
  certFused : Bool
  rootDestroyed : Bool
  /-- All stacked memory has been zeroed (R309). -/
  zeroed : Bool
  deriving DecidableEq, Repr

/-- The group (R287 to R300). -/
structure GroupSt where
  groupId : Nat
  n : Nat
  members : List Nat
  chain : List Nat
  /-- The ranks that each rank's ports lead to (R289). -/
  reach : Tbl (List Nat)
  /-- A join under way: descriptor, command, deadline, JOIN_ACK received, JOIN_TICK and the root's table once proposed. -/
  join : Option Bytes
  joinCmd : Option Nat
  joinUntilUs : Nat
  joinAcks : List Nat
  joinTick : Option Nat
  joinTable : Bytes
  /-- Ticks in a row without STATUS, by rank (R295). -/
  missed : Tbl Nat
  statusSeen : List (Nat × Nat × Nat)
  sentCounts : Tbl Nat
  msgSeq : Tbl Nat
  /-- The MSG_SEQ after the last that was delivered, by sender and class (R277). -/
  gotSeq : Tbl Nat
  /-- A shrink announced: survivors and C; the rank that GROUP_SHRINK names with its command and deadline (R296, R300). -/
  shrink : Option (Word64 × Nat)
  shrinkCmd : Option (Nat × Nat × Nat)
  shrinkUntilUs : Nat
  /-- Sessions whose move has not committed, and model slots whose re-shard has not (R297, R298). -/
  moves : Tbl SessMove
  lostRanks : List (Nat × Nat)
  reshards : List Nat
  /-- This device is removed by GROUP_SHRINK and moves its sessions out before it clears its state (R300). -/
  leaving : Bool
  /-- The device has left its group for want of a quorum or of a tick source: it publishes nothing of its held state (R29, R295). -/
  held : Bool
  /-- Messages that the running commit has delivered: rank and tick (R287). -/
  taken : List (Nat × Nat)
  /-- Spools received in MOVE messages that wait for their session's move (R294, R297). -/
  arrived : Tbl MirrorEntry
  /-- Mirror of the previous rank's spools, and entries staged for this commit (R293). -/
  mirrors : Tbl MirrorEntry
  mirrorStaged : List (UnitKey × MirrorEntry)
  deriving DecidableEq, Repr

/-- Trace, dumps, counters (R347 to R360, R380). -/
structure DbgSt where
  capture : Nat
  spillSat : Bool
  lost : Nat
  winPart : Bool
  winBase : Nat
  cfg : Bytes
  ordinary : List Bytes
  reserved : List Bytes
  /-- Records of each part when the first trigger came (R352). -/
  atTrigger : Nat × Nat
  lostOrd : Nat
  lostRes : Nat
  staged : Option Bytes
  cause : Nat
  missed : Nat
  /-- HANG_DUMP waits for its copy: command, until, where (R358). -/
  dumpCmd : Option (Nat × Nat × Nat)
  units : List Nat
  memory : List Nat
  roving : List Nat
  mailbox : List Nat
  trace : List Nat
  power : List Nat
  deriving DecidableEq, Repr

/-- The energy ledger and the sequencer (R361 to R367, R374 to R379). -/
structure PwrSt where
  tableOver : Bool
  peakTrip : Bool
  vfFault : Bool
  shut : Nat
  point : Nat
  boardW : Nat
  pendingW : Nat
  /-- A waiting BOARD_W that the coming whorl boundary still carries out though a later ENERGY_SET stands in PENDING_W; 0 if none
  (R361). -/
  dueW : Nat
  allow : Nat
  debt : Nat
  lastEw : Nat
  /-- Boundaries in a row with D = 0 (R366), and the step chosen with the boundary tick that carries it out (R367). -/
  zeroRun : Nat
  chosen : Option (Bool × Nat)
  /-- The first whorl whose allowance is not held at 0 by a peak trip (R364). -/
  zeroUntil : Nat
  /-- The whorl whose opening boundary has been settled, the allowance A in force in it (R363), and the tick that the commit
  point of the last ENERGY_SET started (R361). -/
  settled : Nat
  whorlA : Nat
  pendingTick : Nat
  /-- The stored BIST record (R378): RESULT, block and fault entries. -/
  record : Option (Nat × List BistBlock × List BistFault)
  runs : Nat
  recordLifecycle : Nat
  deriving DecidableEq, Repr

/-- Translations (R215 to R220). -/
structure AtsSt where
  /-- Device pages of the two translated windows: stacked memory by number of 2 MiB page, small pages by number of 64 KiB page, which
  is always higher: FRAME, CTL, KEY_GEN (R214, R215). -/
  entries : Tbl (Nat × BitVec 32 × Nat)
  cache : List (HostSpace × Nat × Nat)
  /-- Host pages known not present, and page requests outstanding with their start (R216, R219). -/
  absent : List (HostSpace × Nat)
  requests : List (HostSpace × Nat × Nat)
  /-- What waits for a page outside the unit queues: the load of a mailbox, or, as 64, the first DCI work entry; with the status that
  ended the wait (R217, R219). -/
  waits : Tbl (HostSpace × Nat × Option Status)
  deriving DecidableEq, Repr

/-- The state of the block: what the spec gives it, the queue of commands, and the model's clock and free counter.
DESIGN CHOICE (log 78). -/
structure State where
  pending : List Instr
  timeUs : Nat
  freeCtr : Nat
  glb : Glb
  tk : TickSt
  mbx : Vector Mailbox 64
  dci : Dci
  host0 : HostMem
  host1 : HostMem
  cxl0 : HostMem
  cxl1 : HostMem
  /-- Bytes at device virtual addresses that Flyer descriptors of a DCI work queue have written (R211, R214, R268). -/
  dev : HostMem
  cmds : Tbl PendCmd
  nextCmd : Nat
  /-- The mailbox that Steward has served last (R247). -/
  served : Nat
  work : WorkSt
  img : ImageSt
  ss : SessSt
  kv : KvSt
  ten : TenantSt
  st : StoreSt
  chkpt : Option Checkpoint
  restore : Option Restore
  sec : SecSt
  grp : GroupSt
  ports : Vector Port 20
  inbox : List (Nat × Nat × Instr)
  outbox : List OutMsg
  dbg : DbgSt
  pwr : PwrSt
  ats : AtsSt
  deriving DecidableEq, Repr

/-- A mailbox at reset (R243). DESIGN CHOICE (log 1). -/
def Mailbox.reset : Mailbox :=
  { sqBase := 0, cqBase := 0, shadow := 0, sqLog2 := 0, cqLog2 := 0, enable := false, irqEn := false, wdogEn := false,
    enabled := false, chan := .idle, cfgErr := false, sqErr := false, stopped := false, wdog := false, evtLost := false,
    resetSeen := false, nci := 0, sqTail := 0, cqHead := 0, sqHead := 0, cqTail := 0, wdogMs := 1000, shSqHead := 0, shCqTail := 0, lost := 0,
    debts := 0, gen := 0, shadowDue := false, shadowStamp := 0, wdogFrom := none, wdogFired := false, irq0 := 0, irq1 := 0, delayed := [] }

/-- A port after reset (R271, R276, R282, R285): down, its one gate entry open, its shapers at the full rate.
DESIGN CHOICE (log 1). -/
def Port.reset : Port :=
  { state := .down, version := 0, peerRank := 0xFF, laneMap := 0, retries := 0, peerId := 0, latencyNs := 0,
    fecUncorr := 0, secret := [], salt := [], txPhase := 0, rxPhase := 0, txSeq := 0, rxSeq := 0, txq := [], retryBuf := [], retryUs := none, ackUs := 0, downUs := 0,
    tagFails := 0, credits := List.replicate 8 0, toReturn := List.replicate 8 0, partials := List.replicate 8 [],
    exchange := none, echoes := [], gates := ⟨0, [(0, 0xFF)]⟩, stagedGates := none, gateEntry := 0,
    shapers := List.replicate 7 ⟨200000, 4096, 0, false⟩ }

/-- The map of epoch 0 before any tenant exists (R193). DESIGN CHOICE (log 1). -/
def RouteMap.epoch0 : RouteMap := ⟨0, 0, 0, [], []⟩

/-- The machine right after a cold reset (R9, R371): MODE 0b10 and READY 0 until the boot sequence ends. Values that the
spec does not state are log entries 1 and 2. DESIGN CHOICE (log 1, 2). -/
def State.reset : State :=
  { pending := [], timeUs := 0, freeCtr := 0
    glb := { ready := false, mode := .boot, lifecycle := .field, bistFail := false, rank := 0, inGroup := false,
             dciReq := false, straps := 0, signatureOk := true, bootStage := 0, bootUntilUs := 0, link0 := false,
             link1 := false, thermal := false, restarting := false, stewardUs := 0 }
    tk := { tick := 0, startUs := 0, hiLatch := 0, src := 0, onMarker := false, pinLoss := false, tickFault := false,
            schedMismatch := false, defer := false, rose := false, table := defaultTable 2200, staged := none,
            abandonCnt := 0, abandonSat := false, deferCnt := 0, deferSat := false, missedEdges := 0, missedBeats := 0, goodEdges := 0,
            awaited := false, edgeSeen := false, edgeUs := 0, edgeDue := none, toMarker := false,
            pinDelayNs := 0, pinEdge := none, pinMark := none, pinSamples := [], digests := [], verdictSent := false, verdictBy := none, mute := false, slots := [],
            allowLeft := 0, windowOpen := false, refused := false, noUnits := false }
    mbx := Vector.replicate 64 Mailbox.reset
    dci := { active := false, cause := 0, entering := none, wqErr := false, stopped := false, enable := false, wqLog2 := 0, cqLog2 := 0, wqBase := 0,
             cqBase := 0, wqTail := 0, cqHead := 0, wqHead := 0, cqTail := 0, delayed := [] }
    host0 := [], host1 := [], cxl0 := [], cxl1 := [], dev := [], cmds := [], nextCmd := 0, served := 63
    work := { queue := [], running := [], done := [], inDoubt := [], deferred := [], steward := [], votes := [],
              decisions := [], acks := [], storeCredits := [], tenantTiles := [], again := [], lateReqs := [], lateMade := false, nextSub := 0 }
    img := { models := [], adapters := [], adapterLast := [], adapterCurrent := [], grammars := [], vocabs := [],
             exchanges := [], nextExchange := 0 }
    ss := { sessions := [], gens := [], retired := [], reqs := [], nextReq := 1, copies := [], nextCopy := 0,
            revivals := [], nextRev := 0, rebuilds := [], nextHank := 1, nextHandoff := 1, srcs := [], dsts := [],
            lastMsg := [], claims := [], lateRings := [], freshCopies := [] }
    kv := { pages := [], nodes := [], edges := [], purges := [], nextPurge := 0, freedNow := [] }
    ten := { tenants := [], grants := [], map := RouteMap.epoch0, old := none, next := none }
    st := { stores := [], queries := [], nextQuery := 0, groups := [], nextGroup := 0 }
    chkpt := none, restore := none
    sec := { sticky := 0, challenge := none, jtagRefused := false, jtagOut := [], slots := [], vault := [], vaultJobs := [],
             releases := [], exchanges := [], identityFused := true, certFused := true, rootDestroyed := false, zeroed := false }
    grp := { groupId := 0, n := 1, members := [], chain := [], reach := [], join := none, joinCmd := none, joinUntilUs := 0,
             joinAcks := [], joinTick := none, joinTable := [], missed := [], statusSeen := [], sentCounts := [],
             msgSeq := [], gotSeq := [], shrink := none, shrinkCmd := none, shrinkUntilUs := 0, moves := [], lostRanks := [],
             reshards := [], leaving := false, held := false, taken := [], arrived := [], mirrors := [], mirrorStaged := [] }
    ports := Vector.replicate 20 Port.reset
    inbox := [], outbox := []
    dbg := { capture := 0, spillSat := false, lost := 0, winPart := false, winBase := 0, cfg := [], ordinary := [],
             reserved := [], atTrigger := (0, 0), lostOrd := 0, lostRes := 0, staged := none, cause := 0, missed := 0,
             dumpCmd := none, units := List.replicate 32 0, memory := List.replicate 8 0, roving := List.replicate 4 0,
             mailbox := List.replicate 128 0, trace := List.replicate 6 0, power := List.replicate 8 0 }
    pwr := { tableOver := false, peakTrip := false, vfFault := false, shut := 0, point := 0, boardW := 2200,
             pendingW := 0, dueW := 0, allow := 0, debt := 0, lastEw := 0, zeroRun := 0, chosen := none, zeroUntil := 0, settled := 0, whorlA := 1100000, pendingTick := 0,
             record := none, runs := 0, recordLifecycle := 0 }
    ats := { entries := [], cache := [], absent := [], requests := [], waits := [] } }

end Sys2Proof.Machine
end

