-- ==== Sys2Proof/Machine/Tbl.lean ====
section
/-! DEFINITION. Operations on sparse data: look-up, write and removal that keep the keys strictly ascending, and the
host memories as such data. -/
namespace Sys2Proof.Machine

/-- The entry of a key. -/
def Tb.get (t : Tbl α) (k : Nat) : Option α := t.lookup k

/-- Whether a key is listed. -/
def Tb.has (t : Tbl α) (k : Nat) : Bool := (t.lookup k).isSome

/-- A key's entry written, the keys staying in order. -/
def Tb.set : Tbl α → Nat → α → Tbl α
  | [], k, v => [(k, v)]
  | (j, w) :: t, k, v => if k < j then (k, v) :: (j, w) :: t else if k = j then (k, v) :: t else (j, w) :: Tb.set t k v

/-- A key's entry removed. -/
def Tb.del (t : Tbl α) (k : Nat) : Tbl α := t.filter fun e => e.1 != k

/-- A key's entry changed, if it is listed. -/
def Tb.upd (t : Tbl α) (k : Nat) (f : α → α) : Tbl α := t.map fun e => if e.1 = k then (e.1, f e.2) else e

/-- The lowest key from `n` on that is not listed, at most `fuel` away. -/
def Tb.lowestFree (t : Tbl α) (n : Nat) : Nat → Nat
  | 0 => n
  | fuel + 1 => if Tb.has t n then Tb.lowestFree t (n + 1) fuel else n

/-- The lowest key from `n` on that is not listed. -/
def Tb.free (t : Tbl α) (n : Nat) : Nat := Tb.lowestFree t n (t.length + 1)

/-- The canonical form: keys strictly ascending. An unlisted byte of a host memory has no value (it cannot be read), so
no entry can equal it. -/
def Memory.wf : HostMem → Bool
  | [] => true
  | [_] => true
  | (a, _) :: (b, y) :: t => a < b && Memory.wf ((b, y) :: t)

/-- The byte at an address; none cannot be read (R255 step 7). DESIGN CHOICE (log 5). -/
def Memory.read (m : HostMem) (a : Nat) : Option Byte := Tb.get m a

/-- Bytes from an address on; none if one of them cannot be read. -/
def Memory.readN (m : HostMem) (a : Nat) : Nat → Option Bytes
  | 0 => some []
  | n + 1 => match Memory.read m a, Memory.readN m (a + 1) n with
    | some b, some r => some (b :: r)
    | _, _ => none

/-- Bytes written from an address on, the lowest address first. -/
def Memory.writeN (m : HostMem) (a : Nat) : Bytes → HostMem
  | [] => m
  | b :: r => Memory.writeN (Tb.set m a b) (a + 1) r

end Sys2Proof.Machine
end

