-- ==== Sys2Proof/Machine/Tokenizer.lean ====
section
/-! DEFINITION. The Roving unit: text to tokens (R143, R144), tokens to bytes (R145), stop strings (R159). -/
namespace Sys2Proof.Machine

/-- The length of the well-formed UTF-8 sequence that begins the bytes (RFC 3629), 0 where none does. -/
def utf8Len (bs : Bytes) : Nat :=
  let b (i : Nat) := (bs.getD i 0).toNat
  let c (i : Nat) : Bool := 0x80 ≤ b i && b i ≤ 0xBF
  match bs with
  | [] => 0
  | _ =>
    if b 0 < 0x80 then 1
    else if 0xC2 ≤ b 0 && b 0 ≤ 0xDF && c 1 then 2
    else if 0xE0 ≤ b 0 && b 0 ≤ 0xEF && c 1 && c 2 && (b 0 ≠ 0xE0 || 0xA0 ≤ b 1) && (b 0 ≠ 0xED || b 1 ≤ 0x9F) then 3
    else if 0xF0 ≤ b 0 && b 0 ≤ 0xF4 && c 1 && c 2 && c 3 && (b 0 ≠ 0xF0 || 0x90 ≤ b 1) && (b 0 ≠ 0xF4 || b 1 ≤ 0x8F) then 4
    else 0

/-- The pieces of a text (R143): each with whether it is well-formed text. The state is the piece being built, newest code
point's class, and the pieces done. A byte that begins no well-formed sequence is a piece of its own that no merge acts on. -/
def splitPieces (v : Vocab) : Nat → Bytes → (cur : Bytes) → (cls : Nat) → List (Bool × Bytes)
  | 0, _, cur, _ => if cur.isEmpty then [] else [(true, cur)]
  | fuel + 1, bs, cur, cls =>
    let flush := if cur.isEmpty then [] else [(true, cur)]
    match bs with
    | [] => flush
    | b :: rest =>
      let n := utf8Len bs
      if n = 0 then flush ++ (false, [b]) :: splitPieces v fuel rest [] 0
      else
        let k := v.classes.getD b.toNat 0
        if cur.isEmpty then splitPieces v fuel (bs.drop n) (bs.take n) k
        else if k ≠ cls || cur.length + n > 256 then flush ++ splitPieces v fuel (bs.drop n) (bs.take n) k
        else splitPieces v fuel (bs.drop n) (cur ++ bs.take n) k

/-- The pieces of a whole text. -/
def pieces (v : Vocab) (text : Bytes) : List (Bool × Bytes) := splitPieces v (text.length + 1) text [] 0

/-- The rank and result of the merge of a pair (R142: a merge's rank is its index). -/
def mergeOf (v : Vocab) (a b : Nat) : Option (Nat × Nat) :=
  (v.merges.zipIdx.find? fun (m, _) => m.1 = a && m.2.1 = b).map fun (m, i) => (i, m.2.2)

/-- The adjacent pair of lowest rank, on equal rank the lowest index: (rank, index, result) (R143). -/
def bestMerge (v : Vocab) (sym : List Nat) : Option (Nat × Nat × Nat) :=
  ((sym.zip (sym.drop 1)).zipIdx).foldl (fun best ((a, b), i) =>
    match mergeOf v a b with
    | none => best
    | some (r, t) => match best with
      | some (r0, _, _) => if r < r0 then some (r, i, t) else best
      | none => some (r, i, t)) none

/-- Merging until no pair has a merge (R143); each merge shortens the list. -/
def mergeAll (v : Vocab) : Nat → List Nat → List Nat
  | 0, sym => sym
  | fuel + 1, sym =>
    match bestMerge v sym with
    | none => sym
    | some (_, i, t) => mergeAll v fuel (sym.take i ++ t :: sym.drop (i + 2))

/-- The tokens of one piece (R143). -/
def pieceTokens (v : Vocab) (p : Bool × Bytes) : List Nat :=
  let sym := p.2.map fun b => v.byteBase + b.toNat
  if p.1 then mergeAll v sym.length sym else sym

/-- The tokens of a text (R143). -/
def tokenize (v : Vocab) (text : Bytes) : List Nat := (pieces v text).flatMap (pieceTokens v)

/-- The bytes of whole pieces that one ADMIT unit takes: up to 65,536 (R144). -/
def admitTake (v : Vocab) (text : Bytes) : Nat :=
  ((pieces v text).foldl (fun (st : Nat × Bool) p =>
    if st.2 then st else if st.1 + p.2.length ≤ 65536 then (st.1 + p.2.length, false) else (st.1, true)) (0, false)).1

/-- The byte string of a token (R145). -/
def Vocab.str (v : Vocab) (id : Nat) : Bytes := (v.entries.getD id ⟨true, []⟩).bytes

/-- The end, exclusive, of the first occurrence in `out` of stop string `st` that ends after byte `from_` (R159). -/
def stopEnd (out st : Bytes) (from_ : Nat) : Option Nat :=
  (List.range (out.length + 1)).find? fun e => from_ < e && st.length ≤ e && (sliceAt out (e - st.length) st.length == st)

/-- The earliest end among several stop strings (R159: the one whose last byte comes first wins). -/
def firstStop (out : Bytes) (stops : List Bytes) (from_ : Nat) : Option Nat :=
  (stops.filterMap fun st => stopEnd out st from_).min?

end Sys2Proof.Machine
end

