-- ==== Sys2Proof/Machine/Ops.lean ====
section
/-! DEFINITION. The named operations on the state that every family uses: host memory, mailboxes and completions,
events, trace records, counters, spools, handles, draws of free values. -/
namespace Sys2Proof.Machine

/-- Field of `k` bytes at offset `o` of a command or work entry (R248, R268). -/
def fld (c : Cmd) (o k : Nat) : Nat := c.toNat / 256 ^ o % 256 ^ k

/-- OPCODE, FLAGS and TAG (R248). -/
def Cmd.op (c : Cmd) : Nat := fld c 0 2
def Cmd.fl (c : Cmd) : Nat := fld c 2 2
def Cmd.tg (c : Cmd) : Nat := fld c 4 4

/-- The answer of a command's meaning. -/
abbrev Res := Host.Outcome State Fault Refusal

/-! ### Host memory -/

/-- The memory of an address space outside the device. -/
def State.host (s : State) : HostSpace → HostMem
  | .port0 => s.host0 | .port1 => s.host1 | .cxl0 => s.cxl0 | .cxl1 => s.cxl1

/-- An address space's memory replaced. -/
def State.setHost (s : State) (sp : HostSpace) (m : HostMem) : State :=
  match sp with
  | .port0 => { s with host0 := m } | .port1 => { s with host1 := m }
  | .cxl0 => { s with cxl0 := m } | .cxl1 => { s with cxl1 := m }

/-- CXL.mem is reached only through a port whose strap sets it to CXL mode (R238, R384). -/
def State.reaches (s : State) (sp : HostSpace) : Bool :=
  match sp with
  | .cxl0 => s.glb.straps.getLsbD 4 | .cxl1 => s.glb.straps.getLsbD 5
  | .port0 => true | .port1 => true

/-- Bytes read from a host space; none if one cannot be read. DESIGN CHOICE (log 5). -/
def State.readHost (s : State) (sp : HostSpace) (a n : Nat) : Option Bytes :=
  if s.reaches sp then Memory.readN (s.host sp) a n else none

/-- Bytes written to a host space, where it is reached. -/
def State.writeHost (s : State) (sp : HostSpace) (a : Nat) (bs : Bytes) : State :=
  if s.reaches sp then s.setHost sp (Memory.writeN (s.host sp) a bs) else s

/-- What the host wrote to its own memory at port 0 before a doorbell or a commit window. DESIGN CHOICE (log 19). -/
def State.hostWrites (s : State) (hw : List (Nat × Bytes)) : State :=
  hw.foldl (fun s w => s.writeHost .port0 w.1 w.2) s

/-! ### Free values and time -/

/-- The next free value, and the counter advanced (R310 random values; log entry 4). -/
def State.drawFree (s : State) : BitVec 512 × State := (Config.freeValue s.freeCtr, { s with freeCtr := s.freeCtr + 1 })

/-- Time moved on to at least `t` µs. DESIGN CHOICE (log 3). -/
def State.atTime (s : State) (t : Nat) : State := { s with timeUs := Nat.max s.timeUs t }

/-- The tick length in force (R24). -/
def State.tickUs (s : State) : Nat := s.tk.table.tickUs

/-- The commit stamp tick ‖ seq (R50). -/
def stampOf (tick seq : Nat) : Nat := tick * 65536 + seq

/-- The device runs firmware and serves mailboxes (R242). -/
def State.serving (s : State) : Bool := s.glb.ready && s.glb.mode == .nci

/-- The device runs ticks: NCI mode, also while Steward restarts (R266), or direct host mode (R264). -/
def State.ticking (s : State) : Bool := ((s.glb.ready || s.glb.restarting) && s.glb.mode == .nci) || s.glb.mode == .direct

/-- No firmware runs: direct host mode with cause 1, and the restart that follows it (R264, R266). -/
def State.noFirmware (s : State) : Bool := s.dci.cause = 1 && (s.glb.mode == .direct || s.glb.restarting)

/-- A port that leads to a member of the group, directly or through a switch (R27, R271). -/
def Port.leadsToMember (x : Port) : Bool := (x.state == .up8 || x.state == .up4) && (x.peerRank < 64 || x.peerRank = 0xFE)

/-! ### Counters and trace -/

/-- A counter of a group raised, saturating at 2^63 - 1 (R347). -/
def bumpBy (l : List Nat) (i k : Nat) : List Nat := l.modify i fun c => Nat.min (c + k) (2 ^ 63 - 1)

/-- Counter i of group 1, 3, 4, 5, 6 or 7 raised by k (R348, R380). DESIGN CHOICE (log 61). -/
def State.count (s : State) (group i k : Nat) : State :=
  match group with
  | 1 => { s with dbg.units := bumpBy s.dbg.units i k }
  | 3 => { s with dbg.memory := bumpBy s.dbg.memory i k }
  | 4 => { s with dbg.roving := bumpBy s.dbg.roving i k }
  | 5 => { s with dbg.mailbox := bumpBy s.dbg.mailbox i k }
  | 6 => { s with dbg.trace := bumpBy s.dbg.trace i k }
  | 7 => { s with dbg.power := bumpBy s.dbg.power i k }
  | _ => s

/-- A debug sticky bit set (R306). -/
def State.setSticky (s : State) (i : Nat) : State := { s with sec.sticky := s.sec.sticky ||| BitVec.ofNat 5 (2 ^ i) }

/-- Records that the trace buffer holds (R352). -/
def DbgSt.capacity (d : DbgSt) : Nat := (64 + fieldAt d.cfg 6 2) * 32768
/-- Records of the reserved part, less the slot held for its LOST record. -/
def DbgSt.reservedCap (d : DbgSt) : Nat := d.capacity / 16 - 1
/-- Records of the ordinary part, less the slot held for its LOST record. -/
def DbgSt.ordinaryCap (d : DbgSt) : Nat := d.capacity - d.capacity / 16 - 1

/-- Whether a record is kept under SOURCE_MASK and CODE_MASK (R351). -/
def DbgSt.keeps (d : DbgSt) (code source flags : Nat) : Bool :=
  flags % 2 = 1 || code ≤ 3 ||
    ((fieldAt d.cfg 12 4).testBit source && 16 ≤ code && code < 16 + 1024 && (fieldAt d.cfg 16 8).testBit ((code - 16) / 16))

/-- The 32 bytes of a trace record (R349). -/
def traceBytes (tick code cycle source flags : Nat) (data : Bytes) : Bytes :=
  toLE 6 tick ++ toLE 2 code ++ toLE 4 cycle ++ toLE 1 source ++ toLE 1 flags ++ zeros 2 ++ fitTo 16 data

/-- A lost record (R352): DBG_LOST and counter 2 of group 6 count it, and its part's LOST count. -/
def State.traceLost (s : State) (reserved : Bool) : State :=
  let d := s.dbg
  { s with dbg := { d with
      lost := Nat.min (d.lost + 1) 0xFFFFFFFF
      lostOrd := if reserved then d.lostOrd else Nat.min (d.lostOrd + 1) 0xFFFFFFFF
      lostRes := if reserved then Nat.min (d.lostRes + 1) 0xFFFFFFFF else d.lostRes
      trace := bumpBy d.trace 2 1 } }

/-- A record put into its part while capture is in PRE: the oldest is overwritten when the part is full (R352). -/
def DbgSt.putPre (d : DbgSt) (reserved : Bool) (r : Bytes) : DbgSt :=
  let part := if reserved then d.reserved else d.ordinary
  let full := decide ((if reserved then d.reservedCap else d.ordinaryCap) ≤ part.length)
  let part := (if full then part.drop 1 else part) ++ [r]
  let d := { d with trace := bumpBy (if full then bumpBy d.trace 1 1 else d.trace) 0 1 }
  if reserved then { d with reserved := part } else { d with ordinary := part }

/-- The first trigger (R352, R353): POST is entered, and the ordinary part keeps its newest PRE_16THS/16. -/
def DbgSt.enterPost (d : DbgSt) : DbgSt :=
  let keep := d.ordinaryCap * fieldAt d.cfg 9 1 / 16
  let ord := d.ordinary.drop (d.ordinary.length - keep)
  { d with capture := 2, ordinary := ord, atTrigger := (ord.length, d.reserved.length) }

/-- A record in POST (R352): the ordinary part fills; the reserved part fills and then overwrites what predates the
trigger; a part that can do neither is frozen and the record is lost. -/
def State.tracePost (s : State) (reserved : Bool) (r : Bytes) : State :=
  let d := s.dbg
  if reserved then
    if d.reserved.length < d.reservedCap then
      { s with dbg := { d with reserved := d.reserved ++ [r], trace := bumpBy d.trace 0 1 } }
    else if 0 < d.atTrigger.2 then
      { s with dbg := { d with reserved := d.reserved.drop 1 ++ [r], trace := bumpBy d.trace 0 1,
                               atTrigger := (d.atTrigger.1, d.atTrigger.2 - 1) } }
    else s.traceLost true
  else if d.ordinary.length < d.ordinaryCap then
    { s with dbg := { d with ordinary := d.ordinary ++ [r], trace := bumpBy d.trace 0 1 } }
  else s.traceLost false

/-- Both parts are full and nothing predates the trigger: FROZEN (R352). -/
def DbgSt.freeze (d : DbgSt) : DbgSt :=
  if d.capture = 2 ∧ d.ordinaryCap ≤ d.ordinary.length ∧ d.reservedCap ≤ d.reserved.length ∧ d.atTrigger.2 = 0 then
    { d with capture := 3 } else d

/-- One trace record put into the buffer, as the capture state has it (R352). -/
def State.tracePut (s : State) (reserved : Bool) (r : Bytes) : State :=
  match s.dbg.capture with
  | 0 => s
  | 1 => { s with dbg := s.dbg.putPre reserved r }
  | 2 => let s := s.tracePost reserved r; { s with dbg := s.dbg.freeze }
  | _ => s.traceLost reserved

/-- The trace cycle within the tick (R355): 1 GHz. -/
def State.cycle (s : State) : Nat := (s.timeUs - s.tk.startUs) * 1000

/-- A TRIGGER record with its cause and code (R350, R353). In PRE it starts POST. -/
def State.trigger (s : State) (source cause code : Nat) : State :=
  if s.dbg.capture = 0 then s else
  let r := traceBytes s.tk.tick 2 s.cycle source 2 (toLE 1 cause ++ toLE 4 code)
  let first := decide (s.dbg.capture = 1)
  let s := if s.dbg.capture = 3 then s else s.count 6 3 1
  let s := if first then { s with dbg := s.dbg.enterPost } else s
  s.tracePut true r

/-- A trace record of the device (R349, R350). An ERROR record that ERR_TRIG selects is a trigger too (R353). -/
def State.traceRec (s : State) (code source : Nat) (data : Bytes) : State :=
  let err := decide (0x8000 ≤ code)
  let flags := if err then 1 else 0
  if s.dbg.capture = 0 || !s.dbg.keeps code source flags then s else
  let s := s.tracePut err (traceBytes s.tk.tick code s.cycle source flags data)
  if err && (fieldAt s.dbg.cfg 24 8).testBit (code - 0x8000) then s.trigger source 2 code else s

/-! ### Mailboxes, completions, events -/

/-- One mailbox changed. -/
def State.updMbx (s : State) (m : Fin 64) (f : Mailbox → Mailbox) : State := { s with mbx := s.mbx.set m (f s.mbx[m]) }

/-- Mailbox by number. -/
def mboxFin (m : Nat) : Fin 64 := Fin.ofNat 64 m

/-- Entries of the submission ring and of the completion queue (R243). -/
def Mailbox.sqSize (b : Mailbox) : Nat := 2 ^ b.sqLog2.toNat
def Mailbox.cqSize (b : Mailbox) : Nat := 2 ^ b.cqLog2.toNat

/-- Free entries of the completion queue: one entry stays unused (R244). -/
def Mailbox.cqFree (b : Mailbox) : Nat := b.cqSize - 1 - (b.cqTail + b.cqSize - b.cqHead) % b.cqSize

/-- The 32 bytes of a completion (R249). -/
def Completion.encode (c : Completion) (stamp : Nat) : Bytes :=
  toLE 4 c.tag ++ toLE 2 c.opcode ++ toLE 1 c.status.code ++ toLE 1 c.kind ++ toLE 8 stamp ++ fitTo 16 c.result

/-- Whether the page of 64 KiB that holds an address is known not present (R216, R220). -/
def State.hostAbsent (s : State) (sp : HostSpace) (a : Nat) : Bool := s.ats.absent.contains (sp, a / 65536)

/-- A page of a host's memory that holds a byte of a range is known not present (R216). -/
def State.rangeAbsent (s : State) (sp : HostSpace) (a n : Nat) : Bool :=
  s.ats.absent.any fun p => p.1 = sp && a / 65536 ≤ p.2 && p.2 ≤ (a + n - 1) / 65536

/-- The first page known not present in a range of a host's memory. -/
def State.absentPage (s : State) (sp : HostSpace) (a n : Nat) : Option Nat :=
  (s.ats.absent.find? fun p => p.1 = sp && a / 65536 ≤ p.2 && p.2 ≤ (a + n - 1) / 65536).map (·.2)

/-- A page request goes out, unless one is under way (R216). -/
def State.askPage (s : State) (sp : HostSpace) (page : Nat) : State :=
  if s.ats.requests.any fun r => r.1 = sp && r.2.1 = page then s
  else { s with ats.requests := s.ats.requests ++ [(sp, page, s.timeUs)] }.count 3 6 1

/-- A load or a work entry waits for a page that is not present, or for its translation (R216, R217). -/
def State.waitOn (s : State) (w : Nat) (sp : HostSpace) (page : Nat) : State :=
  if (Tb.get s.ats.waits w) = some (sp, page, none) then s
  else { (if s.ats.absent.contains (sp, page) then s.askPage sp page else s) with ats.waits := Tb.set s.ats.waits w (sp, page, none) }

/-- The status with which a wait has failed (R219). -/
def State.waitFailed (s : State) (w : Nat) : Option Status := (Tb.get s.ats.waits w).bind (·.2.2)

/-- The wait is over. -/
def State.waitOver (s : State) (w : Nat) : State := { s with ats.waits := Tb.del s.ats.waits w }

/-- A completion written at the tail of a mailbox's queue (R245, R249). -/
def State.writeCq (s : State) (m : Fin 64) (stamp : Nat) (c : Completion) : State :=
  let b := s.mbx[m]
  let s := s.writeHost .port0 (b.cqBase.toNat + 32 * b.cqTail) (c.encode stamp)
  s.updMbx m fun b => { b with cqTail := (b.cqTail + 1) % b.cqSize, shadowDue := true, shadowStamp := stamp }

/-- The queue waits for its translation: some page of it has none (R220). -/
def State.cqWaits (s : State) (m : Fin 64) : Bool :=
  let b := s.mbx[m]
  !b.delayed.isEmpty || s.rangeAbsent .port0 b.cqBase.toNat (32 * b.cqSize)

/-- A completion published on a mailbox, or kept for the queue's translation, whose delay writes one error record (R220). -/
def State.postTo (s : State) (m : Fin 64) (stamp : Nat) (c : Completion) : State :=
  let b := s.mbx[m]
  if s.cqWaits m then
    let first := b.delayed.isEmpty
    let s := s.updMbx m fun b => { b with delayed := b.delayed ++ [(stamp, c)] }
    if first then (s.count 3 7 1).traceRec 0x8002 19 (toLE 1 m.val ++ zeros 7) else s
  else s.writeCq m stamp c

/-- Entries of the queue spoken for: the completions owed, and the events that wait for its translation (R220, R246). -/
def Mailbox.reserved (b : Mailbox) : Nat := b.debts + b.delayed.countP fun c => c.2.kind = 2

/-- A completion that was owed to enable `gen` of a mailbox: its debt ends with its writing; if the mailbox was reset since, it
is discarded (R241, R246). -/
def State.postOwed (s : State) (m gen stamp : Nat) (c : Completion) : State :=
  let m := mboxFin m
  if (s.mbx[m]).gen = gen then
    let waits := s.cqWaits m
    (s.postTo m stamp c).updMbx m fun b => { b with debts := if waits then b.debts else b.debts - 1 }
  else s

/-- An event on mailbox 0 (R246, R251): lost if the mailbox is not enabled or has no free entry beyond the debts. -/
def State.postEvent (s : State) (stamp code : Nat) (res : Bytes) : State :=
  let b := s.mbx[(0 : Fin 64)]
  if b.enabled && b.reserved < b.cqFree then s.postTo 0 stamp ⟨0, code, .ok, 2, res⟩
  else s.updMbx 0 fun b =>
    { b with lost := Nat.min (b.lost + 1) 0xFFFFFFFF, evtLost := true, shadowDue := true,
             irq1 := if b.evtLost then b.irq1 else b.irq1 + 1 }

/-- An accepted command's completion published and the command forgotten (R247). -/
def State.finishCmd (s : State) (id stamp : Nat) (st : Status) (res : Bytes) : State :=
  match Tb.get s.cmds id with
  | none => s
  | some c =>
    let s := { s with cmds := Tb.del s.cmds id }
    s.postOwed c.mbox c.gen stamp ⟨c.tag, c.opcode, st, 0, res⟩

/-! ### Sessions and spools -/

/-- The handle of an index and generation (R167). -/
def handleOf (idx gen : Nat) : Nat := idx + gen * 2 ^ 24

/-- The session that a handle names, if its generation is current (R167). -/
def State.sessOf (s : State) (h : Nat) : Option (Nat × Session) :=
  match Tb.get s.ss.sessions (h % 2 ^ 24) with
  | some x => if x.gen = h / 2 ^ 24 && x.state != .free then some (h % 2 ^ 24, x) else none
  | none => none

/-- One session changed. -/
def State.updSess (s : State) (idx : Nat) (f : Session → Session) : State :=
  { s with ss.sessions := Tb.upd s.ss.sessions idx f }

/-- One request changed. -/
def State.updReq (s : State) (r : Nat) (f : Req → Req) : State := { s with ss.reqs := Tb.upd s.ss.reqs r f }

/-- This device samples the session (R104). DESIGN CHOICE (log 20). -/
def State.samples (s : State) (idx : Nat) : Bool := idx % Nat.max s.grp.n 1 = s.glb.rank

/-- A spool entry as it stands in the spool (R173): header, payload, zeros to a multiple of 16. -/
def spoolEntry (ty flags seq stamp : Nat) (payload : Bytes) : Bytes :=
  let size := ceilDiv (16 + payload.length) 16
  fitTo (16 * size) (toLE 1 ty ++ toLE 1 flags ++ toLE 2 size ++ toLE 4 seq ++ toLE 8 stamp ++ payload)

/-- The entry appended to a session's spool: SEQ, chain digest, segment (R173, R175). -/
def Session.appendSpool (x : Session) (ty flags stamp : Nat) (payload : Bytes) : Session :=
  let e := spoolEntry ty flags x.spoolSeq stamp payload
  let opens := x.segments = 0 || 65536 < x.segFill + e.length
  { x with spool := x.spool ++ [e], spoolSeq := x.spoolSeq + 1, spoolLen := x.spoolLen + e.length, spoolDigest := Sha.sha384 (digestBytes x.spoolDigest ++ e),
           segments := if opens then x.segments + 1 else x.segments,
           segFill := if opens then e.length else x.segFill + e.length, lastCommit := stamp }

/-- A spool entry written at a commit; a segment it opens is drawn from the live request's reservation (R175). -/
def State.appendSpool (s : State) (idx ty flags stamp : Nat) (payload : Bytes) : State :=
  match Tb.get s.ss.sessions idx with
  | none => s
  | some x =>
    let y := x.appendSpool ty flags stamp payload
    let s := { s with ss.sessions := Tb.set s.ss.sessions idx y }
    if y.segments > x.segments then s.updReq x.reqId fun r => { r with resSpool := r.resSpool - 65536 } else s

/-- The mailbox that the map in force routes a tenant to (R193, R197). -/
def State.routeOf (s : State) (tenant : Nat) : Option Nat := (Tb.get s.ten.map.tenants tenant).map (·.mailbox)

/-! ### Twine messages -/

/-- The direct port to a destination, if one is up (R277, R280). -/
def State.portTo (s : State) (dst : MsgDst) : Option (Fin 20) :=
  (List.finRange 20).find? fun p =>
    let x := s.ports[p]
    match dst with
    | .rank r => (x.state == .up8 || x.state == .up4) && x.peerRank = r
    | .device d => (x.state == .up8 || x.state == .up4) && x.peerId = d
    | .port q => p.val = q

/-- The port on which traffic to a destination leaves (R280): the direct port, or the port to the relay of lowest rank. -/
def State.pathTo (s : State) (dst : MsgDst) : Option (Fin 20) :=
  match s.portTo dst, dst with
  | some p, _ => some p
  | none, .rank r => ((List.range s.grp.n).filter fun m => ((Tb.get s.grp.reach m).getD []).contains r).findSome? fun m => s.portTo (.rank m)
  | none, _ => none

/-- The phase key of a port's direction (R316): 0 for flits sent by the lower DEVICE_ID. -/
def Port.phaseKey (p : Port) (sent : Bool) (phase : Nat) : Bytes :=
  let d := if (Config.deviceId.toNat < p.peerId) == sent then 0 else 1
  Sha.hkdfExpand p.secret (label "E9 PHASE" ++ toLE 1 d ++ toLE 4 phase) 32

/-- Flits of a message that may leave a port now (R275, R276, R281). -/
def Port.sendable (x : Port) (m : TxMsg) : Nat :=
  let n := m.flits.length - m.done
  let shut := m.tc ≠ 7 && !((x.gates.entries[x.gateEntry]?).map fun e => e.2.getLsbD m.tc).getD true
  let shaped := if m.tc = 7 then n else ((x.shapers[m.tc]?).map fun h => h.bucket / 256).getD 0
  let credit := if m.free then n else x.credits.getD m.tc 0
  if shut then 0 else Nat.min n (Nat.min shaped (Nat.min credit (2048 - x.retryBuf.length)))

/-- The class whose credits the next flit returns, the lowest that has any, and how many (R273, R276). -/
def Port.creditsDue (x : Port) : Nat × Nat :=
  match (List.range 8).find? fun c => 0 < x.toReturn.getD c 0 with
  | some c => (c, Nat.min 255 (x.toReturn.getD c 0))
  | none => (0, 0)

/-- A flit as it goes over the link (R273, R274): header, ciphertext, tag. A port in KEYING works under the all-zero key (R315). -/
def Port.sealFlit (x : Port) (f : FlitBody) : Bytes :=
  let cr := x.creditsDue
  let head := toLE 1 f.kind ++ toLE 1 (f.ctl + 32 * (x.txPhase % 2)) ++ toLE 2 x.txSeq ++ toLE 2 (x.rxSeq + 65535) ++ toLE 1 cr.1 ++
    toLE 1 cr.2 ++ toLE 1 f.dst ++ toLE 1 f.src ++ toLE 2 f.payload.length ++ zeros 4
  let key := if x.state == .keying then zeros 32 else x.phaseKey true x.txPhase
  let salt := if x.state == .keying then zeros 4 else x.salt
  let r := Aes.gcmEncrypt key (salt ++ toLE 8 x.txSeq) head (fitTo 224 f.payload)
  head ++ r.1 ++ r.2

/-- One flit leaves: it is kept until an ACK covers it (R275), it returns credits (R276), and its own are charged. -/
def Port.putFlit (m : TxMsg) (x : Port) (f : FlitBody) : Port :=
  let cr := x.creditsDue
  { x with txSeq := x.txSeq + 1, retryBuf := x.retryBuf ++ [⟨x.txSeq, x.sealFlit f, 0, m.restart⟩]
           toReturn := x.toReturn.modify cr.1 (· - cr.2)
           credits := if m.free then x.credits else x.credits.modify m.tc (· - 1)
           shapers := if m.tc = 7 then x.shapers else x.shapers.modify m.tc fun h => { h with bucket := h.bucket - 256 } }

/-- The next k flits of a message leave. -/
def Port.put (x : Port) (m : TxMsg) (k : Nat) : Port := ((m.flits.drop m.done).take k).foldl (Port.putFlit m) x

/-- The sending of one class under way: the port, what stays queued, whether the class is held up, TW_SEND data written. -/
structure Draining where
  port : Port
  left : List TxMsg
  stop : Bool
  notes : List Bytes

/-- One queued message in the sending of class `tc`: the flits of a class leave in order (R277). -/
def Draining.one (tc : Nat) (a : Draining) (m : TxMsg) : Draining :=
  if m.tc ≠ tc || a.stop then { a with left := a.left ++ [m] } else
  let k := a.port.sendable m
  let x := a.port.put m k
  let notes := a.notes ++ (if k = 0 then [] else m.note.toList)
  if m.done + k = m.flits.length then { a with port := x, notes := notes }
  else ⟨x, a.left ++ [{ m with done := m.done + k, note := if k = 0 then m.note else none }], true, notes⟩

/-- What a port can send at once, the highest class first (R281), and the TW_SEND data of it. -/
def Port.drain (x : Port) : Port × List Bytes :=
  let a := [7, 6, 5, 4, 3, 2, 1, 0].foldl (fun (a : Draining) tc =>
    let b : Draining := a.port.txq.foldl (Draining.one tc) (⟨a.port, [], false, a.notes⟩ : Draining)
    ({ b with port := { b.port with txq := b.left } } : Draining)) ⟨x, [], false, []⟩
  (a.port, a.notes)

/-- A port sends what it can. The IDLE flits that went before take numbers of the sequence too; how many is a free value, since
the model has no flit clock. DESIGN CHOICE (log 81). -/
def State.drainPort (s : State) (p : Fin 20) : State :=
  let x := s.ports[p]
  if x.state == .down || x.state == .training || (x.drain).1.txq == x.txq then s else
  let d := s.drawFree
  let r := ({ x with txSeq := x.txSeq + d.1.toNat % 2 ^ 31, ackUs := if x.retryBuf.isEmpty then s.timeUs else x.ackUs } : Port).drain
  r.2.foldl (fun s b => s.traceRec 0x0020 20 b) { d.2 with ports := d.2.ports.set p r.1 }

/-- Flits queued on a port, and what it can send of its queue. -/
def State.queueFlits (s : State) (p : Fin 20) (m : TxMsg) : State :=
  let x := s.ports[p]
  { s with ports := s.ports.set p { x with
      txq := x.txq ++ [m], shapers := x.shapers.modify m.tc fun h => { h with busy := true } } }.drainPort p

/-- The body bytes of a message (R35, R188, R278, R287, R315); where the spec gives them no layout they are a free value.
DESIGN CHOICE (log 45). -/
def State.bodyOf (s : State) (b : MsgBody) : Bytes × State :=
  match b with
  | .hello d => (d, s) | .handoff d => (d, s)
  | .status t cs => (toLE 8 t ++ cs.flatMap (toLE 4), s)
  | .tableDigest i d => (toLE 4 i ++ digestBytes d, s)
  | _ => let d := s.drawFree
    ((List.range (d.1.toNat % 2097153)).map (Config.messageByte s.freeCtr), d.2)

/-- DATA flits of a message's bytes (R273, R277): at most 224 in each, FIRST and LAST marked. -/
def cutFlits (tc dst src : Nat) (b : Bytes) : List FlitBody :=
  let n := ceilDiv b.length 224
  (List.range n).map fun i => ⟨1, tc + (if i = 0 then 8 else 0) + (if i + 1 = n then 16 else 0), dst, src, sliceAt b (224 * i) 224⟩

/-- The flits of what is sent (R273, R277): a marker or a control flit alone, or a message behind its header.
DESIGN CHOICE (log 45). -/
def State.flitsOf (s : State) (dst stamp n : Nat) (b : MsgBody) : List FlitBody × State :=
  let src := if s.glb.inGroup then s.glb.rank else 0xFF
  let one (kind : Nat) (p : Bytes) : List FlitBody × State := ([⟨kind, 7, dst, src, p⟩], s)
  match b with
  | .marker t r => one 2 (toLE 8 t ++ toLE 1 r)
  | .retry q => one 3 (fitTo 16 (toLE 1 1 ++ toLE 2 q))
  | .echo ns => one 3 (fitTo 16 (toLE 1 2 ++ toLE 8 ns))
  | .echoReply ns => one 3 (fitTo 16 (toLE 1 3 ++ toLE 8 ns))
  | b =>
    let d := s.bodyOf b
    let head := toLE 2 b.mtype ++ zeros 2 ++ toLE 4 d.1.length ++ toLE 8 stamp ++ toLE 6 s.tk.tick ++ zeros 2 ++ toLE 4 s.cycle ++ toLE 4 n
    (cutFlits b.tc dst src (head ++ d.1), d.2)

/-- A message goes out on the port that leads to its destination; the first flit of a committed one, or of a HELLO, writes
TW_SEND (R350). DESIGN CHOICE (log 46). -/
def State.transmit (s : State) (dst : MsgDst) (stamp n : Nat) (b : MsgBody) : State :=
  match s.pathTo dst with
  | none => s
  | some p =>
    let to_ : Nat := match dst with | .rank r => r | _ => 0xFF
    let f : List FlitBody × State := s.flitsOf to_ stamp n b
    let note : Bytes := toLE 1 p.val ++ toLE 1 to_ ++ toLE 2 b.mtype ++ toLE 4 n
    let free : Bool := match b with | .retry _ => true | .echo _ => true | .echoReply _ => true | _ => false
    f.2.queueFlits p { tc := b.tc, free := free, dst := to_, flits := f.1, done := 0, note := if stamp ≠ 0 || b.mtype = 1 then some note else none }

/-- A message sent: it joins the outbox, its MSG_SEQ counts for its destination and class (R277), and its flits wait for the port.
A message that the version of the direct port lacks is not sent (R279). -/
def State.sendMsg (s : State) (dst : MsgDst) (stamp : Nat) (b : MsgBody) : State :=
  let lacks := match s.portTo dst with
    | some p => s.ports[p].version ≠ 0 && s.ports[p].version < b.since
    | none => false
  if lacks then s else
  let k := 8 * (match dst with | .rank r => r | .device _ => 64 | .port p => 65 + p) + b.tc
  let n := (Tb.get s.grp.msgSeq k).getD 0
  let m : OutMsg := ⟨dst, stamp, s.tk.tick, n, b⟩
  let q : State := { s with outbox := s.outbox ++ [m], grp.msgSeq := Tb.set s.grp.msgSeq k (n + 1) }
  let s := q.transmit dst stamp n b
  match dst, stamp with
  | .rank r, _ + 1 => { s with grp.sentCounts := Tb.set s.grp.sentCounts r ((Tb.get s.grp.sentCounts r).getD 0 + 1) }
  | _, _ => s

/-- The same message to every other member of the group. -/
def State.sendAll (s : State) (stamp : Nat) (b : MsgBody) : State :=
  ((List.range s.grp.n).filter (· ≠ s.glb.rank)).foldl (fun s r => s.sendMsg (.rank r) stamp b) s

/-! ### Steward's staging -/

/-- A request with the mark of a CANCEL accepted in a tick; the first one counts. DEDUCED (log 59). -/
def Req.marked (q : Req) (tick : Nat) (discard : Bool) : Req := if q.cancel.isSome then q else { q with cancel := some (tick, discard) }

/-- A STALL_FREE entry of the request is staged in this tick: its hold has ended (R153). -/
def State.holdEnded (s : State) (r : Nat) : Bool :=
  s.work.steward.any fun i => i.effs.any fun e => match e with | .spool _ 0x09 _ p => p = toLE 4 r | _ => false


/-- A Steward command's effects staged for the commit point (R45, R247). DEDUCED (log 13). -/
def State.stage (s : State) (effs : List Effect) (session : Option Nat := none) : State :=
  { s with work.steward := s.work.steward ++ [⟨none, 16, session, effs⟩] }

end Sys2Proof.Machine
end

