-- ==== Sys2Proof/Machine/Retrieval.lean ====
section
/-! DEFINITION. Retrieval stores as data: shards, liveness, distances and ranking (R221 to R230). -/
namespace Sys2Proof.Machine

/-! ### Shards and liveness -/

/-- The ranks of a SHARDS mask, lowest first (R221). -/
def maskRanks (m : Word64) : List Nat := (List.range 64).filter fun i => m.getLsbD i

/-- The rank that holds an item (R223). -/
def Store.homeOf (st : Store) (item : Nat) : Option Nat :=
  let rs := maskRanks st.shards
  rs[item % Nat.max 1 rs.length]?

/-- The side entries of a sequence range that name an item, oldest first. -/
def Store.history (st : Store) (item lo hi : Nat) : List SideEntry :=
  st.side.filter fun e => e.item = item && lo < e.seq && e.seq ≤ hi

/-- An item is live at sequence q (R226), seen from the newest main list that contains no later sequence. -/
def Store.live (st : Store) (item q : Nat) : Bool :=
  match st.mains.find? fun ml => ml.cseq ≤ q with
  | none => false
  | some ml => match (st.history item ml.cseq q).getLast? with
    | some e => !e.tomb
    | none => ml.items.any fun i => i.1 = item

/-- The items live at a sequence with their codes, in ascending ID (R228). -/
def Store.liveItems (st : Store) (q : Nat) : List (Nat × Bytes) :=
  match st.mains.find? fun ml => ml.cseq ≤ q with
  | none => []
  | some ml =>
    let t : Tbl Bytes := (st.side.filter fun e => ml.cseq < e.seq && e.seq ≤ q).foldl
      (fun t e => if e.tomb then Tb.del t e.item else Tb.set t e.item e.code) ml.items
    t

/-- Bytes of a side entry (R224). -/
def Store.sideLen (st : Store) : Nat := roundUp (16 + st.m) 16

/-- The part of a list of items that a rank holds (R223). -/
def Store.itemsAt (st : Store) (rank : Nat) (l : List (Nat × Bytes)) : List (Nat × Bytes) :=
  l.filter fun i => st.homeOf i.1 = some rank

/-- The side entries that a rank holds. -/
def Store.sideAt (st : Store) (rank : Nat) : List SideEntry := st.side.filter fun e => st.homeOf e.item = some rank

/-- The charge of a store on a rank with `queries` running queries (R236), a COMPACT's list counted as reserved (R228). -/
def Store.charge (st : Store) (rank queries : Nat) : Nat :=
  let pages (b : Nat) := roundUp b 2097152
  let list (n : Nat) := pages (n * (st.m + 8))
  if !st.shards.getLsbD rank then 0 else
  pages (512 * st.d) + (st.mains.map fun ml => list (st.itemsAt rank ml.items).length).sum +
    pages ((st.sideAt rank).length * st.sideLen) + pages (queries * (16384 + 64)) +
    (match st.compact with | some c => list (st.itemsAt rank (st.liveItems c.1)).length | none => 0)

/-! ### Distances (R229, R230) -/

/-- A codebook value (R222), BF16 as FP32. -/
def Store.centroid (st : Store) (m j d : Nat) : F32 :=
  Era.to32 (Era.valBF16 (fieldAt st.codebook (((m * 256 + j) * (st.d / st.m) + d) * 2) 2))

/-- An entry of the distance table (R229). -/
def Store.tableEntry (st : Store) (q : List F32) (m j : Nat) : F32 :=
  let ds := st.d / st.m
  let terms := (List.range ds).map fun d =>
    let x := q.getD (m * ds + d) 0
    let c := st.centroid m j d
    if st.metric = 0 then let f := Era.sub x c; Era.product (Era.val32 f) (Era.val32 f)
    else Era.product (Era.val32 x) (Era.val32 c)
  let t := Era.treeSum terms
  if st.metric = 0 then t else Era.neg32 t

/-- The distance of an item's code (R230). -/
def Store.distance (st : Store) (q : List F32) (code : Bytes) : F32 :=
  Era.treeSum ((List.range st.m).map fun m => st.tableEntry q m (code.getD m 0).toNat)

/-- The ranking of R230: ascending distance, a NaN last, ties by ITEM_ID. -/
def Hit.before (a b : Hit) : Bool :=
  match Era.isNaN a.dist, Era.isNaN b.dist with
  | true, true => a.item ≤ b.item
  | true, false => false
  | false, true => true
  | false, false => Era.lt a.dist b.dist || (!Era.lt b.dist a.dist && a.item ≤ b.item)

/-- The first k of two lists of candidates (R230). -/
def mergeHits (k : Nat) (a b : List Hit) : List Hit := ((a ++ b).mergeSort Hit.before).take k

/-! ### Passes (R232, R233) -/

/-- Bytes that one pass reads on a Spindle (R233). -/
def passBytes : Nat := 33554432

/-- What a Spindle reads of a shard for a version and a sequence limit, in order: the byte at which each entry ends, its
ID, whether it is of the side list, its sequence, its code. -/
def Store.spindleRun (st : Store) (ml : MainList) (rank hi s : Nat) : List (Nat × Nat × Option Nat × Bytes) :=
  let mine := st.itemsAt rank ml.items
  let n := mine.length
  let run := (mine.take ((s + 1) * n / 12)).drop (s * n / 12)
  let side := (st.sideAt rank).filter fun e => e.seq % 12 = s && ml.cseq < e.seq && e.seq ≤ hi
  run.zipIdx.map (fun (i, k) => ((k + 1) * st.m, i.1, none, i.2)) ++
    side.zipIdx.map (fun (e, k) => (run.length * st.m + (k + 1) * st.sideLen, e.item, some e.seq, e.code))

/-- The pass count of a group (R233), at least one. -/
def Store.passCount (st : Store) (ml : MainList) (rank hi : Nat) : Nat :=
  (List.range 12).foldl (fun a s =>
    Nat.max a (ceilDiv (((st.spindleRun ml rank hi s).getLast?.map (·.1)).getD 0) passBytes)) 1

/-- An entry that a pass reads is visible at SNAP (R227). -/
def Store.visible (st : Store) (ml : MainList) (snap item : Nat) (seq : Option Nat) : Bool :=
  match seq with
  | none => !(st.history item ml.cseq snap).any (·.tomb)
  | some q => q ≤ snap && !(st.side.any fun e => e.item = item && e.seq = q && e.tomb) &&
      !(st.history item q snap).any (·.tomb)

/-- The candidates of one pass for a query (R233): the entries whose last byte the pass reads. -/
def Store.passHits (st : Store) (ml : MainList) (rank hi p : Nat) (q : Query) : List Hit :=
  (List.range 12).flatMap fun s => (st.spindleRun ml rank hi s).filterMap fun (e, item, seq, code) =>
    if (e - 1) / passBytes = p && st.visible ml q.snap item seq
    then some ⟨st.distance q.vec code, item, seq.isSome⟩ else none

/-- A result record (R235). -/
def Hit.encode (h : Hit) : Bytes := toLE 8 h.item ++ toLE 4 h.dist.toNat ++ toLE 1 (if h.side then 1 else 0) ++ zeros 3

end Sys2Proof.Machine
end

