-- ==== Sys2Proof/Machine/Kv.lean ====
section
/-! DEFINITION. KV pages: placement, reference counts, copy-on-write, trimming, removal, format (R105, R112 to R122,
R130 to R132), and what a tenant's stacked memory is charged (R205, R206). -/
namespace Sys2Proof.Machine

/-! ### Sizes and places -/

/-- Bytes of a part (R114), in whole granules. -/
def partGranules (psize dim : Nat) (condensed : Bool) : Nat :=
  ceilDiv (if condensed then 256 + 17 * psize * dim / 16 else 256 + 2 * psize * dim) 128

/-- Bytes of a page record (R117). -/
def recordBytes (kvHeads : Nat) : Nat := roundUp (32 + 4 * kvHeads) 32

/-- The Spindle, counted over the group, of head h of layer l at a page index (R105). -/
def spindleOf (n kvHeads psize l h i : Nat) : Nat := (l * kvHeads + h + i * psize / 512 * kvHeads) % (12 * Nat.max n 1)

/-- The model's architecture by digest, if it is in a slot. -/
def State.modelOf (s : State) (d : Digest) : Option (Nat × Model) := s.img.models.find? fun e => e.2.digest = d

/-- Heads of the parts of a page that lie on this device. -/
def State.localHeads (s : State) (kvHeads psize l i : Nat) : List Nat :=
  (List.range kvHeads).filter fun h => spindleOf s.grp.n kvHeads psize l h i / 12 = s.glb.rank

/-- The device that holds part 0 (R117). -/
def State.homeOf (s : State) (kvHeads psize l i : Nat) : Nat := spindleOf s.grp.n kvHeads psize l 0 i / 12

/-- Bytes charged on this device for one page (R205). -/
def State.pageCharge (s : State) (kvHeads psize dim l i : Nat) (condensed : Bool) : Nat :=
  (s.localHeads kvHeads psize l i).length * partGranules psize dim condensed * 128 +
    (if s.homeOf kvHeads psize l i = s.glb.rank then recordBytes kvHeads else 0)

/-- Bytes charged for a page that is held. -/
def State.heldCharge (s : State) (p : Page) : Nat :=
  s.pageCharge p.data.heads.length p.psize p.dim p.layer p.data.idx p.data.condensed

/-- What a reservation needs to know of a session's model: layers, KV heads, head dimension. -/
structure KvShape where
  layers : Nat
  kvHeads : Nat
  headDim : Nat
  deriving DecidableEq, Repr

/-- The shape that an architecture gives. -/
def Arch.shape (a : Arch) : KvShape := ⟨a.layers, a.kvHeads, a.headDim⟩

/-- The shape of a session's KV: that of its model, while it is in a slot, else that of the pages it holds. -/
def State.shapeOf (s : State) (x : Session) : KvShape :=
  match s.modelOf x.model with
  | some m => m.2.arch.shape
  | none => match (x.pageMap.flatMap id).findSome? fun e => Tb.get s.kv.pages e.2 with
    | some p => ⟨x.pageMap.length, p.data.heads.length, p.dim⟩
    | none => ⟨0, 0, 0⟩

/-- Bytes charged for reserved page indices of each layer (R130, R131). -/
def State.resCharge (s : State) (a : KvShape) (psize : Nat) (condensed : Bool) (res : List (List Nat)) : Nat :=
  (res.zipIdx.map fun (is, l) => (is.map fun i => s.pageCharge a.kvHeads psize a.headDim l i condensed).sum).sum

/-- Bytes of a node record (R124). -/
def nodeBytes (layers psize : Nat) : Nat := roundUp (304 + 4 * layers * Nat.max 1 (64 / psize)) 64

/-- The device that holds a tenant's tree (R123). -/
def State.treeHere (s : State) (tenant : Nat) : Bool := tenant % Nat.max s.grp.n 1 = s.glb.rank

/-- A store's charge on this device (R236). -/
def State.storeCharge (s : State) (id : Nat) (st : Store) : Nat :=
  st.charge s.glb.rank (s.st.queries.filter fun q => q.2.store = id).length

/-- The charge on this device of one spool segment of the session with an index: its device and its buddy hold it (R168, R205). -/
def State.segmentCharge (s : State) (i : Nat) : Nat :=
  let n := Nat.max s.grp.n 1
  if i % n = s.glb.rank || (i + 1) % n = s.glb.rank then 65536 else 0

/-- A tenant's stacked-memory use in bytes on this device (R205): the sampling device holds a session's page map and held output
(R168). -/
def State.tenantUse (s : State) (t : Nat) : Nat :=
  let mine := s.ss.sessions.filter fun e => e.2.tenant = t && e.2.state != .free
  let pages := ((s.kv.pages.filter fun e => e.2.tenant = t).map fun e => s.heldCharge e.2).sum
  let nodes := if s.treeHere t then
    ((s.kv.nodes.filter fun n => n.key.tenant = t && n.live).map fun n => nodeBytes n.layers n.key.psize).sum else 0
  let maps := (mine.map fun e => (if s.samples e.1 then roundUp (4 * (e.2.pageMap.map List.length).sum) 65536 else 0) +
    s.segmentCharge e.1 * e.2.segments).sum
  let held := (mine.map fun e => match e.2.held with
    | some h => if s.samples e.1 then 32 * h.records.length + 32 else 0 | none => 0).sum
  let res (idx : Nat) (standard : Bool) (r : List (List Nat)) : Nat :=
    match Tb.get s.ss.sessions idx with
    | none => 0
    | some x => if x.tenant = t then s.resCharge (s.shapeOf x) x.psize (x.condensed && !standard) r else 0
  let reqs := (s.ss.reqs.map fun e => res e.2.session e.2.condensedRun e.2.resPages +
    (if (mine.any fun x => x.1 = e.2.session) && s.segmentCharge e.2.session ≠ 0 then e.2.resSpool else 0)).sum
  let copies := (s.ss.copies.map fun e => res e.2.session (!e.2.condensed) e.2.resPages).sum
  let revs := (s.ss.revivals.map fun e => res e.2.session false e.2.resPages).sum
  let rbs := (s.ss.rebuilds.map fun e => res e.1 false e.2.resPages).sum
  let gone := match s.chkpt with
    | some k => ((k.kept.filter fun e => e.1 = t && k.written < e.2.2).map fun e => e.2.1).sum
    | none => 0
  let sts := ((s.st.stores.filter fun e => e.2.tenant = t).map fun e => s.storeCharge e.1 e.2).sum
  pages + nodes + maps + held + reqs + copies + revs + rbs + gone + sts

/-- A charge of `k` bytes is granted to a tenant (R206). -/
def State.grants (s : State) (t k : Nat) : Bool :=
  match Tb.get s.ten.tenants t with
  | some x => decide (s.tenantUse t + k ≤ x.stackMib * 1048576)
  | none => false

/-- A charge is granted on every device of the group, each by what it would hold (R205, R206). -/
def State.grantsEach (s : State) (t : Nat) (k : State → Nat) : Bool :=
  (List.range (Nat.max s.grp.n 1)).all fun r => let v := { s with glb.rank := r }; v.grants t (k v)

/-- A segment that an entry of so many bytes would open in a session's spool is granted (R175, R206). -/
def State.spoolOpens (s : State) (i : Nat) (x : Session) (bytes : Nat) : Bool :=
  !(x.segments = 0 || 65536 < x.segFill + bytes) || s.grantsEach x.tenant fun v => v.segmentCharge i

/-- Granules that reserved page indices take on one Spindle of the group (R105, R130). -/
def State.granulesOf (s : State) (kvHeads psize dim : Nat) (condensed : Bool) (res : List (List Nat)) (g : Nat) : Nat :=
  (res.zipIdx.map fun (is, l) => (is.map fun i =>
    ((List.range kvHeads).filter fun h => spindleOf s.grp.n kvHeads psize l h i = g).length * partGranules psize dim condensed).sum).sum

/-- Granules of each part of a page that are not free in this tick (R119). -/
def Page.granules (p : Page) : Nat := Nat.max p.gran0 (partGranules p.psize p.dim p.data.condensed)

/-- Granules used on one Spindle of the group, by pages held. -/
def State.granulesUsed (s : State) (g : Nat) : Nat :=
  (s.kv.pages.map fun e =>
    let p := e.2
    let hs := p.data.heads.length
    ((List.range hs).filter fun h => spindleOf s.grp.n hs p.psize p.layer h p.data.idx = g).length * p.granules).sum

/-- Granules that the reservations of requests, copies, revivals and rebuilds still hold on one Spindle of the group (R130).
DEDUCED (log 119). -/
def State.granulesReserved (s : State) (g : Nat) : Nat :=
  let of_ (idx : Nat) (standard : Bool) (r : List (List Nat)) : Nat :=
    match Tb.get s.ss.sessions idx with
    | none => 0
    | some x => s.granulesOf (s.shapeOf x).kvHeads x.psize (s.shapeOf x).headDim (x.condensed && !standard) r g
  (s.ss.reqs.map fun e => of_ e.2.session e.2.condensedRun e.2.resPages).sum +
    (s.ss.copies.map fun e => of_ e.2.session (!e.2.condensed) e.2.resPages).sum +
    (s.ss.revivals.map fun e => of_ e.2.session false e.2.resPages).sum + (s.ss.rebuilds.map fun e => of_ e.1 false e.2.resPages).sum

/-- Granules of the arena of one Spindle of the group; those of this device go by its own Spindle number. -/
def State.arenaOf (s : State) (g : Nat) : Nat := Config.arenaGranules (if g / 12 = s.glb.rank then g % 12 else 12 + g)

/-- Whether reserved pages fit the free granules of every Spindle of the group that they need (R130). -/
def State.granulesFit (s : State) (a : KvShape) (psize : Nat) (condensed : Bool) (res : List (List Nat)) : Bool :=
  (List.range (12 * Nat.max s.grp.n 1)).all fun g =>
    let need := s.granulesOf a.kvHeads psize a.headDim condensed res g
    decide (need = 0 ∨ s.granulesUsed g + s.granulesReserved g + need ≤ s.arenaOf g)

/-- A reservation of pages, and of `spool` bytes for the session of an index, is granted (R130, R131, R206): on every device that it
charges. -/
def State.reserveOk (s : State) (idx tenant : Nat) (a : KvShape) (psize : Nat) (condensed : Bool) (res : List (List Nat))
    (spool : Nat) : Bool :=
  s.grantsEach tenant (fun v => v.resCharge a psize condensed res + if v.segmentCharge idx ≠ 0 then spool else 0) &&
    s.granulesFit a psize condensed res

/-- Page indices that R130 reserves for each layer, for positions `a` up to `b`, with `g` global positions added. R130 gives a
sparse layer a number of pages; the first ones of the dense list stand for it. DESIGN CHOICE (log 118). -/
def reserveIndices (ls : List LayerEntry) (psize a b g : Nat) : List (List Nat) :=
  let touched := (List.range (ceilDiv b psize)).drop (a / psize)
  let dense := touched ++ [a / psize]
  ls.map fun e => match e.window with
    | none => dense
    | some w => dense.take (Nat.min dense.length (ceilDiv (w + 1024) psize + 3 + g))

/-- One page of each of the layers, for a copy (R131): the page that the session writes next. -/
def State.copyIndices (s : State) (x : Session) : List (List Nat) :=
  (List.range (s.shapeOf x).layers).map fun l => [(((x.pageMap.getD l []).getLast?).map (·.1)).getD 0]

/-! ### Allocation and reference counts -/

/-- The lowest place from `lo` on where `len` fit between the runs taken, which stand in ascending order (R132). -/
def lowestGap : List (Nat × Nat) → Nat → Nat → Nat
  | [], lo, _ => lo
  | (a, k) :: r, lo, len => if lo + len ≤ a then lo else lowestGap r (Nat.max lo (a + k)) len

/-- The runs of granules taken on a Spindle of the group. -/
def State.runsOn (s : State) (g : Nat) : List (Nat × Nat) :=
  s.kv.pages.flatMap fun e =>
    let p := e.2
    let hs := p.data.heads.length
    ((List.range hs).filter fun h => spindleOf s.grp.n hs p.psize p.layer h p.data.idx = g).map fun h => (p.frames.getD h 0, p.granules)

/-- The frames of a page's parts, head by head (R132): each the lowest run of free granules on its Spindle beside those of the
heads before it. A reservation is an amount and holds no run. DEDUCED (log 119). -/
def State.framesFor (s : State) (kvHeads psize layer i len : Nat) : List Nat :=
  (List.range kvHeads).foldl (fun fs h =>
    let g := spindleOf s.grp.n kvHeads psize layer h i
    let own := fs.zipIdx.filterMap fun (f, k) => if spindleOf s.grp.n kvHeads psize layer k i = g then some (f, len) else none
    fs ++ [lowestGap ((s.runsOn g ++ own).mergeSort fun a b => a.1 ≤ b.1) 0 len]) []

/-- The lowest INDEX of a home device whose run of record cells is free (R117, R132). -/
def State.indexFor (s : State) (home cells : Nat) : Nat :=
  let runs := (s.kv.pages.filter fun e => e.1 / 2 ^ 26 = home).map fun e =>
    (e.1 % 2 ^ 26, recordBytes e.2.data.heads.length / 32)
  lowestGap (runs.mergeSort fun a b => a.1 ≤ b.1) 1 cells

/-- A tenant's CURRENT slot and generation, for a PROTECTED tenant's new parts (R313). -/
def State.currentSlot (s : State) (tenant : Nat) : Option (Nat × KeySlot) :=
  s.sec.slots.find? fun e => e.2.tenant = tenant && e.2.kind == .current

/-- Encryption fields of a part written now (R313): ENC, KEY_SLOT, KEY_GEN. -/
def State.encFields (s : State) (tenant : Nat) : Bool × Nat × Nat :=
  match Tb.get s.ten.tenants tenant, s.currentSlot tenant with
  | some t, some k => if t.isProtected then (true, k.1, k.2.gen) else (false, 0, 0)
  | _, _ => (false, 0, 0)

/-- A page allocated with one reference, which it did not have at the tick's start (R121, R132); the answer is its page ID. -/
def State.allocPage (s : State) (tenant layer psize dim : Nat) (d : PageData) : Nat × State :=
  let hs := d.heads.length
  let home := s.homeOf hs psize layer d.idx
  let id := home * 2 ^ 26 + s.indexFor home (recordBytes hs / 32)
  let frames := s.framesFor hs psize layer d.idx (partGranules psize dim d.condensed)
  let e := s.encFields tenant
  let p : Page := ⟨1, 0, false, false, layer, tenant, psize, dim, d, frames, 0, e.1, e.2.1, e.2.2⟩
  (id, ({ s with kv.pages := Tb.set s.kv.pages id p }).count 3 1 1)

/-- One page changed. -/
def State.updPage (s : State) (id : Nat) (f : Page → Page) : State := { s with kv.pages := Tb.upd s.kv.pages id f }

/-- A reference taken (R118). Within a commit a count may pass 0xFFFF_FFFF: what the commit applies is the net (R119). -/
def State.refPage (s : State) (id : Nat) : State :=
  s.updPage id fun p => if p.pinned then p else { p with refs := p.refs + 1 }

/-- A reference dropped (R118); a pinned page's count does not change (R120). -/
def State.unrefPage (s : State) (id : Nat) : State :=
  s.updPage id fun p => if p.pinned then p else { p with refs := p.refs - 1 }

/-- What a commit's net leaves of a page (R119, R120): a count that would pass 0xFFFF_FFFF saturates and pins the page. -/
def Page.settled (p : Page) : Page :=
  let past := !p.pinned && decide (0xFFFFFFFF < p.refs)
  let refs := if past then 0xFFFFFFFF else p.refs
  { p with refs := refs, refs0 := refs, pinned := p.pinned || past, gran0 := partGranules p.psize p.dim p.data.condensed }

/-- The end of a commit (R119): pages whose net count is 0 are freed, and the counts become those of the tick's start. -/
def State.settlePages (s : State) : State :=
  let dead := s.kv.pages.filter fun e => e.2.refs = 0 && !e.2.pinned
  let live := s.kv.pages.filter fun e => !(e.2.refs = 0 && !e.2.pinned)
  let pinned := live.countP fun e => e.2.settled.pinned && !e.2.pinned
  let kept : Tbl Page := live.map fun e => (e.1, e.2.settled)
  let s := { s with kv.pages := kept }
  (s.count 3 2 dead.length).count 3 0 pinned

/-! ### A session's KV -/

/-- The KV of a session as a unit reads it: for each layer, its pages in ascending index, each with the positions below KVLEN
alone: a page matched in the tree can hold more of another session's (R124). -/
def State.kvView (s : State) (x : Session) : KvView :=
  x.pageMap.map fun l => l.filterMap fun e => (Tb.get s.kv.pages e.2).map fun p =>
    if e.1 * x.psize + p.data.fill ≤ x.kvlen then p.data else Fwd.pageCut p.dim (x.kvlen - e.1 * x.psize) p.data

/-- One page of a session written (R121): in place if it is not shared, else into a fresh page. The answer is the page
ID that the map then holds. -/
def State.writePage (s : State) (tenant layer psize dim : Nat) (old : Option Nat) (d : PageData) : Nat × State :=
  match old.bind fun id => (Tb.get s.kv.pages id).map fun p => (id, p) with
  | none => s.allocPage tenant layer psize dim d
  | some (id, p) =>
    if p.data = d then (id, s)
    else if !p.pinned && p.refs0 = 1 then
      let e := s.encFields tenant
      (id, s.updPage id fun p => { p with data := d, enc := e.1, keySlot := e.2.1, keyGen := e.2.2 })
    else
      let r := s.allocPage tenant layer psize dim d
      (r.1, (r.2.unrefPage id).count 3 3 1)

/-- One layer's pages stored into a session's map: pages that the view lacks are dropped. -/
def State.storeLayer (s : State) (tenant layer psize dim : Nat) (old : Tbl Nat) (ps : List PageData) : Tbl Nat × State :=
  let r := ps.foldl (fun (st : Tbl Nat × State) d =>
    let w := st.2.writePage tenant layer psize dim (Tb.get old d.idx) d
    (Tb.set st.1 d.idx w.1, w.2)) ([], s)
  let gone := old.filter fun e => !Tb.has r.1 e.1
  (r.1, gone.foldl (fun s e => s.unrefPage e.2) r.2)

/-- What is left of a reservation once a page map has changed: each page new in a layer's map draws one reserved page of its
index, so that the page for a copy-on-write stays until it is used (R130). -/
def drawPages (res : List (List Nat)) (before after : List (Tbl Nat)) : List (List Nat) :=
  res.zipIdx.map fun (is, l) =>
    let drawn := (after.getD l []).filter fun e => Tb.get (before.getD l []) e.1 ≠ some e.2
    drawn.foldl (fun is e => is.erase e.1) is

/-- A session's KV replaced by a view, and KVLEN set (R115, R116, R121). -/
def State.storeKv (s : State) (idx dim : Nat) (kv : KvView) (kvlen : Nat) : State :=
  match Tb.get s.ss.sessions idx with
  | none => s
  | some x =>
    let n := Nat.max kv.length x.pageMap.length
    let r := (List.range n).foldl (fun (st : List (Tbl Nat) × State) l =>
      let w := st.2.storeLayer x.tenant l x.psize dim (x.pageMap.getD l []) (kv.getD l [])
      (st.1 ++ [w.1], w.2)) ([], s)
    let map := if r.1.all List.isEmpty then [] else r.1
    let s := r.2.updSess idx fun x => { x with pageMap := map, kvlen := kvlen }
    let left (res : List (List Nat)) : List (List Nat) := drawPages res x.pageMap map
    let s := { s with ss.rebuilds := Tb.upd s.ss.rebuilds idx fun r => { r with resPages := left r.resPages } }
    s.updReq x.reqId fun q => { q with resPages := left q.resPages }

/-- Removal of positions from the end: the KV as if positions from `n` on had never been stored (R116). -/
def State.cutKv (s : State) (idx n : Nat) : State :=
  match Tb.get s.ss.sessions idx with
  | none => s
  | some x =>
    if x.kvlen ≤ n then s else
    let kv := (x.pageMap.zipIdx.map fun (l, _) => l.filterMap fun e =>
      match Tb.get s.kv.pages e.2 with
      | none => none
      | some p => if n ≤ e.1 * x.psize then none
        else some (if e.1 * x.psize + p.data.fill ≤ n then p.data else Fwd.pageCut p.dim (n - e.1 * x.psize) p.data))
    let dim := ((x.pageMap.flatMap id).findSome? fun e => (Tb.get s.kv.pages e.2).map (·.dim)).getD 128
    s.storeKv idx dim kv n

/-- All of a session's KV released. DEDUCED (log 60). -/
def State.releaseKv (s : State) (idx : Nat) : State :=
  match Tb.get s.ss.sessions idx with
  | none => s
  | some x =>
    let s := (x.pageMap.flatMap id).foldl (fun s e => s.unrefPage e.2) s
    s.updSess idx fun x => { x with pageMap := [], kvlen := 0, treeNode := 0, treeGen := 0, residuals := [] }

/-- The layers' windows of a session's model: those that the last trimming went by, while it is in no slot. -/
def State.windowsOf (s : State) (x : Session) : List (Option Nat) :=
  match s.modelOf x.model with | some m => m.2.layers.map (·.window) | none => x.windows

/-- Pages that a request's sparse layers may still come to need, once pages have been trimmed: as many as make up, with those of its own
positions that are held, the number that R130 gives such a layer. DESIGN CHOICE (log 118). -/
def Req.refill (q : Req) (ws : List (Option Nat)) (psize : Nat) (map : List (Tbl Nat)) : List (List Nat) :=
  q.resPages.zipIdx.map fun (is, l) => match ws.getD l none with
    | none => is
    | some w =>
      let held := ((map.getD l []).filter fun e => q.startLen / psize ≤ e.1).map (·.1)
      let top := (held ++ is).foldl (fun m i => Nat.max m (i + 1)) (q.startLen / psize)
      let most := ceilDiv (w + 1024) psize + 3 + q.inputGlobals.length
      is ++ ((List.range (most - (held.length + is.length))).map (top + ·)).filter fun i => i * psize < q.inputEnd + q.maxNew

/-- Trimming of sparse layers at a commit point (R112): the committed length is that of the committed positions, KVLEN, as the
worked example of R112 counts it. -/
def State.trimSess (s : State) (idx : Nat) : State :=
  match Tb.get s.ss.sessions idx with
  | none => s
  | some x =>
    let ws := s.windowsOf x
    let dropped (l : Tbl Nat) (w : Nat) : Tbl Nat := l.filter fun e =>
      (e.1 + 1) * x.psize - 1 + w + 1024 < x.kvlen && x.globals.all fun g => g / x.psize != e.1
    let r := x.pageMap.zipIdx.map fun (l, k) => match ws.getD k none with
      | none => (l, [])
      | some w => (l.filter fun e => !(dropped l w).contains e, dropped l w)
    let s := (r.flatMap (·.2)).foldl (fun s e => s.unrefPage e.2) s
    let s := s.updSess idx fun x => { x with pageMap := r.map (·.1), windows := ws }
    if r.all (·.2.isEmpty) then s else
    s.updReq x.reqId fun q => { q with resPages := q.refill ws x.psize (r.map (·.1)) }

/-- A length at which some window of a sparse layer reaches a dropped page (R112): position `len - 1` would attend to a
position whose page the layer no longer holds. -/
def State.reachesDropped (s : State) (x : Session) (len : Nat) : Bool :=
  (s.windowsOf x).zipIdx.any fun (w, l) => match w with
    | none => false
    | some w => !x.pageMap.isEmpty && 0 < len &&
      ((List.range (len / x.psize + 1)).drop ((len - 1 + 1 - w) / x.psize)).any fun i =>
        i * x.psize < Nat.min len x.kvlen && !Tb.has (x.pageMap.getD l []) i

/-- A session switched to the condensed format: a write to every page of its map (R122). DEDUCED (log 103). -/
def State.condenseSess (s : State) (idx : Nat) : State :=
  match Tb.get s.ss.sessions idx with
  | none => s
  | some x =>
    let dim := ((x.pageMap.flatMap id).findSome? fun e => (Tb.get s.kv.pages e.2).map (·.dim)).getD 128
    let kv := (s.kvView x).map fun l => l.map fun p => Fwd.pageCondense dim p
    (s.storeKv idx dim kv x.kvlen).updSess idx fun x => { x with condensed := true }

end Sys2Proof.Machine
end

