-- ==== Sys2Proof/Machine/Tree.lean ====
section
/-! DEFINITION. The prefix tree: look-up, insert, prune, purge and the recount sweep (R123 to R129). -/
namespace Sys2Proof.Machine

/-- A live node of a tenant. -/
def State.node (s : State) (t id : Nat) : Option Node := s.kv.nodes.find? fun n => n.key.tenant = t && n.id = id && n.live

/-- The root of a key, if it exists (R123). -/
def State.rootOf (s : State) (k : RootKey) : Option Node := s.kv.nodes.find? fun n => n.root && n.live && n.key = k

/-- One node of a tenant changed. -/
def State.updNode (s : State) (t id : Nat) (f : Node → Node) : State :=
  { s with kv.nodes := s.kv.nodes.map fun n => if n.key.tenant = t && n.id = id then f n else n }

/-- An edge that a look-up may follow (R125). -/
def State.edgeLive (s : State) (e : Edge) : Bool :=
  (match s.node e.tenant e.parent with | some p => p.gen = e.parentGen | none => false) &&
  (match s.node e.tenant e.child with | some c => c.gen = e.childGen | none => false)

/-- The 64-bit mask of global positions of chunk c (R123). -/
def chunkMask (globals : List Nat) (c : Nat) : Nat :=
  (List.range 64).foldl (fun a j => if globals.contains (64 * c + j) then a + 2 ^ j else a) 0

/-- The child of a node by edge key (R124): the full tokens and mask are compared. -/
def State.childOf (s : State) (n : Node) (tokens : List Nat) (mask : Nat) : Option Node :=
  ((s.kv.edges.filter fun e => e.tenant = n.key.tenant && e.parent = n.id && e.parentGen = n.gen && s.edgeLive e).filterMap
    fun e => s.node e.tenant e.child).find? fun c => c.tokens = tokens && c.globalMask = mask

/-- The path of a look-up below a node (R126): at most `fuel` chunks. -/
def State.treePath (s : State) (n : Node) (hist globals : List Nat) (c : Nat) : Nat → List Node
  | 0 => []
  | fuel + 1 =>
    match s.childOf n ((hist.drop (64 * c)).take 64) (chunkMask globals c) with
    | none => []
    | some k => k :: s.treePath k hist globals (c + 1) fuel

/-- The pages that a path maps (R126): for each layer, index by index, the page of the deepest node that lists it. -/
def pathPages (path : List Node) (layers : Nat) : List (Tbl Nat) :=
  (List.range layers).map fun l => path.foldl (fun (t : Tbl Nat) n => (n.pages.getD l []).foldl
    (fun t e => if e.2 = 0 then t else Tb.set t e.1 e.2) t) []

/-- Bytes of a page's parts and record, on whatever devices they lie (R114, R117). -/
def Page.groupCharge (p : Page) : Nat :=
  p.data.heads.length * partGranules p.psize p.dim p.data.condensed * 128 + recordBytes p.data.heads.length

/-- A tenant's tree use in bytes (R128): its node records, and the parts and records, on every device of the group, of the pages that
tree nodes alone hold. -/
def State.treeUse (s : State) (t : Nat) : Nat :=
  let ns := s.kv.nodes.filter fun n => n.key.tenant = t && n.live
  let listed := ns.flatMap fun n => n.pages.flatMap fun l => l.map (·.2)
  let pages := s.kv.pages.filter fun e => e.2.tenant = t && 0 < listed.count e.1 && listed.count e.1 = e.2.refs
  (ns.map fun n => nodeBytes n.layers n.key.psize).sum + (pages.map fun e => e.2.groupCharge).sum

/-- The lowest node record that can be used (R128): never used, or deleted before this tick and not retired. -/
def State.nodeSlot (s : State) (t : Nat) : Nat × Nat :=
  let mine := s.kv.nodes.filter fun n => n.key.tenant = t
  let used (i : Nat) := mine.any fun n => n.id = i && (n.live || n.retired || n.lastUse = s.tk.tick)
  let id := ((List.range (mine.length + 2)).drop 1).find? (fun i => !used i) |>.getD (mine.length + 1)
  (id, ((mine.find? fun n => n.id = id).map (·.gen)).getD 0)

/-- A node record written in place of the tenant's record of the same ID. -/
def State.putNode (s : State) (n : Node) : State :=
  { s with kv.nodes := (s.kv.nodes.filter fun m => !(m.key.tenant = n.key.tenant && m.id = n.id)) ++ [n] }

/-- The root key of a session's tree for a request (R123). -/
def State.rootKey (s : State) (x : Session) (q : Option Req) : RootKey :=
  let ad := (q.bind (·.adapter)).bind fun k => s.img.adapters.find? fun a => a.id = k.1 && a.ver = k.2
  ⟨x.tenant, x.model, (ad.map (·.digest)).getD 0, x.psize, x.condensed⟩

/-- A node record of a key is granted on the tree's device (R123, R206). -/
def State.grantsNode (s : State) (k : RootKey) : Bool :=
  { s with glb.rank := k.tenant % Nat.max s.grp.n 1 }.grants k.tenant
    (nodeBytes (((s.modelOf k.model).map fun (e : Nat × Model) => e.2.arch.layers).getD 0) k.psize)

/-- The root of a key, made if there is none: at the commit of a look-up that finds no match and whose record is granted, whatever the node pool and the tree
budget, neither of which R123 speaks of. DESIGN CHOICE (log 120). -/
def State.ensureRoot (s : State) (k : RootKey) : Node × State :=
  match s.rootOf k with
  | some n => (n, s)
  | none =>
    let sl := s.nodeSlot k.tenant
    let layers := ((s.modelOf k.model).map (·.2.arch.layers)).getD 0
    let n : Node := ⟨sl.1, sl.2, k, sl.1, sl.2, 0, 0, s.tk.tick, true, true, false, 0, [], [], layers⟩
    (n, s.putNode n)

/-- The pages of a chunk in a session's map (R124). -/
def chunkPages (x : Session) (c : Nat) : List (Tbl Nat) :=
  x.pageMap.map fun l => l.filter fun e => e.1 * x.psize < 64 * c + 64 && 64 * c < (e.1 + 1) * x.psize

/-- The ancestor of a node, or the node itself, whose prefix is at most `n` positions long. -/
def State.treeAt (s : State) (n : Nat) (k : Node) : Nat → Node
  | 0 => k
  | fuel + 1 =>
    if 64 * k.depth ≤ n || k.root then k else
    match s.node k.key.tenant k.parent with
    | some p => s.treeAt n p fuel
    | none => k

/-- The tree position after the history is cut to `n` positions: it moves up to the deepest node of its path whose prefix is still
the session's. R127 says nothing of it. DESIGN CHOICE (log 116). -/
def State.liftTree (s : State) (idx n : Nat) : State :=
  match Tb.get s.ss.sessions idx with
  | none => s
  | some x => match s.node x.tenant x.treeNode with
    | none => s
    | some k =>
      if k.gen ≠ x.treeGen then s else
      let p := s.treeAt n k k.depth
      s.updSess idx fun x => { x with treeNode := p.id, treeGen := p.gen }

/-- The tree position lies below the root of the key that a request's KV has now (R101, R123). A position below another root takes no
inserts: that of a session whose format has changed since, or whose turns before were bound to another adapter. R127 does not speak
of the first. DESIGN CHOICE (log 117). -/
def State.treeFits (s : State) (x : Session) (q : Req) : Bool :=
  match s.node x.tenant x.treeNode with
  | some n => n.key = s.rootKey x q
  | none => false

/-- The pages that the node of chunk c lists, each with a reference (R118, R124): with P = 128 the node of a page's first chunk lists the
page with FILL 64, so a page that is fuller already is copied for it. DEDUCED (log 136). -/
def State.nodePages (s : State) (x : Session) (c : Nat) : List (Tbl Nat) × State :=
  (chunkPages x c).zipIdx.foldl (fun (st : List (Tbl Nat) × State) (l : Tbl Nat × Nat) =>
    let r := l.1.foldl (fun (st : Tbl Nat × State) (e : Nat × Nat) =>
      match Tb.get st.2.kv.pages e.2 with
      | none => st
      | some p =>
        if 64 * c + 64 < e.1 * x.psize + p.data.fill then
          let w := st.2.allocPage x.tenant l.2 x.psize p.dim (Fwd.pageCut p.dim (64 * c + 64 - e.1 * x.psize) p.data)
          (Tb.set st.1 e.1 w.1, w.2)
        else (Tb.set st.1 e.1 e.2, st.2.refPage e.2)) ([], st.2)
    (st.1 ++ [r.1], r.2)) ([], s)

/-- One insert of a chunk below the session's tree position (R127): its record is charged on the tree's device (R123, R206). The flag
says that the request's inserts go on. DESIGN CHOICE (log 117). -/
def State.insertChunk (s : State) (idx : Nat) : Bool × State :=
  match Tb.get s.ss.sessions idx with
  | none => (false, s)
  | some x =>
    match s.node x.tenant x.treeNode with
    | none => (false, s)
    | some n =>
      if n.gen != x.treeGen then (false, s) else
      let c := n.depth
      let toks := (x.hist.drop (64 * c)).take 64
      let mask := chunkMask x.globals c
      let goTo (k : Node) (s : State) := s.updSess idx fun x => { x with treeNode := k.id, treeGen := k.gen }
      match s.childOf n toks mask with
      | some k => (true, goTo k (s.updNode x.tenant k.id fun k => { k with lastUse := s.tk.tick }))
      | none =>
        let budget := ((Tb.get s.ten.tenants x.tenant).map (·.treeMib)).getD 0 * 1048576
        let sl := s.nodeSlot x.tenant
        if Config.nodePool x.tenant < sl.1 || budget < s.treeUse x.tenant + nodeBytes n.layers x.psize ||
            !{ s with glb.rank := x.tenant % Nat.max s.grp.n 1 }.grants x.tenant (nodeBytes n.layers x.psize) then (false, s)
        else
          let r := s.nodePages x c
          let k : Node := ⟨sl.1, sl.2, n.key, n.id, n.gen, c + 1, 0, s.tk.tick, false, true, false, mask, toks, r.1, n.layers⟩
          let s := r.2.putNode k
          let s := { s with kv.edges := s.kv.edges ++ [(⟨x.tenant, n.id, n.gen, k.id, k.gen⟩ : Edge)] }
          let s := s.updNode x.tenant n.id fun n => { n with children := n.children + 1 }
          (true, goTo k s)

/-- The inserts of one prefill commit (R127): chunks that lie wholly within the request's input and in the stored KV,
in ascending order. The answer says whether later inserts of the request go on. -/
def State.insertChunks (s : State) (idx lo hi : Nat) : Nat → Bool × State
  | 0 => (true, s)
  | fuel + 1 =>
    match Tb.get s.ss.sessions idx with
    | none => (false, s)
    | some x =>
      match s.node x.tenant x.treeNode with
      | none => (false, s)
      | some n =>
        let c := n.depth
        if n.gen = x.treeGen && !(lo ≤ 64 * c && 64 * c + 64 ≤ hi && 64 * c + 64 ≤ x.kvlen) then (true, s) else
        let r := s.insertChunk idx
        if r.1 then r.2.insertChunks idx lo hi fuel else r

/-- A node deleted (R128): GEN raised, LIVE cleared, RETIRED if its GEN has reached 0xFFFF_FFFF, its references dropped, its parent's
CHILDREN lowered. -/
def State.deleteNode (s : State) (t id : Nat) : State :=
  match s.node t id with
  | none => s
  | some n =>
    let s := (n.pages.flatMap fun l => l).foldl (fun s e => s.unrefPage e.2) s
    let s := s.updNode t id fun n =>
      { n with gen := n.gen + 1, live := false, retired := 0xFFFFFFFF ≤ n.gen + 1, lastUse := s.tk.tick }
    if n.root then s else s.updNode t n.parent fun p => if p.gen = n.parentGen then { p with children := p.children - 1 } else p

/-- One prune pass (R128): leaves in ascending LAST_USE and NODE_ID, until the use is at or below 3/4 of the budget. -/
def State.pruneLoop (s : State) (t budget : Nat) : Nat → State
  | 0 => s
  | fuel + 1 =>
    if 4 * s.treeUse t ≤ 3 * budget then s else
    let leaves := s.kv.nodes.filter fun n => n.key.tenant = t && n.live && n.children = 0
    match leaves.mergeSort (fun a b => a.lastUse < b.lastUse || (a.lastUse = b.lastUse && a.id ≤ b.id)) with
    | [] => s
    | n :: _ => (s.deleteNode t n.id).pruneLoop t budget fuel

/-- A prune unit's effect (R128): leaves deleted, and the edges that count as absent removed. -/
def State.prune (s : State) (t : Nat) : State :=
  let budget := ((Tb.get s.ten.tenants t).map (·.treeMib)).getD 0 * 1048576
  let s := s.pruneLoop t budget s.kv.nodes.length
  { s with kv.edges := s.kv.edges.filter fun e => e.tenant != t || s.edgeLive e }

/-- A node lies at or below another: its chain of parents, of at most `fuel` steps, reaches it. -/
def State.below (s : State) (t top : Nat) (n : Node) : Nat → Bool
  | 0 => n.id = top
  | fuel + 1 => n.id = top || (!n.root && match s.node t n.parent with
    | some p => p.gen = n.parentGen && s.below t top p fuel
    | none => false)

/-- The node that PURGE names: the root of the key, or a node below it at its generation (R129). -/
def State.purgeTop (s : State) (k : RootKey) (node : Option (Nat × Nat)) : Option Node :=
  match s.rootOf k with
  | none => none
  | some r => match node with
    | none => some r
    | some (id, gen) => match s.node k.tenant id with
      | some n => if n.gen = gen && n.key = k then some n else none
      | none => none

/-- PURGE's deletes (R129): the node and all below it; pinned pages they listed are set to RECOUNT. -/
def State.purgeNodes (s : State) (t top : Nat) : List Nat × State :=
  let dead := s.kv.nodes.filter fun n => n.key.tenant = t && n.live && s.below t top n (n.depth + 1)
  let pages := ((dead.flatMap fun n => n.pages.flatMap fun l => l.map (·.2)).eraseDups).filter fun p =>
    match Tb.get s.kv.pages p with | some p => p.pinned | none => false
  let s := dead.foldl (fun s n => s.deleteNode t n.id) s
  (pages, pages.foldl (fun s p => s.updPage p fun p => { p with recount := true }) s)

/-- The holders of a page over every page map, node and copy (R118, R129). -/
def State.holders (s : State) (t p : Nat) : Nat :=
  ((s.ss.sessions.filter fun e => e.2.tenant = t).map fun e => ((e.2.pageMap.flatMap id).filter fun q => q.2 = p).length).sum +
  ((s.kv.nodes.filter fun n => n.key.tenant = t && n.live).map fun n => ((n.pages.flatMap id).filter fun q => q.2 = p).length).sum +
  (s.ss.copies.map fun e => (e.2.pages.filter (·.1 = p)).length).sum

/-- The sweep of one page (R129): freed without a holder, unpinned with a count below 0xFFFF_FFFF. -/
def State.recountPage (s : State) (t p : Nat) : State :=
  let k := s.holders t p
  s.updPage p fun q => if k < 0xFFFFFFFF then { q with refs := k, pinned := false, recount := false }
    else { q with recount := false }

/-- The end of a purge sweep (R129). -/
def State.sweepPurge (s : State) (p : Nat) : State :=
  match Tb.get s.kv.purges p with
  | none => s
  | some u =>
    let s := u.pages.foldl (fun s q => s.recountPage u.tenant q) s
    { s with kv.purges := Tb.del s.kv.purges p }

end Sys2Proof.Machine
end

