-- ==== Sys2Proof/Machine/Entries.lean ====
section
/-! DEFINITION. The byte layouts of session state: spool payloads (R174), the descriptor (R169), KV parts (R114), hanks
(R176 to R180), and their reading back. -/
namespace Sys2Proof.Machine

/-! ### Spool payloads (R174) -/

def payOpen (h tenant psize fmt : Nat) (seed : BitVec 128) (model vocab : Digest) : Bytes :=
  toLE 8 h ++ toLE 1 tenant ++ toLE 1 psize ++ toLE 1 fmt ++ zeros 1 ++ toLE 2 0x0100 ++ zeros 2 ++
    toBE 16 seed.toNat ++ digestBytes model ++ digestBytes vocab

/-- TURN. The flags byte carries TOPK_EN, TOPP_EN and MINP_EN in bits 0 to 2 (the spec names no layout; log entry 8). -/
def payTurn (reqId epoch maxNew spec : Nat) (p : Sampling.Params) (adapter grammar : Digest) (stops : List Bytes) : Bytes :=
  let fl := (if p.topK.isSome then 1 else 0) + (if p.topP.isSome then 2 else 0) + (if p.minP.isSome then 4 else 0)
  toLE 4 reqId ++ toLE 4 epoch ++ toLE 4 maxNew ++ toLE 1 spec ++ toLE 1 fl ++ zeros 2 ++ toLE 4 p.temperature.toNat ++
    toLE 4 (p.topK.getD 0) ++ toLE 4 ((p.topP.map BitVec.toNat).getD 0) ++ toLE 4 ((p.minP.map BitVec.toNat).getD 0) ++
    digestBytes adapter ++ digestBytes grammar ++ toLE 4 stops.length ++
    stops.flatMap fun st => toLE 1 st.length ++ st

def payInput (first : Nat) (toks : List Nat) : Bytes := toLE 4 first ++ toLE 4 toks.length ++ toks.flatMap (toLE 4)
def payGlobal (ps : List Nat) : Bytes := toLE 4 ps.length ++ ps.flatMap (toLE 4)
def payOutput (first : Nat) (toks : List Nat) : Bytes :=
  toLE 4 first ++ toLE 4 toks.length ++ fitTo 16 (toks.flatMap (toLE 4))
def payStop (pos off rolled newLen : Nat) : Bytes := toLE 4 pos ++ toLE 1 off ++ toLE 1 rolled ++ zeros 2 ++ toLE 4 newLen
def payEnd (reqId reason flags len tokens : Nat) : Bytes :=
  toLE 4 reqId ++ toLE 1 reason ++ toLE 1 flags ++ zeros 2 ++ toLE 4 len ++ toLE 4 tokens
def payFormat (fmt len kvlen : Nat) : Bytes := toLE 1 fmt ++ zeros 3 ++ toLE 4 len ++ toLE 4 kvlen
def payPark (hankId kind store off : Nat) : Bytes := toLE 8 hankId ++ toLE 1 kind ++ toLE 1 store ++ zeros 6 ++ toLE 8 off
/-- The payload of a REVIVE entry (R174). DESIGN CHOICE (log 141). -/
def payRevive (hankId mode source : Nat) : Bytes := toLE 8 hankId ++ toLE 1 mode ++ zeros 7 ++ toLE 8 source
def payRelinquish (id dst h : Nat) : Bytes := toLE 8 id ++ toLE 8 dst ++ toLE 8 h
def payAcquire (id src h by_ : Nat) : Bytes := toLE 8 id ++ toLE 8 src ++ toLE 8 h ++ toLE 1 by_
def payEpochPark (old new reqId : Nat) : Bytes := toLE 4 old ++ toLE 4 new ++ toLE 4 reqId
def payClaim (epoch mbox n : Nat) : Bytes := toLE 4 epoch ++ toLE 1 mbox ++ zeros 3 ++ toLE 4 n
def payAdopt (id side : Nat) (reel : Digest) : Bytes := toLE 8 id ++ toLE 1 side ++ zeros 7 ++ digestBytes reel

/-- INPUT entries of a token run: at most 16,376 tokens in each (R174). -/
def inputEntries (first : Nat) (toks : List Nat) : List Bytes :=
  (chunksOf 16376 toks).zipIdx.map fun (c, i) => payInput (first + 16376 * i) c

/-! ### The session descriptor (R169) -/

/-- The code of a session state (R170). -/
def SessState.code : SessState → Nat
  | .free => 0 | .idle => 1 | .busy => 2 | .parking => 3 | .parked => 4 | .reviving => 5 | .offered => 6
  | .accepting => 7 | .gone => 8

/-- The state of a code. -/
def SessState.ofCode : Nat → Option SessState
  | 0 => some .free | 1 => some .idle | 2 => some .busy | 3 => some .parking | 4 => some .parked | 5 => some .reviving
  | 6 => some .offered | 7 => some .accepting | 8 => some .gone | _ => none

/-- The 256 bytes of a descriptor (R169). -/
def descriptorBytes (idx : Nat) (x : Session) (stalled : Bool) : Bytes :=
  toLE 8 (handleOf idx x.gen) ++ toLE 1 x.state.code ++ toLE 1 x.tenant ++ toLE 1 (if x.condensed then 1 else 0) ++
  toLE 1 x.psize ++ toLE 4 ((if x.held.isSome then 1 else 0) + if stalled then 2 else 0) ++ toLE 4 x.hist.length ++
  toLE 4 x.kvlen ++ toLE 4 x.reqId ++ toLE 4 x.treeNode ++ toLE 4 x.treeGen ++ toLE 2 x.globals.length ++
  toLE 2 0x0100 ++ toLE 4 x.epoch ++ zeros 4 ++ digestBytes x.model ++ toLE 8 (Config.deviceVa idx 0).toNat ++
  toLE 8 (Config.deviceVa idx (if x.segments ≤ 1 then 0 else x.segments + 1)).toNat ++ toLE 8 x.spoolLen ++ toLE 4 x.spoolSeq ++ zeros 4 ++
  digestBytes x.spoolDigest ++ toLE 8 (if x.pageMap.isEmpty then 0 else (Config.deviceVa idx 1).toNat) ++
  toLE 8 x.lastCommit ++ toLE 1 x.parkStore ++ zeros 7 ++ toLE 8 x.parkOffset ++ toBE 16 x.seed.toNat ++
  toLE 8 x.hankId ++ toLE 8 x.handoffId ++ toLE 8 x.peer ++ zeros 8

/-! ### What the spool says -/

def entryType (e : Bytes) : Nat := fieldAt e 0 1
def entrySeq (e : Bytes) : Nat := fieldAt e 4 4

/-- A spool cut into its entries by their SIZE fields; none if a header is broken or an entry reaches beyond the end. -/
def splitSpool : Nat → Bytes → Option (List Bytes)
  | 0, bs => if bs.isEmpty then some [] else none
  | fuel + 1, bs =>
    if bs.isEmpty then some [] else
    let n := 16 * fieldAt bs 2 2
    if n = 0 || bs.length < n || 4096 < fieldAt bs 2 2 then none
    else (splitSpool fuel (bs.drop n)).map fun r => bs.take n :: r

/-- The reserved bytes of an entry's payload, by type: offset in the entry and count (R174). -/
def spoolReserved : Nat → List (Nat × Nat)
  | 0x01 => [(27, 1), (30, 2)]
  | 0x02 => [(30, 2)]
  | 0x06 => [(22, 2)]
  | 0x07 => [(22, 2)]
  | 0x0C => [(17, 3)]
  | 0x0E => [(26, 6)]
  | 0x0F => [(25, 7)]
  | 0x13 => [(21, 3)]
  | 0x15 => [(25, 7)]
  | 0x16 => [(29, 3)]
  | _ => []

/-- An entry that a reader takes: a code that R174 lists, no reserved flag (R173), reserved fields zero (R6). -/
def spoolEntryOk (e : Bytes) : Bool :=
  1 ≤ entryType e && entryType e ≤ 0x16 && fieldAt e 1 1 ≤ 1 && (spoolReserved (entryType e)).all fun r => zeroAt e r.1 r.2

/-- The status with which a reader rejects a spool: E_RANGE for an entry that it does not take, E_VERSION where OPEN names
another ERA (R79, R174). -/
def spoolFault (es : List Bytes) : Option Status :=
  if !es.all spoolEntryOk then some .eRange
  else if es.any fun e => entryType e = 1 && fieldAt e 28 2 ≠ 0x0100 then some .eVersion
  else none

/-- The reserved fields of a session descriptor are zero (R6, R169). -/
def descriptorClean (d : Bytes) : Bool :=
  fieldAt d 8 1 ≤ 8 && fieldAt d 10 1 ≤ 1 && fieldAt d 12 4 ≤ 3 && zeroAt d 44 4 && zeroAt d 124 4 && zeroAt d 193 7 && zeroAt d 248 8

/-- The reserved fields of a REQUEST section with its grammar state are zero (R6, R150, R180). -/
def requestClean (r : Bytes) : Bool :=
  zeroAt r 24 8 && (fieldAt r 20 4 = 0 || (fieldAt r 64 2 < 1024 && zeroAt r 72 8))

/-- The chain digest of entries (R173). -/
def chainDigest (es : List Bytes) : Digest := es.foldl (fun c e => Sha.sha384 (digestBytes c ++ e)) 0

/-- What a spool rebuilds (R340, R341): history, global set, KV format with the KVLEN at the switch, the last turn. -/
structure Replay where
  hist : List Nat
  globals : List Nat
  formats : List Nat
  /-- The adapter digest in force for the KV of each position, as runs: from this position on (R187). -/
  adapters : List (Nat × Digest)
  /-- The positions stored so far, and the first that each of the last 8 steps stored, newest first (R137). -/
  kvlen : Nat
  lows : List Nat
  deriving DecidableEq, Repr, Inhabited

/-- Little-endian words of 4 bytes. -/
def words4 (n : Nat) (bs : Bytes) : List Nat := (List.range n).map fun i => fieldAt bs (4 * i) 4

/-- Removal of positions from `n` on (R116, R137): the runs and the format switches keep to the KV that stays. -/
def Replay.cut (r : Replay) (n : Nat) : Replay :=
  let m := Nat.min r.kvlen n
  let k := if m = n && 0 < n && !(r.lows.any fun l => l + 1 ≤ n) then n - 1 else m
  { r with hist := r.hist.take n, globals := r.globals.filter (· < n), kvlen := k
           formats := r.formats.map (Nat.min k), adapters := r.adapters.filter fun a => a.1 ≤ k }

/-- One entry read into the replay. A turn's KV counts as stored from its first OUTPUT entry on (log entry 11). -/
def Replay.entry (r : Replay) (e : Bytes) : Replay :=
  match entryType e with
  | 0x02 => { r with adapters := r.adapters ++ [(r.kvlen, digestOf (sliceAt e 48 48))] }
  | 0x03 => { r with hist := r.hist ++ words4 (fieldAt e 20 4) (e.drop 24) }
  | 0x04 => { r with globals := r.globals ++ words4 (fieldAt e 16 4) (e.drop 20) }
  | 0x05 =>
    let h := r.hist ++ words4 (fieldAt e 20 4) (e.drop 24)
    { r with hist := h, kvlen := h.length - 1, lows := ((r.hist.length - 1) :: r.lows).take 8 }
  | 0x06 => r.cut (fieldAt e 24 4)
  | 0x0A => r.cut (fieldAt e 16 4)
  | 0x0B => r.cut (fieldAt e 20 4)
  | 0x0C => { r with formats := r.formats ++ [fieldAt e 24 4] }
  | _ => r

/-- The replay of a spool. -/
def replayOf (es : List Bytes) : Replay := es.foldl Replay.entry ⟨[], [], [], [], 0, []⟩

/-- The adapter digest in force when the stored KV of a position was written (R187). -/
def Replay.adapterAt (r : Replay) (pos : Nat) : Digest :=
  ((r.adapters.filter fun a => a.1 ≤ pos).getLast?.map (·.2)).getD 0

/-! ### KV parts (R114) -/

/-- The bytes of one part. In a hank PAGE_ID, KEY_SLOT, ENC and KEY_GEN are zero (R178). -/
def partBytes (id layer head psize dim : Nat) (p : PageData) : Bytes :=
  let t := p.heads.getD head (⟨[], none, []⟩, ⟨[], none, []⟩)
  let hdr := fitTo 128 (toLE 4 id ++ toLE 2 layer ++ toLE 1 head ++ toLE 1 (if p.condensed then 1 else 0) ++
    toLE 1 psize ++ toLE 1 p.fill ++ toLE 2 dim ++ toLE 4 (p.idx * psize))
  if p.condensed then
    let nib (t : Tensor) := fitTo (psize * dim / 2) ((chunksOf 2 t.codes).map fun c =>
      BitVec.ofNat 8 (c.getD 0 0 + 16 * c.getD 1 0))
    let sc (t : Tensor) := fitTo (psize * dim / 32) (t.blockScales.map (BitVec.ofNat 8))
    hdr ++ nib t.1 ++ nib t.2 ++ sc t.1 ++ sc t.2 ++ zeros 128
  else
    let codes (t : Tensor) := fitTo (psize * dim) (t.codes.map (BitVec.ofNat 8))
    let sv (t : Tensor) := ((t.scale.map (·.1)).getD 0, (t.scale.map (·.2)).getD 0, if t.scale.isSome then 1 else 0)
    let k := sv t.1
    let v := sv t.2
    hdr ++ codes t.1 ++ codes t.2 ++
      fitTo 128 (toLE 1 k.1 ++ toLE 1 v.1 ++ toLE 1 (k.2.2 + 2 * v.2.2) ++ toLE 1 k.2.1 ++ toLE 1 v.2.1)

/-- The tensors of one part read back. -/
def partTensors (psize dim : Nat) (b : Bytes) : Bool × Nat × Nat × (Tensor × Tensor) :=
  let cond := fieldAt b 7 1 = 1
  let fill := fieldAt b 9 1
  let n := fill * dim
  if cond then
    let nib (o : Nat) := (List.range n).map fun i => fieldAt b (128 + o + i / 2) 1 / 16 ^ (i % 2) % 16
    let sc (o : Nat) := (List.range (n / 32)).map fun i => fieldAt b (128 + o + i) 1
    (cond, fill, fieldAt b 12 4 / psize,
      (⟨nib 0, none, sc (psize * dim)⟩, ⟨nib (psize * dim / 2), none, sc (33 * psize * dim / 32)⟩))
  else
    let codes (o : Nat) := (List.range n).map fun i => fieldAt b (128 + o + i) 1
    let tail := 128 + 2 * psize * dim
    let fl := fieldAt b (tail + 2) 1
    let sc (k : Nat) := if fl.testBit k then some (fieldAt b (tail + k) 1, fieldAt b (tail + 3 + k) 1) else none
    (cond, fill, fieldAt b 12 4 / psize, (⟨codes 0, sc 0, []⟩, ⟨codes (psize * dim), sc 1, []⟩))

/-- KVINDEX (R178): for each layer, the count and the page indices. -/
def kvIndexBytes (kv : KvView) : Bytes := kv.flatMap fun l => toLE 4 l.length ++ l.flatMap fun p => toLE 4 p.idx

/-- KV (R178): for each layer, page and head, the part. -/
def kvBytes (psize dim : Nat) (kv : KvView) : Bytes :=
  kv.zipIdx.flatMap fun (l, k) => l.flatMap fun p =>
    (List.range p.heads.length).flatMap fun h => partBytes 0 k h psize dim p

/-- KVINDEX read back: for each of `n` layers its page indices. -/
def readKvIndex : Nat → Bytes → List (List Nat)
  | 0, _ => []
  | n + 1, b => let k := fieldAt b 0 4; words4 k (b.drop 4) :: readKvIndex n (b.drop (4 + 4 * k))

/-- Bytes of a part in a KV section (R114). -/
def partLen (psize dim : Nat) (condensed : Bool) : Nat :=
  if condensed then 256 + 17 * psize * dim / 16 else 256 + 2 * psize * dim

/-- The reserved fields of a part of a hank are zero (R6, R114, R178). -/
def partClean (psize dim : Nat) (condensed : Bool) (b : Bytes) : Bool :=
  zeroAt b 19 1 && zeroAt b 24 104 &&
    if condensed then zeroAt b (128 + 17 * psize * dim / 16) 128
    else fieldAt b (130 + 2 * psize * dim) 1 ≤ 3 && zeroAt b (133 + 2 * psize * dim) 123

/-- The KV section read back into a view. -/
def readKv (psize dim heads : Nat) (condensed : Bool) (index : List (List Nat)) (b : Bytes) : KvView :=
  let n := partLen psize dim condensed
  let starts := index.foldl (fun (a : List Nat) l => a ++ [a.getLast?.getD 0 + l.length * heads * n]) [0]
  index.zipIdx.map fun (l, k) => l.zipIdx.map fun (i, j) =>
    let at_ (h : Nat) := partTensors psize dim (sliceAt b (starts.getD k 0 + (j * heads + h) * n) n)
    let p0 := at_ 0
    ⟨i, p0.1, p0.2.1, (List.range heads).map fun h => (at_ h).2.2.2⟩

/-! ### Hanks (R176 to R180) -/

/-- The REQUEST section (R180). -/
def requestSection (reqId stallMs holdS epoch : Nat) (held : Option HeldOutput) (g : Bytes) (stamp : Nat) : Bytes :=
  let recs := (held.map (·.records)).getD []
  let comp := match held.bind (·.completion) with | some c => c.encode stamp | none => zeros 32
  toLE 4 reqId ++ toLE 4 stallMs ++ toLE 4 recs.length ++ toLE 4 holdS ++ toLE 4 epoch ++ toLE 4 g.length ++ zeros 8 ++
    comp ++ g ++ recs.flatMap id

/-- The sections of a session's hank in ascending TYPE (R178). -/
def hankSections (desc guesses spool : Bytes) (request : Option Bytes) (kv : Option (Bytes × Bytes)) (resid : Option Bytes) :
    List (Nat × Bytes) :=
  [(1, desc ++ guesses), (2, spool)] ++ (request.map fun r => (3, r)).toList ++
    (match kv with | some (i, p) => [(4, i), (5, p)] | none => []) ++ (resid.map fun r => (6, r)).toList

/-- The guesses record: COUNT and three token IDs (R178). -/
def guessBytes (g : List Nat) : Bytes := toLE 4 g.length ++ fitTo 12 (g.flatMap (toLE 4))

/-- Tiles of 64 KiB of a section's content. -/
def tilesOf (b : Bytes) : List Bytes := (chunksOf 65536 b).map (fitTo 65536)

/-- The section table of 256 bytes (R178). -/
def sectionTable (ss : List (Nat × Bytes)) : Bytes :=
  let r := ss.foldl (fun (st : Nat × Bytes) e =>
    let n := Nat.max 1 (ceilDiv e.2.length 65536)
    (st.1 + n, st.2 ++ toLE 1 e.1 ++ zeros 7 ++ toLE 4 st.1 ++ toLE 4 n ++ toLE 8 e.2.length ++ zeros 8)) (0, [])
  fitTo 256 r.2

/-- Length of a hank of `n` data tiles (R176). -/
def hankLen (n : Nat) : Nat := 65536 * (1 + n + ceilDiv (16 * n) 65536)

/-- What the header of a hank names beside the session (R177). -/
structure HankIds where
  full : Bool
  transport : Bool
  hankId : Nat
  keySlot : Nat
  keyGen : Nat
  source : Nat
  handoffId : Nat
  stamp : Nat
  deriving DecidableEq, Repr

/-- The first 512 bytes of a hank with HANK_DIGEST as given (R176, R177). -/
def hankHead (i : HankIds) (idx : Nat) (x : Session) (nData nSect : Nat) (sections : Bytes) (digest : Digest) : Bytes :=
  toLE 4 0x4B4E4148 ++ toLE 2 3 ++ toLE 1 (if i.full then 1 else 0) ++ toLE 1 (if i.transport then 1 else 0) ++
  toLE 8 (hankLen nData) ++ toLE 8 i.hankId ++ toLE 4 nData ++ toLE 2 i.keySlot ++ zeros 2 ++ toLE 4 i.keyGen ++
  toLE 1 x.tenant ++ toLE 1 nSect ++ toLE 2 0x0100 ++ toLE 8 (handleOf idx x.gen) ++ digestBytes digest ++
  digestBytes x.model ++ digestBytes x.spoolDigest ++ toLE 8 i.stamp ++ toLE 4 x.hist.length ++
  toLE 4 (if i.full then x.kvlen else 0) ++ toLE 1 x.psize ++ toLE 1 (if x.condensed then 1 else 0) ++ zeros 2 ++
  toLE 4 x.spoolSeq ++ toLE 8 i.source ++ toLE 8 i.handoffId ++ zeros 24 ++ sections

/-- The GCM IV of data tile i (R179). -/
def tileIv (i : Nat) : Bytes := zeros 4 ++ toLE 8 i

/-- A hank's tiles with their byte offsets, in write order (data tiles, tag table, header; R184), and its digest (R179). -/
def buildHank (i : HankIds) (key : Bytes) (idx : Nat) (x : Session) (ss : List (Nat × Bytes)) : List (Nat × Bytes) × Digest :=
  let data := ss.flatMap fun e => match tilesOf e.2 with | [] => [zeros 65536] | ts => ts
  let table := sectionTable ss
  let aad := hankHead i idx x data.length ss.length table 0
  let enc := data.zipIdx.map fun (t, k) => Aes.gcmEncrypt key (tileIv k) aad t
  let tags := tilesOf (enc.flatMap (·.2))
  let digest := Sha.sha384 (aad ++ tags.flatMap id)
  let head := fitTo 65536 (hankHead i idx x data.length ss.length table digest)
  ((enc.zipIdx.map fun (e, k) => (65536 * (1 + k), e.1)) ++
    (tags.zipIdx.map fun (t, k) => (65536 * (1 + data.length + k), t)) ++ [(0, head)], digest)

/-- The hank key of a tenant generation (R310). -/
def hankKey (slotKey : Key) (slot gen hankId : Nat) : Bytes :=
  Sha.hkdf (keyBytes slotKey) (label "E9 HANK" ++ toLE 2 slot ++ toLE 4 gen ++ toLE 8 hankId) 32

/-- The layout checks of REVIVE on a header tile and its section table (R185): MAGIC, reserved fields, sections. -/
def hankLayoutOk (h : Bytes) : Bool :=
  let n := fieldAt h 37 1
  let full := fieldAt h 6 1 = 1
  let sect (k : Nat) := sliceAt h (256 + 32 * k) 32
  let types := (List.range n).map fun k => fieldAt (sect k) 0 1
  let kvEq := fieldAt h 204 4 = fieldAt h 200 4
  let firsts := (List.range n).map fun k => fieldAt (sect k) 8 4
  let counts := (List.range n).map fun k => fieldAt (sect k) 12 4
  let runs := (counts.foldl (fun (a : List Nat) c => a ++ [a.getLast?.getD 0 + c]) [0])
  fieldAt h 0 4 = 0x4B4E4148 && fieldAt h 6 1 ≤ 1 && fieldAt h 7 1 ≤ 1 && zeroAt h 30 2 && zeroAt h 210 2 &&
  zeroAt h 232 24 && zeroAt h 512 65024 && 2 ≤ n && n ≤ 8 && 1 ≤ fieldAt h 24 4 && fieldAt h 36 1 ≤ 63 &&
  fieldAt h 16 8 ≠ 0 && (fieldAt h 7 1 = 0 || (fieldAt h 28 2 = 0 && fieldAt h 32 4 = 0)) &&
  (fieldAt h 7 1 = 1 || fieldAt h 224 8 = 0) && (full || fieldAt h 204 4 = 0) && fieldAt h 209 1 ≤ 1 &&
  [16, 32, 64, 128].contains (fieldAt h 208 1) && fieldAt h 8 8 = hankLen (fieldAt h 24 4) &&
  types.take 2 = [1, 2] && (types.zip (types.drop 1)).all (fun (a, b) => a < b) && types.all (· ≤ 6) &&
  types.contains 4 == full && types.contains 5 == full && types.contains 6 == (full && kvEq) &&
  (List.range n).all (fun k => zeroAt (sect k) 1 7 && zeroAt (sect k) 24 8 &&
    Nat.max 1 (ceilDiv (fieldAt (sect k) 16 8) 65536) = counts.getD k 0 && firsts.getD k 0 = runs.getD k 0) &&
  runs.getLast?.getD 0 = fieldAt h 24 4 && zeroAt h (256 + 32 * n) (256 - 32 * n)

/-- The digest of R179 of a header tile and its tag table. -/
def hankDigestOf (h tags : Bytes) : Digest := Sha.sha384 (overwrite (h.take 512) 48 (zeros 48) ++ tags)

/-- The content of a section of a hank from its plaintext data tiles, if it is present. -/
def sectionOf (h : Bytes) (plain : Tbl Bytes) (ty : Nat) : Option Bytes :=
  ((List.range (fieldAt h 37 1)).find? fun k => fieldAt h (256 + 32 * k) 1 = ty).map fun k =>
    let o := 256 + 32 * k
    (((List.range (fieldAt h (o + 12) 4)).flatMap fun j => (Tb.get plain (fieldAt h (o + 8) 4 + j)).getD []).take
      (fieldAt h (o + 16) 8))

end Sys2Proof.Machine
end

