-- ==== Sys2Proof/Machine/Work.lean ====
section
/-! DEFINITION. Units: energy estimates, queues, admission into a slot, abandonment (R37 to R44, R207, R208, R210). -/
namespace Sys2Proof.Machine

/-- The class of a unit (R31). -/
def UnitKind.cls : UnitKind → SlotClass
  | .tokenize _ => .admission | .lookup _ => .admission | .prefill _ => .prefill | .decode _ => .decode
  | .parkTile _ _ => .park | .reviveTile _ _ => .revive | .searchPass _ _ => .search | .chkptTile _ => .chkpt
  | .compact _ => .house | .prune _ => .house | .sweep _ => .house | .reencrypt _ _ => .house | .modelFree _ => .house
  | .adapterFree _ _ => .house | .sessionMove _ => .house | .reshard _ _ => .house | .bistUpkeep => .house

/-- A code of the kind, for the estimate and for the KIND byte of UNIT_ENDED (R42, R350), which the spec gives no encoding.
DESIGN CHOICE (log 121). -/
def UnitKind.code : UnitKind → Nat
  | .tokenize _ => 1 | .lookup _ => 2 | .prefill _ => 3 | .decode _ => 4 | .parkTile _ _ => 5 | .reviveTile _ _ => 6
  | .searchPass _ _ => 7 | .chkptTile _ => 8 | .compact _ => 9 | .prune _ => 10 | .sweep _ => 11 | .reencrypt _ _ => 12
  | .modelFree _ => 13 | .adapterFree _ _ => 14 | .sessionMove _ => 15 | .reshard _ _ => 16 | .bistUpkeep => 17

/-- A unit that belongs to no tenant and that R39 exempts (R37). -/
def UnitKind.isSystem : UnitKind → Bool
  | .modelFree _ => true | .adapterFree _ _ => true | .reshard _ _ => true | .bistUpkeep => true | _ => false

/-- The base term of R362. -/
def baseUj : SlotClass → Nat
  | .empty => 0 | .admission => 20 | .house => 20 | .prefill => 200 | .decode => 200 | .search => 50
  | .park => 10 | .revive => 10 | .chkpt => 10

/-- An energy estimate in whole µJ, rounded up (R362); the amounts of work are the configuration's (log entry 9). -/
def estimateUj (k : UnitKind) (size n : Nat) : Nat :=
  let w := Config.work k.code size n
  let pico := baseUj k.cls * 10 ^ 9 + w.memoryMib * (20 * 10 ^ 9) + w.mx4Passes * 2500000 + w.mx8Passes * 4000000 +
    w.bf16Passes * 7000000 + w.blocks * 1000000 + w.pqEntries * 40 + w.twineMib * (8 * 10 ^ 9) +
    w.hostTiles * (6 * 10 ^ 9) + w.sramMib * (2 * 10 ^ 9)
  ceilDiv pico (10 ^ 9)

/-- The row of the schedule table that tick n uses (R25). -/
def State.row (s : State) : List SlotEntry := s.tk.table.rows.getD (s.tk.tick % 64) []

/-- The largest ENERGY_UJ of the active table's slots of a class that admits tenants (R39). -/
def State.largestEnergy (s : State) (c : SlotClass) (tenant : Option Nat) : Nat :=
  (s.tk.table.rows.flatten.filter fun e => e.cls = c && match tenant with
    | some t => e.tenants.testBit t | none => true).foldl (fun a e => Nat.max a e.energyUj) 0

/-- The check of R39 for a unit that a command would create. -/
def State.energyOk (s : State) (k : UnitKind) (size : Nat) (tenant : Option Nat) : Bool :=
  k.isSystem || estimateUj k size s.grp.n ≤ s.largestEnergy k.cls tenant

/-- The order of a class queue (R37): queue stamp, then session index, then the order of making.
DESIGN CHOICE (log 17). -/
def UnitKey.before (a b : UnitKey) : Bool :=
  a.stamp < b.stamp || (a.stamp = b.stamp && (a.session < b.session || (a.session = b.session && a.sub ≤ b.sub)))

/-- The size of the next piece of work (R39): system work is cut so that a piece's estimate is at most the largest ENERGY_UJ of its
class's slots. -/
def State.pieceOf (s : State) (k : UnitKind) (size : Nat) : Nat :=
  if !k.isSystem then size else
  (((List.range size).reverse.map (· + 1)).find? fun n => estimateUj k n s.grp.n ≤ s.largestEnergy k.cls none).getD (Nat.min size 1)

/-- A unit put into its queue with a queue stamp (R37); of system work the first piece (R39). -/
def State.addUnit (s : State) (k : UnitKind) (tenant session : Option Nat) (size stamp : Nat) (group : Bool) : State :=
  let n := s.pieceOf k size
  let u : UnitRec := { key := ⟨stamp, session.getD (2 ^ 24), s.work.nextSub⟩, cls := k.cls, kind := k, tenant := tenant
                       session := session, est := estimateUj k n s.grp.n, abandons := 0, lastSlot := 16, group := group
                       paused := none, size := n, left := size - n, notIn := [], tags := [] }
  { s with work.queue := (s.work.queue ++ [u]).mergeSort (fun a b => a.key.before b.key), work.nextSub := s.work.nextSub + 1 }

/-- A unit of a kind is queued, running, finished, in doubt or deferred. -/
def State.hasUnit (s : State) (p : UnitKind → Bool) : Bool :=
  s.work.queue.any (fun u => p u.kind) || s.work.running.any (fun e => p e.2.kind) ||
  (s.work.done ++ s.work.deferred ++ s.work.inDoubt.map (·.2)).any fun i => match i.unit with
    | some u => p u.kind | none => false

/-! ### Needs -/

/-- Spindles of this device that hold a session's KV, with those that are to hold positions `first` to `last`, as engine bits
(R32, R105, R106, R107). -/
def State.spindleBits (s : State) (x : Session) (first last : Nat) : Nat :=
  let held := (x.pageMap.flatMap id).flatMap fun e => match Tb.get s.kv.pages e.2 with
    | none => []
    | some p => (s.localHeads p.data.heads.length p.psize p.layer p.data.idx).map fun h =>
        spindleOf s.grp.n p.data.heads.length p.psize p.layer h p.data.idx % 12
  let made := match s.modelOf x.model with
    | none => []
    | some m => (List.range m.2.arch.layers).flatMap fun l =>
        ((List.range (last / 512 + 1)).drop (first / 512)).flatMap fun stripe =>
          let i := stripe * 512 / Nat.max x.psize 1
          (s.localHeads m.2.arch.kvHeads x.psize l i).map fun h => spindleOf s.grp.n m.2.arch.kvHeads x.psize l h i % 12
  (List.range 12).foldl (fun a g => if held.contains g || made.contains g then a + 2 ^ g else a) 0

/-- Where the next prefill slice of a session ends (R106, R134, R140, R187): for a request at LEN - 1 or at CONDENSE_AT, for a rebuild
at the target or at the next switch of format. -/
def State.sliceEnd (s : State) (idx : Nat) (x : Session) : Nat :=
  match Tb.get s.ss.rebuilds idx with
  | some rb =>
    let stop := ((rb.formats.filter fun f => x.kvlen < f).min?).getD rb.target
    Nat.min (x.kvlen + rb.nextSlice) (Nat.min rb.target stop)
  | none => match Tb.get s.ss.reqs x.reqId with
    | none => x.kvlen
    | some q =>
      let last := x.hist.length - 1
      Nat.min (x.kvlen + q.nextSlice) (if !x.condensed && x.kvlen < q.condenseAt then Nat.min last q.condenseAt else last)

/-- The queries of a scan group, or those that it would take if it formed now (R232). -/
def State.groupQueries (s : State) (gr : ScanGroup) : List (Nat × Query) :=
  if !gr.queries.isEmpty then gr.queries.filterMap fun k => (Tb.get s.st.queries k).map fun q => (k, q) else
  ((s.st.queries.filter fun q => q.2.store = gr.store && q.2.ver = gr.ver && q.2.group.isNone).mergeSort
    fun a b => a.2.stamp ≤ b.2.stamp).take 64

/-- The Spindles that have bytes to read in a pass (R233, R234), as engine bits. -/
def State.passSpindles (s : State) (g p : Nat) : Nat :=
  match Tb.get s.st.groups g with
  | none => 0
  | some gr => match (Tb.get s.st.stores gr.store).bind fun st => (st.mains.find? fun m => m.ver = gr.ver).map fun m => (st, m) with
    | none => 0
    | some (st, ml) =>
      let hi := (s.groupQueries gr).foldl (fun a q => Nat.max a q.2.snap) 0
      (List.range 12).foldl (fun a i =>
        if p * passBytes < (((st.spindleRun ml s.glb.rank hi i).getLast?.map (·.1)).getD 0) then a + 2 ^ i else a) 0

/-- The size that a unit's estimate goes by when it is admitted (R38): the positions of a prefill slice, the queries of a search
pass. -/
def State.sizeOf (s : State) (u : UnitRec) : Nat :=
  match u.kind with
  | .prefill i => match Tb.get s.ss.sessions i with
    | some x => s.sliceEnd i x - x.kvlen
    | none => u.size
  | .searchPass g _ => match Tb.get s.st.groups g with
    | some gr => (s.groupQueries gr).length
    | none => u.size
  | _ => u.size

/-- A unit with its present size and estimate (R38). -/
def State.sized (s : State) (u : UnitRec) : UnitRec :=
  { u with size := s.sizeOf u, est := estimateUj u.kind (s.sizeOf u) s.grp.n }

/-- The engines that a unit needs (R32; log entry 10 for those that the spec does not list). -/
def State.engines (s : State) (u : UnitRec) : Nat :=
  match u.kind with
  | .tokenize _ => 2 ^ 14
  | .lookup i => match Tb.get s.ss.sessions i with
    | some x => if s.treeHere x.tenant then 2 ^ (x.tenant % 12) else 0 | none => 0
  | .prefill i => match Tb.get s.ss.sessions i with
    | some x => 0x3000 + s.spindleBits x x.kvlen (s.sliceEnd i x - 1) | none => 0x3000
  | .decode r => match Tb.get s.ss.reqs r with
    | some q => match Tb.get s.ss.sessions q.session with
      | some x => 0x3000 + s.spindleBits x x.kvlen (x.hist.length - 1 + (if q.firstStep then 0 else q.specWidth)) +
          (if q.grammar.isSome then 2 ^ 15 else 0)
      | none => 0x3000
    | none => 0x3000
  | .parkTile _ _ => 2 ^ 16 | .reviveTile _ _ => 2 ^ 16 | .chkptTile _ => 2 ^ 16
  | .searchPass g p => s.passSpindles g p
  | .compact _ => 0xFFF
  | .prune t => if s.treeHere t then 2 ^ (t % 12) else 0
  | .sweep _ => 0xFFF | .reencrypt _ _ => 0xFFF
  | .modelFree _ => 0 | .adapterFree _ _ => 0 | .bistUpkeep => 0
  | .sessionMove _ => 0x10FFF | .reshard _ _ => 2 ^ 16

/-- Units that share their engines with others of the slot (R37). -/
def SlotClass.shares : SlotClass → Bool
  | .decode => true | .prefill => true | .search => true | _ => false

/-- Units that count as work of their session (R37 third item). -/
def SlotClass.ofSession : SlotClass → Bool
  | .admission => true | .prefill => true | .decode => true | _ => false

/-- Bobbins that a unit needs (R207): on Carding die 0, Carding die 1, and each Spindle it uses. -/
def State.bobbins (s : State) (u : UnitRec) : Nat × Nat × Nat :=
  match u.kind with
  | .prefill i => match Tb.get s.ss.sessions i with
    | none => (0, 0, 0)
    | some x => match s.modelOf x.model with
      | none => (0, 0, 0)
      | some m =>
        let a := m.2.arch
        let n := Nat.max s.grp.n 1
        let slice := s.sliceEnd i x - x.kvlen
        let on (d : Nat) := ((List.range a.kvHeads).filter fun h => h % n = s.glb.rank && h / n % 2 = d).length
        let need (k : Nat) := if k = 0 then 0 else ceilDiv (2 * slice * a.headDim * a.layers * k) 1048576 + 2
        (need (on 0), need (on 1), 0)
  | .decode _ => (0, 0, 1)
  | .searchPass g _ => match Tb.get s.st.groups g with
    | none => (0, 0, 0)
    | some gr => match Tb.get s.st.stores gr.store with
      | none => (0, 0, 0)
      | some st =>
        (0, 0, ceilDiv ((s.groupQueries gr).length * st.m) 1024 + 1)
  | _ => (0, 0, 0)

/-- All bobbins of a need on the device. -/
def State.bobbinSum (s : State) (u : UnitRec) : Nat :=
  let b := s.bobbins u
  let k := ((List.range 12).filter fun i => (s.engines u).testBit i).length
  b.1 + b.2.1 + b.2.2 * k

/-- The bobbin skips of R207: the tenant's holding, and each die's free bobbins. -/
def State.bobbinsOk (s : State) (u : UnitRec) : Bool :=
  let b := s.bobbins u
  let busy := s.work.running.map (·.2) ++ (s.work.done.filterMap (·.unit))
  let mine := busy.filter fun v => v.tenant = u.tenant
  let quota := match u.tenant with | some t => ((Tb.get s.ten.tenants t).map (·.bobbins)).getD 0 | none => 896
  let spin (i : Nat) := (busy.map fun v => if (s.engines v).testBit i then (s.bobbins v).2.2 else 0).sum
  decide ((mine.map s.bobbinSum).sum + s.bobbinSum u ≤ quota) &&
  decide ((busy.map fun v => (s.bobbins v).1).sum + b.1 ≤ 256) &&
  decide ((busy.map fun v => (s.bobbins v).2.1).sum + b.2.1 ≤ 256) &&
  (List.range 12).all fun i => !(s.engines u).testBit i || spin i + b.2.2 ≤ 32

/-- The park store that a tile unit uses. -/
def State.storeOf (s : State) (k : UnitKind) : Option Nat :=
  match k with
  | .parkTile c _ => (Tb.get s.ss.copies c).bind fun c => match c.for_ with
    | .park st .. => some st | .epochPark st _ => some st | .handoff _ => none | .chkpt => none
  | .reviveTile r _ => (Tb.get s.ss.revivals r).map (·.store)
  | .chkptTile _ => s.chkpt.map (·.store)
  | _ => none

/-- A park store under the map in force; for a transfer whose units were queued before the map's activation, its entry in
the old map while the drain runs (R195). -/
def State.parkStore (s : State) (k stamp : Nat) : Option ParkStore :=
  match s.ten.old with
  | some o => if stamp / 65536 < o.2.2 then Tb.get o.1.stores k else Tb.get s.ten.map.stores k
  | none => Tb.get s.ten.map.stores k

/-- The tenant whose PARK_TILES a tile counts against (R208): a CHKPT tile, which no tenant's unit writes, takes the credit of the
tenant of the session that its first byte belongs to; none for a tile of the shard's own tables. DESIGN CHOICE (log 122). -/
def State.tileTenant (s : State) (u : UnitRec) : Option Nat :=
  match u.kind with
  | .chkptTile i => s.chkpt.bind fun k => (k.owners[i]?).join
  | _ => u.tenant

/-- The park credits that a tile takes are free (R200, R208). -/
def State.creditsOk (s : State) (u : UnitRec) : Bool :=
  match s.storeOf u.kind with
  | none => true
  | some k =>
    (match s.parkStore k u.key.stamp with
      | some st => (Tb.get s.work.storeCredits k).getD 0 < st.rate
      | none => false) &&
    match s.tileTenant u with
    | none => true
    | some t => (Tb.get s.work.tenantTiles t).getD 0 < ((Tb.get s.ten.tenants t).map (·.parkTiles)).getD 0

/-- The model slot that a unit uses (R43, R95). -/
def State.modelSlotOf (s : State) (k : UnitKind) : Option Nat :=
  let byIdx (i : Nat) := (Tb.get s.ss.sessions i).bind fun x => (s.modelOf x.model).map (·.1)
  match k with
  | .prefill i => byIdx i | .lookup i => byIdx i
  | .decode r => (Tb.get s.ss.reqs r).bind fun q => byIdx q.session
  | .tokenize r => (Tb.get s.ss.reqs r).bind fun q => byIdx q.session
  | .modelFree k => some k | .reshard k _ => some k
  | _ => none

/-- Pages of a session that hold a position from `first` on: what a unit that stores KV from there appends to, or replaces by a
copy-on-write (R43, R121). -/
def State.pagesFrom (s : State) (idx : Nat) : List Nat :=
  match Tb.get s.ss.sessions idx with
  | none => []
  | some x => (x.pageMap.flatMap id).filterMap fun e => if x.kvlen < (e.1 + 1) * x.psize then some e.2 else none

/-- The lock and credit set of a unit (R43, R210), each entry with whether the unit holds it alone: pages, a side list, and a model
slot for the unit that frees it. Any number of units share the other entries: a store's credits count by R200, and the spec gives
link credits no number and lets the units of one slot share its engines, the Flyers among them. DESIGN CHOICE (log 123). -/
def State.lockSet (s : State) (u : UnitRec) : List (Lock × Bool) :=
  let spindles := (List.range 12).filter fun i => (s.engines u).testBit i
  let fly (n : Nat) : List (Lock × Bool) := spindles.map fun i => (.flyer (32 + 4 * i + n), false)
  let pages (l : List Nat) : List (Lock × Bool) := l.dedup.map fun p => (.page p, true)
  (u.session.map fun i => (Lock.session i, false)).toList ++
  ((s.modelSlotOf u.kind).map fun k => (Lock.model k, match u.kind with | .modelFree _ => true | _ => false)).toList ++
  ((s.storeOf u.kind).map fun k => (Lock.park k, false)).toList ++
  match u.kind with
  | .tokenize _ => [] | .lookup _ => fly 0
  | .prefill i => pages (s.pagesFrom i) ++ fly 0
  | .decode r => pages (((Tb.get s.ss.reqs r).map fun q => s.pagesFrom q.session).getD []) ++ fly 0
  | .parkTile c _ => match (Tb.get s.ss.copies c).map Copy.for_ with
    | some (.handoff _) => [(.link 0, false), (.flyer 16, false)]
    | _ => [(.flyer 0, false)]
  | .reviveTile _ _ => [(.flyer 0, false)] | .chkptTile _ => [(.flyer 0, false)]
  | .searchPass _ _ => fly 3 ++ if s.grp.n ≤ 1 then [] else [(.link 0, false)]
  | .compact k => (.store k, true) :: fly 3
  | .prune _ => fly 2
  | .sweep p => pages (((Tb.get s.kv.purges p).map (·.pages)).getD []) ++ fly 2
  | .reencrypt _ _ => fly 2
  | .sessionMove _ => (.link 0, false) :: (.flyer 16, false) :: fly 0
  | .reshard _ _ => [(.link 0, false), (.flyer 16, false)]
  | .modelFree _ => [] | .adapterFree _ _ => [] | .bistUpkeep => []

/-- A unit of the session is running, or waits to commit in this tick (R37). -/
def State.sessionTaken (s : State) (idx : Nat) : Bool :=
  s.work.running.any (fun e => e.2.session = some idx && e.2.cls.ofSession) ||
  s.work.done.any fun i => match i.unit with | some u => u.session = some idx && u.cls.ofSession | none => false

/-- The session has a unit in doubt (R49) or deferred effects (R51): no unit of it starts. -/
def State.sessionHeld (s : State) (idx : Nat) : Bool :=
  s.work.inDoubt.any (fun i => i.2.session = some idx) || s.work.deferred.any (fun i => i.session = some idx) ||
    s.work.lateReqs.any fun r => ((Tb.get s.ss.reqs r).map (·.session)) = some idx

/-- The request that a unit works for is under an accepted CANCEL (R163). -/
def State.cancelled (s : State) (k : UnitKind) : Bool :=
  let on (q : Option Req) := match q with | some q => q.cancel.isSome | none => false
  match k with
  | .tokenize r => on (Tb.get s.ss.reqs r) | .decode r => on (Tb.get s.ss.reqs r)
  | .prefill i => on ((Tb.get s.ss.sessions i).bind fun x => Tb.get s.ss.reqs x.reqId)
  | .lookup i => on ((Tb.get s.ss.sessions i).bind fun x => Tb.get s.ss.reqs x.reqId)
  | _ => false

/-- The units that hold locks and credits now: those that run, and the finished ones until the commit point (R44). -/
def State.lockHolders (s : State) : List UnitRec := s.work.running.map (·.2) ++ s.work.done.filterMap (·.unit)

/-- The side lists that staged commands of the tick hold alone (R43, R225). -/
def State.stagedLocks (s : State) : List (Lock × Bool) :=
  (s.work.steward.flatMap (·.effs)).filterMap fun e => match e with | .storeAppend k _ => some (.store k, true) | _ => none

/-- The whole lock set of a unit is granted (R43): no other unit holds an entry of it that either holds alone, the model has no
shard to move first (R298), and the ledger has room. Each entry of a set takes one of the ledger's 262,144, and no two units share
one; R43 does not say. DESIGN CHOICE (log 124). -/
def State.locksOk (s : State) (u : UnitRec) : Bool :=
  let mine := s.lockSet u
  let held := s.lockHolders.flatMap s.lockSet ++ s.stagedLocks
  (mine.all fun a => held.all fun b => a.1 ≠ b.1 || !(a.2 || b.2)) &&
  (match s.modelSlotOf u.kind, u.kind with
    | _, .reshard _ _ => true | _, .modelFree _ => true
    | some k, _ => !s.grp.reshards.contains k
    | none, _ => true) &&
  decide (held.length + mine.length ≤ 262144)

/-- The token shaper lets a DECODE unit start (R284): a member's shaper governs the sessions that it samples. -/
def State.shaperOk (s : State) (u : UnitRec) : Bool :=
  if !(u.session.map s.samples).getD true then true else
  match u.cls, u.tenant with
  | .decode, some t => match Tb.get s.ten.tenants t with | some x => decide (1000000 ≤ x.bucket) | none => false
  | _, _ => true

/-- The session may run units: its moves are committed, its KV is not waiting for a rebuild of its own (R297). -/
def State.sessionReady (s : State) (u : UnitRec) : Bool :=
  match u.session, u.kind with
  | some i, .decode _ => !Tb.has s.grp.moves i && !Tb.has s.ss.rebuilds i
  | some i, .tokenize _ => !Tb.has s.grp.moves i
  | some i, .prefill _ => !Tb.has s.grp.moves i
  | some i, .lookup _ => !Tb.has s.grp.moves i
  | _, _ => true

/-- Two tiles of one background transfer (R217). -/
def UnitKind.sameTransfer : UnitKind → UnitKind → Bool
  | .parkTile a _, .parkTile b _ => a = b
  | .reviveTile a _, .reviveTile b _ => a = b
  | .chkptTile _, .chkptTile _ => true
  | .reshard a _, .reshard b _ => a = b
  | _, _ => false

/-- A search pass may start: its group has queries, and no earlier pass of it was abandoned in this tick (R232, R233). -/
def State.passReady (s : State) (u : UnitRec) : Bool :=
  match u.kind with
  | .searchPass g p => match Tb.get s.st.groups g with
    | some gr => !(s.groupQueries gr).isEmpty && (match gr.cut with | some (t, q) => !(t = s.tk.tick && q < p) | none => true)
    | none => false
  | _ => true

/-- A queued unit may start in a slot now, energy apart (R37, R43, R49, R51, R207, R208, R217, R284, R297, R298). -/
def State.mayStart (s : State) (e : SlotEntry) (k : Nat) (u : UnitRec) : Bool :=
  u.cls == e.cls && u.paused.isNone && !u.notIn.contains k && s.passReady u && !(s.work.queue.any fun v => v.paused.isSome && v.kind.sameTransfer u.kind) &&
  (match u.tenant with | some t => e.tenants.testBit t | none => true) &&
  (let need := s.engines u
   need &&& e.engines = need &&
   s.work.running.all fun r => r.1 != k || r.2.cls.shares || s.engines r.2 &&& need = 0) &&
  (match u.session with | some i => (!u.cls.ofSession || !s.sessionTaken i) && !s.sessionHeld i | none => true) &&
  s.locksOk u && s.creditsOk u && s.bobbinsOk u && s.shaperOk u && s.sessionReady u && !s.cancelled u.kind

/-- The park credits of an admitted tile taken (R208). -/
def State.takeCredits (s : State) (u : UnitRec) : State :=
  match s.storeOf u.kind with
  | none => s
  | some k =>
    let s := { s with work.storeCredits := Tb.set s.work.storeCredits k ((Tb.get s.work.storeCredits k).getD 0 + 1) }
    match s.tileTenant u with
    | none => s
    | some t => { s with work.tenantTiles := Tb.set s.work.tenantTiles t ((Tb.get s.work.tenantTiles t).getD 0 + 1) }

/-- The park credits of an abandoned or paused tile returned (R44, R217). -/
def State.returnCredits (s : State) (u : UnitRec) : State :=
  match s.storeOf u.kind with
  | none => s
  | some k =>
    let s := { s with work.storeCredits := Tb.set s.work.storeCredits k ((Tb.get s.work.storeCredits k).getD 0 - 1) }
    match s.tileTenant u with
    | none => s
    | some t => { s with work.tenantTiles := Tb.set s.work.tenantTiles t ((Tb.get s.work.tenantTiles t).getD 0 - 1) }

/-- DATA of a unit's trace records (R350). -/
def unitData (u : UnitRec) (slot : Nat) : Bytes :=
  toLE 1 u.cls.code ++ toLE 1 slot ++ toLE 1 (u.tenant.getD 0xFF) ++ zeros 1 ++ toLE 4 (u.session.getD 0) ++ toLE 4 u.est

/-- A scan group formed when its first pass is admitted (R232): up to 64 waiting queries of its store and version, in
ascending acceptance stamp; a query never joins a group later. -/
def State.formGroup (s : State) (g : Nat) : State :=
  match Tb.get s.st.groups g with
  | none => s
  | some gr =>
    if !gr.queries.isEmpty then s else
    let ids := (s.groupQueries gr).map (·.1)
    let f (e : Nat × Query) : Nat × Query := if ids.contains e.1 then (e.1, { e.2 with group := some g }) else e
    let qs : Tbl Query := s.st.queries.map f
    { s with st.queries := qs, st.groups := Tb.upd s.st.groups g fun gr => { gr with queries := ids } }

/-- The tags of the SRAM that a unit's engines fill (R305): plaintext of a PROTECTED tenant, plaintext of a sealed model, and keys
where its transfers are encrypted. DESIGN CHOICE (log 129). -/
def State.sramTags (s : State) (u : UnitRec) : List Nat :=
  (if ((u.tenant.bind (Tb.get s.ten.tenants)).map (·.isProtected)).getD false then [1] else []) ++
  (if (((s.modelSlotOf u.kind).bind (Tb.get s.img.models)).map (·.hdr.sealed_)).getD false then [2] else []) ++
  (match u.kind with | .parkTile _ _ => [3] | .reviveTile _ _ => [3] | .chkptTile _ => [3] | .reencrypt _ _ => [3] | _ => [])

/-- A unit started in a slot: its energy is drawn from the slot and the tick (R38), its locks and credits taken. -/
def State.startUnit (s : State) (k : Nat) (u : UnitRec) : State :=
  let slots : List (Nat × Nat) := s.tk.slots.map fun e => if e.1 = k then (e.1, e.2 - u.est) else e
  let s := { s with
    work.queue := s.work.queue.filter (fun v => v.key != u.key || v.kind != u.kind)
    work.running := s.work.running ++ [(k, { u with lastSlot := k, tags := s.sramTags u })]
    tk.slots := slots
    tk.allowLeft := s.tk.allowLeft - u.est }
  let s := match u.cls, u.tenant with
    | .decode, some t => { s with ten.tenants := Tb.upd s.ten.tenants t fun x => { x with decodeSeen := true } }
    | _, _ => s
  let s := match u.kind with | .searchPass g 0 => s.formGroup g | _ => s
  ((s.takeCredits u).count 1 (4 * (u.cls.code - 1)) 1).traceRec 0x0010 17 (unitData u k)

/-- Admission into a slot (R37): the class queue in order; a unit that may not start, or whose estimate the slot's or
the tick's energy does not cover, is skipped. The estimate goes by the unit's present size (R38). -/
def State.admitLoop (s : State) (e : SlotEntry) (k : Nat) : List UnitRec → State
  | [] => s
  | v :: r =>
    let u := s.sized v
    let left := ((s.tk.slots.find? fun x => x.1 = k).map (·.2)).getD 0
    if s.mayStart e k u && u.est ≤ left && u.est ≤ s.tk.allowLeft then (s.startUnit k u).admitLoop e k r
    else s.admitLoop e k r

/-- Admission into slot k at this moment: no unit starts after the slot's end minus 1 µs (R37).
DESIGN CHOICE (log 17). -/
def State.admission (s : State) (k : Nat) : State :=
  match s.row[k]? with
  | none => s
  | some e =>
    if s.tk.noUnits || !(s.tk.slots.any fun x => x.1 = k) || s.tk.startUs + e.startUs + e.budgetUs < s.timeUs + 1 then s
    else s.admitLoop e k (s.work.queue.filter fun u => u.cls = e.cls)

/-- TICK_ABANDON_CNT raised (R40, R52). -/
def TickSt.abandonOne (t : TickSt) : TickSt :=
  let c := Nat.min (t.abandonCnt + 1) 0x7FFFFFFF
  { t with abandonCnt := c, abandonSat := t.abandonSat || c = 0x7FFFFFFF }

/-- The next attempt of an abandoned prefill slice of n positions covers half as many (R41). -/
def halveSlice (n : Nat) : Nat := Nat.max 64 (n / 2 / 64 * 64)

/-- SHARDS of the store that a group unit works on (R225, R228), by the unit's name: a COMPACT unit, or a command on stores. -/
def State.keyShards (s : State) (key : UnitKey) : Option Word64 :=
  let of (k : Nat) : Option Word64 := (Tb.get s.st.stores k).map (·.shards)
  if 2 ^ 65 ≤ key.stamp then
    let c : Cmd := BitVec.ofNat 512 key.sub
    if Cmd.op c = 0x0501 && !(Cmd.fl c).testBit 0 then some (BitVec.ofNat 64 (fld c 16 8)) else of (fld c 8 1)
  else if 2 ^ 24 ≤ key.session && key.session < 2 ^ 24 + 256 then of (key.session - 2 ^ 24)
  else none

/-- The ranks that a group unit runs on (R47): SHARDS of its store, or every member, one that holds nothing of what the unit works on
included; it makes nothing there. DESIGN CHOICE (log 20). -/
def State.participants (s : State) (key : UnitKey) : List Nat :=
  match (s.keyShards key).map maskRanks with
  | some (r :: l) => (r :: l).filter (· < Nat.max s.grp.n 1)
  | _ => List.range (Nat.max s.grp.n 1)

/-- A group unit's coordinator: the lowest rank that it runs on (R47). -/
def State.coordinator (s : State) (key : UnitKey) : Nat := (s.participants key).head?.getD 0

/-- The name that a unit's attempt in a tick goes by in messages (R48, R293): on every member the same for a group unit, since a
session runs one of its units in a tick; else the unit's key here. DESIGN CHOICE (log 71). -/
def UnitRec.nameAt (u : UnitRec) (tick : Nat) : UnitKey :=
  if u.group then ⟨tick, match u.kind with | .compact k => 2 ^ 24 + k | .prune t => 2 ^ 25 + t | _ => u.key.session, u.kind.code⟩ else u.key

/-- A report to the coordinator: NOT_READY (R48), from a participant. -/
def State.sendNotReady (s : State) (key : UnitKey) : State :=
  if s.grp.n ≤ 1 || !(s.participants key).contains s.glb.rank then s
  else if s.glb.rank = s.coordinator key then { s with work.votes := s.work.votes ++ [((key, s.glb.rank, false) : UnitKey × Nat × Bool)] }
  else s.sendMsg (.rank (s.coordinator key)) 0 (.notReady key)

/-- A running unit abandoned (R40, R41, R44, R233): no effect, its queue stamp kept, its locks and credits returned.
DESIGN CHOICE (log 106). -/
def State.abandonUnit (s : State) (k : Nat) (u : UnitRec) : State :=
  let s := { s with
    work.running := s.work.running.filter fun e => e.2.key != u.key || e.2.kind != u.kind
    work.queue := (s.work.queue ++ [{ u with abandons := u.abandons + 1, lastSlot := k, tags := [] }]).mergeSort
      (fun a b => a.key.before b.key)
    tk := s.tk.abandonOne }
  let s := match u.kind with
    | .searchPass g p => { s with st.groups := Tb.upd s.st.groups g fun gr => { gr with cut := some (s.tk.tick, match gr.cut with
        | some (t, q) => if t = s.tk.tick then Nat.min p q else p
        | none => p) } }
    | .prefill i => match Tb.get s.ss.sessions i with
      | none => s
      | some x =>
        let n := halveSlice (s.sliceEnd i x - x.kvlen)
        if Tb.has s.ss.rebuilds i then { s with ss.rebuilds := Tb.upd s.ss.rebuilds i fun r => { r with nextSlice := n } }
        else s.updReq x.reqId fun q => { q with nextSlice := n }
    | _ => s
  let name := u.nameAt s.tk.tick
  let s := if u.group && s.grp.n > 1 && !(s.work.decisions.any fun d => d.key = name) then s.sendNotReady name else s
  ((s.returnCredits u).count 1 (4 * (u.cls.code - 1) + 2) 1).traceRec 0x0012 17 (unitData u k)

/-- A tile of a background transfer that meets a page known not present pauses (R217): its unit gives up its slot and its
credits and waits for the page; a page request goes out (R216). -/
def State.pauseUnit (s : State) (k : Nat) (u : UnitRec) (sp : HostSpace) (page : Nat) : State :=
  let s := { s with
    work.running := s.work.running.filter fun e => e.2.key != u.key || e.2.kind != u.kind
    work.queue := (s.work.queue ++ [{ u with paused := some (sp, page), lastSlot := k, tags := [] }]).mergeSort
      (fun a b => a.key.before b.key) }
  let s := s.askPage sp page
  ((s.returnCredits u).count 3 4 1).admission k

/-- A running unit by its key number within the row's operand: the place in the running list. -/
def State.runningAt (s : State) (i : Nat) : Option (Nat × UnitRec) := s.work.running[i]?

/-- A running unit finished with its effects: they go to staging (R45); a group unit reports READY (R48), spool entries
and request mirror records go to the buddy first (R293, R341); freed engines let queued units start (R37). -/
def State.finishUnit (s : State) (k : Nat) (u : UnitRec) (effs : List Effect) (ms : List MirrorEntry) : State :=
  let s := { s with
    work.running := s.work.running.filter fun e => e.2.key != u.key || e.2.kind != u.kind
    work.done := s.work.done ++ [(⟨some u, k, u.session, effs⟩ : Item)] }
  let s := if s.grp.n > 1 && !ms.isEmpty && (match u.session with | some i => s.samples i | none => false) then
    s.sendMsg (.rank ((s.glb.rank + 1) % s.grp.n)) 0 (.mirror (u.nameAt s.tk.tick) ms) else s
  s.admission k

end Sys2Proof.Machine
end

