-- ==== Sys2Proof/Machine/Requests.lean ====
section
/-! DEFINITION. What happens to a request at a commit point: its input enters the history, its units follow one
another, its tokens are committed, checked against stop strings and published, it completes (R133 to R166). -/
namespace Sys2Proof.Machine

/-- The model of a session, while it is in a slot. -/
def State.archOf (s : State) (x : Session) : Option Arch := (s.modelOf x.model).map (·.2.arch)

/-- The loaded vocabulary of a model (R83, R97). -/
def State.vocabFor (s : State) (d : Digest) : Option Vocab :=
  (s.modelOf d).bind fun m => (s.img.vocabs.find? fun e => e.2.digest = m.2.hdr.vocabDigest).map (·.2)

/-- Output tokens the request has in the history (R139, R250). -/
def Req.tokens (q : Req) : Nat := q.out.length

/-- The remaining count (R139). -/
def Req.remaining (q : Req) (maxPos len : Nat) : Nat := Nat.min (q.maxNew - q.out.length) (maxPos - len)

/-- The reason code (R250). -/
def Reason.code : Reason → Nat
  | .eos => 1 | .stop => 2 | .maxlen => 3 | .cancelled => 4 | .stall => 5 | .parkedOnEpoch => 6

/-- Removal of history positions from `n` on (R161, R164 to R166): KV cut, kept states cut; if the residual state of the
new last position is not kept, its KV goes too (R137). The tree position moves up with the cut. DESIGN CHOICE (log 116). -/
def State.cutHist (s : State) (idx n : Nat) : State :=
  let s := s.updSess idx fun x => { x with
    hist := x.hist.take n, guesses := [], globals := x.globals.filter (· < n),
    residuals := x.residuals.filter fun e => e.1 < n, marks := x.marks.filter fun m => m.1 ≤ n }
  let s := (s.cutKv idx n).liftTree idx n
  match Tb.get s.ss.sessions idx with
  | none => s
  | some x => if x.kvlen = n && 0 < n && !Tb.has x.residuals (n - 1) then s.cutKv idx (n - 1) else s

/-- A removal that would reach a page dropped by trimming releases all KV for a later recompute (R112, R165, R166). -/
def State.cutOrRelease (s : State) (idx n : Nat) : State :=
  match Tb.get s.ss.sessions idx with
  | none => s
  | some x =>
    if n < x.kvlen && s.reachesDropped x n then ((s.releaseKv idx).cutHist idx n).updSess idx fun x => { x with rebuild := true }
    else s.cutHist idx n

/-- The grammar state after position `len - 1`, from the newest kept mark at or below that length (R137). -/
def Session.grammarAt (x : Session) (g : Option Grammar) (len : Nat) : Option GState :=
  match g, (x.marks.filter fun m => m.1 ≤ len).head? with
  | some gr, some (k, some st) => some (((x.hist.drop k).take (len - k)).foldl gr.advance st)
  | _, _ => none

/-- The next unit of a request after its input stands in the history (R126, R134, R158): a look-up for a session
without KV, then prefill up to LEN - 2, then decode steps. A rebuild comes first (R297, R339). -/
def State.nextPhase (s : State) (r stamp : Nat) : State :=
  match Tb.get s.ss.reqs r with
  | none => s
  | some q => match Tb.get s.ss.sessions q.session with
    | none => s
    | some x =>
      let s := s.updReq r fun q => { q with unitStamp := stamp }
      if Tb.has s.ss.rebuilds q.session then s else
      if x.kvlen = 0 && x.pageMap.isEmpty && !q.noTree && q.phase != .prefill then
        (s.updReq r fun q => { q with phase := .lookup }).addUnit (.lookup q.session) (some x.tenant) (some q.session)
          x.hist.length stamp true
      else if x.kvlen + 1 < x.hist.length then
        (s.updReq r fun q => { q with phase := .prefill }).addUnit (.prefill q.session) (some x.tenant) (some q.session)
          q.nextSlice stamp true
      else s.updReq r fun q => { q with phase := .decode }

/-- Input tokens appended to the history (R134, R144); the request goes on. -/
def State.inputTokens (s : State) (r : Nat) (toks : List Nat) (stamp : Nat) : State :=
  match Tb.get s.ss.reqs r with
  | none => s
  | some q =>
    let s := s.updSess q.session fun x => { x with hist := x.hist ++ toks, globals := x.globals ++ q.inputGlobals }
    let len := ((Tb.get s.ss.sessions q.session).map (·.hist.length)).getD 0
    (s.updReq r fun q => { q with inputEnd := len, text := [] }).nextPhase r stamp

/-- The spool's FORMAT entries as KVLEN values (R187). -/
def Session.formats (x : Session) : List Nat := (replayOf x.spool).formats

/-- The switch of format that the live request has still to make (R140). -/
def State.condensePoint (s : State) (x : Session) (target : Nat) : List Nat :=
  match Tb.get s.ss.reqs x.reqId with
  | some q => if q.condenseAt ≠ 0 && !q.condensedRun && q.condenseAt ≤ target then [q.condenseAt] else []
  | none => []

/-- A session's KV is to be recomputed from its spool (R187): a look-up first, then prefill units. A switch of format that its live
request has still to make is one of the rebuild's (R140). -/
def State.startRebuild (s : State) (idx : Nat) (rb : Rebuild) (stamp : Nat) : State :=
  match Tb.get s.ss.sessions idx with
  | none => s
  | some x =>
    let fs := (rb.formats.map (Nat.min rb.target) ++ s.condensePoint x rb.target).dedup
    let s := { s with ss.rebuilds := Tb.set s.ss.rebuilds idx { rb with formats := fs } }
    let s := s.updSess idx fun x => { x with condensed := false, rebuild := false }
    s.addUnit (.lookup idx) (some x.tenant) (some idx) rb.target stamp true

/-- An accepted SUBMIT at its commit (R263): the request enters the table, the session is BUSY. A rebuild still to be
made for the session comes before the request's units. -/
def State.applySubmit (s : State) (id : Nat) (q : Req) (toks : List Nat) (stamp : Nat) : State :=
  match Tb.get s.ss.sessions q.session with
  | none => s
  | some x =>
    let q := { q with startLen := x.hist.length }
    let s := { s with ss.reqs := Tb.set s.ss.reqs id q, ss.nextReq := if q.dci.isSome then s.ss.nextReq else (id + 1) % 2 ^ 32 }
    let s := s.updSess q.session fun x => { x with
      state := .busy, reqId := id, epoch := q.epoch, guesses := [], marks := [(x.hist.length + toks.length, q.gstate)] }
    let s := match s.modelOf x.model with
      | some m => { s with img.models := Tb.upd s.img.models m.1 fun m => { m with lastBind := s.tk.tick } }
      | none => s
    if x.rebuild && 1 < x.hist.length then
      let s := s.updSess q.session fun x => { x with
        hist := x.hist ++ toks, globals := x.globals ++ (if q.text.isEmpty then q.inputGlobals else []) }
      let s := s.updReq id fun q => { q with phase := .lookup, inputEnd := x.hist.length + toks.length }
      let s := s.startRebuild q.session ⟨x.hist.length - 1, q.slice, q.slice, x.formats, none, none, [], q.resPages, false, 0⟩ stamp
      if q.text.isEmpty then s else s.addUnit (.tokenize id) (some x.tenant) (some q.session) q.text.length stamp false
    else if q.text.isEmpty then s.inputTokens id toks stamp
    else s.addUnit (.tokenize id) (some x.tenant) (some q.session) q.text.length stamp false

/-- A tokenization unit's commit (R144): the tokens enter the history together with those of the last byte. -/
def State.applyTokenized (s : State) (r taken : Nat) (toks : List Nat) (stamp : Nat) : State :=
  match Tb.get s.ss.reqs r with
  | none => s
  | some q =>
    let s := s.count 4 2 toks.length
    let s := s.updReq r fun q => { q with text := q.text.drop taken, textTokens := q.textTokens ++ toks }
    if taken < q.text.length then
      s.addUnit (.tokenize r) (((Tb.get s.ss.sessions q.session).map (·.tenant))) (some q.session) (q.text.length - taken)
        stamp false
    else s.inputTokens r (q.textTokens ++ toks) stamp

/-- The end of a recompute (R187): the session returns to IDLE or BUSY, and its live request goes on. -/
def State.endRebuild (s : State) (idx stamp : Nat) : State :=
  match Tb.get s.ss.sessions idx with
  | none => s
  | some x =>
    let s := { s with ss.rebuilds := Tb.del s.ss.rebuilds idx, ss.revivals := s.ss.revivals.filter fun e => e.2.session ≠ idx }
    let s := s.updSess idx fun x => { x with
      state := if x.state = .reviving then (if x.reqId = 0 then .idle else .busy) else x.state }
    match Tb.get s.ss.reqs x.reqId with
    | some q => if q.phase = .stalled || !q.text.isEmpty then s else
        (s.updReq x.reqId fun q => { q with phase := .prefill }).nextPhase x.reqId stamp
    | none => s

/-- A recompute of a session's KV is given up (R42): the session that ONE_SHARD brings back is gone again; any other waits
for a new recompute. -/
def State.rebuildFailed (s : State) (idx : Nat) (gone : Bool) : State :=
  let s := s.releaseKv idx
  let s := { s with ss.rebuilds := Tb.del s.ss.rebuilds idx }
  if gone then { s with ss.sessions := Tb.del s.ss.sessions idx } else s.updSess idx fun x => { x with rebuild := true }

/-- The session switches to the condensed format when its KVLEN equals CONDENSE_AT (R140). -/
def State.condenseDue (s : State) (idx : Nat) : State :=
  match Tb.get s.ss.sessions idx with
  | none => s
  | some x => match Tb.get s.ss.reqs x.reqId with
    | some q => if q.condenseAt ≠ 0 && q.condenseAt = x.kvlen && !x.condensed then
        (s.condenseSess idx).updReq x.reqId fun q => { q with condensedRun := true } else s
    | none => s

/-- The adapter digest of a spool's first turn. -/
def firstTurnAdapter (es : List Bytes) : Digest :=
  ((es.find? fun e => entryType e = 0x02).map fun e => digestOf (sliceAt e 48 48)).getD 0

/-- The root key that a session's look-up goes by (R123, R187): a rebuild looks under the key of the first turn. -/
def State.lookupKey (s : State) (idx : Nat) (x : Session) : RootKey :=
  if Tb.has s.ss.rebuilds idx then { s.rootKey x none with adapter := firstTurnAdapter x.spool, condensed := false }
  else s.rootKey x (Tb.get s.ss.reqs x.reqId)

/-- A switch of format that the live request asks for, at a rebuild's KVLEN (R140). -/
def State.switchesAt (s : State) (x : Session) (upto : Nat) : Bool :=
  match Tb.get s.ss.reqs x.reqId with
  | some q => q.condenseAt ≠ 0 && q.condenseAt = upto && !q.condensedRun && !x.formats.contains upto
  | none => false

/-- A rebuild's KVLEN comes to a switch of format (R140, R187). -/
def State.rebuildSwitch (s : State) (idx : Nat) (rb : Rebuild) (upto : Nat) : State :=
  match Tb.get s.ss.sessions idx with
  | none => s
  | some x =>
    let s := if rb.formats.contains upto then s.condenseSess idx else s
    if s.switchesAt x upto then s.updReq x.reqId fun q => { q with condensedRun := true } else s

/-- A look-up's commit (R126): pages mapped and referenced, LAST_USE of the path set, the tree position recorded, the
reservation of matched pages released (R130), the format switched where KVLEN comes to the point of it (R140, R187). The tree
position is the deepest node and its GEN as the look-up read them; without a match it is the root of the key looked up. -/
def State.applyLookedUp (s : State) (idx : Nat) (nodes : List (Nat × Nat)) (pages : List (Tbl Nat)) (upto stamp : Nat) : State :=
  match Tb.get s.ss.sessions idx with
  | none => s
  | some x =>
    let key := s.lookupKey idx x
    let s := (pages.flatMap id).foldl (fun s e => s.refPage e.2) s
    let s := nodes.foldl (fun s n => s.updNode x.tenant n.1 fun n => { n with lastUse := s.tk.tick }) s
    let r : (Nat × Nat) × State := match nodes.getLast? with
      | some d => (d, s)
      | none =>
        if (s.rootOf key).isNone && !s.grantsNode key then ((0, 0), s) else
        let r := s.ensureRoot key; ((r.1.id, r.1.gen), r.2)
    let s := r.2.updSess idx fun x => { x with
      pageMap := if upto = 0 then [] else pages, kvlen := upto, treeNode := r.1.1, treeGen := r.1.2 }
    let left (res : List (List Nat)) : List (List Nat) := drawPages res [] pages
    let s := { s with ss.rebuilds := Tb.upd s.ss.rebuilds idx fun r => { r with resPages := left r.resPages } }
    let s := s.updReq x.reqId fun q => { q with resPages := left q.resPages }
    match Tb.get s.ss.rebuilds idx with
    | some rb =>
      let s := s.rebuildSwitch idx rb upto
      let s := { s with ss.rebuilds := Tb.upd s.ss.rebuilds idx fun r => { r with
        lookedUp := true, formats := r.formats.filter (· ≠ upto) } }
      if upto < rb.target then s.addUnit (.prefill idx) (some x.tenant) (some idx) rb.nextSlice stamp true
      else s.endRebuild idx stamp
    | none => ((s.condenseDue idx).updReq x.reqId fun q => { q with phase := .prefill }).nextPhase x.reqId stamp

/-- The residual states kept: those of positions whose KV the last 8 steps stored (R137). -/
def Session.keepResiduals (x : Session) (new : Tbl (List F32)) : Session :=
  let lows := match new with | [] => x.resFrom | e :: _ => (e.1 :: x.resFrom).take 8
  let all := new.foldl (fun t e => Tb.set t e.1 e.2) x.residuals
  { x with resFrom := lows, residuals := all.filter fun e => lows.any fun l => l ≤ e.1 }

/-- A prefill slice's commit (R106, R127, R140): its KV, its tree inserts, the switch of format, the next unit. -/
def State.applyPrefilled (s : State) (idx upto : Nat) (kv : KvView) (stamp : Nat) : State :=
  match Tb.get s.ss.sessions idx with
  | none => s
  | some x =>
    let dim := ((s.archOf x).map (·.headDim)).getD 128
    let s := s.storeKv idx dim kv upto
    match Tb.get s.ss.rebuilds idx with
    | some rb =>
      let s := s.rebuildSwitch idx rb upto
      let s := { s with ss.rebuilds := Tb.upd s.ss.rebuilds idx fun r => { r with
        nextSlice := r.slice, formats := r.formats.filter (· ≠ upto) } }
      if upto < rb.target then s.addUnit (.prefill idx) (some x.tenant) (some idx) rb.slice stamp true
      else s.endRebuild idx stamp
    | none => match Tb.get s.ss.reqs x.reqId with
      | none => s
      | some q =>
        let fits := ((Tb.get s.ss.sessions idx).map fun x => s.treeFits x q).getD false
        let s := if q.noTree || !q.treeLive || !fits then s else
          let r := s.insertChunks idx q.startLen q.inputEnd (upto / 64 + 1)
          if r.1 then r.2 else r.2.updReq x.reqId fun q => { q with treeLive := false }
        let s := s.condenseDue idx
        let s := s.updReq x.reqId fun q => { q with nextSlice := q.slice }
        s.nextPhase x.reqId stamp

/-- What a step's tokens decide (R139, R162): no token means a stall. -/
def State.decided (s : State) (q : Req) (x : Session) (acc : List Nat) : Option Reason :=
  let a := s.archOf x
  match acc.getLast? with
  | none => some .stall
  | some t =>
    if ((a.map fun a => a.eosIds.contains t).getD false) then some .eos
    else if q.remaining ((a.map (·.maxPos)).getD 0) x.hist.length ≤ acc.length then some .maxlen else none

/-- A decode step's commit (R137, R162): a completion that it decides is held where there are stop strings; a stall commits nothing
else (R153). Tokens, KV, residual states, grammar state, guesses. -/
def State.applyDecoded (s : State) (r : Nat) (acc : List Nat) (kv : KvView) (kvlen : Nat) (resid : Tbl (List F32))
    (g : Option GState) (guesses : List Nat) (stamp : Nat) : State :=
  match Tb.get s.ss.reqs r with
  | none => s
  | some q => match Tb.get s.ss.sessions q.session with
    | none => s
    | some x =>
      if acc.isEmpty then s.updReq r fun q => { q with heldReason := some (.stall, s.tk.tick), unitStamp := stamp } else
      let dim := ((s.archOf x).map (·.headDim)).getD 128
      let s := s.storeKv q.session dim kv kvlen
      let s := s.updSess q.session fun x => { x.keepResiduals resid with
        hist := x.hist ++ acc, guesses := guesses,
        marks := ((x.hist.length + acc.length, g) :: x.marks).take 8 }
      let toks := acc.zipIdx.map fun (t, i) => (⟨x.hist.length + i, t, s.tk.tick, false,
        q.replayed && q.out.length + i < q.hostProducer⟩ : OutTok)
      let s := s.updReq r fun q => { q with
        heldReason := if q.stops.isEmpty then none else (s.decided q x acc).map fun w => (w, s.tk.tick)
        out := q.out ++ toks, gstate := g, firstStep := false, unitStamp := stamp, condensedRun := q.condensedRun || x.condensed }
      let s := match Tb.get s.ten.tenants x.tenant, s.samples q.session with
        | some _, true => { s with ten.tenants := Tb.upd s.ten.tenants x.tenant fun t =>
            { t with bucket := t.bucket - 1000000 * (acc.length : Int) } }
        | _, _ => s
      s.condenseDue q.session

/-- The request is STALLED from this commit on (R153). -/
def State.applyStalled (s : State) (r : Nat) : State :=
  s.updReq r fun q => { q with phase := .stalled, stallUntilUs := some (s.timeUs + 1000 * q.stallHoldMs) }

/-- The records that a freed request leaves to be written when its ring's translation is present (R220). -/
def Req.late (q : Req) : List LateRing :=
  if q.delayed.isEmpty then [] else
  [⟨q.mbox, q.mboxGen, q.ringAddr, q.ringCount, q.indexAddr, q.producer, q.delayed.map (·.2)⟩]

/-- A request's table entry, reservation and grammar state freed; its session becomes IDLE. Records that wait for the ring's
translation stay to be written (R220). -/
def State.freeReq (s : State) (r : Nat) : State :=
  match Tb.get s.ss.reqs r with
  | none => s
  | some q =>
    let s := { s with ss.lateRings := s.ss.lateRings ++ q.late }
    let s := { s with ss.reqs := Tb.del s.ss.reqs r, work.queue := s.work.queue.filter fun u => match u.kind with
      | .decode k => k != r | .tokenize k => k != r
      | .prefill i => i != q.session || Tb.has s.ss.rebuilds i | .lookup i => i != q.session || Tb.has s.ss.rebuilds i
      | _ => true }
    s.updSess q.session fun x => if x.reqId = r then { x with
      reqId := 0, guesses := [], marks := [], state := if x.state = .busy then .idle else x.state } else x

/-! ### Records and completions -/

/-- INFO of a record (R156) without POSITION: EMIT and flags. -/
def infoOf (emit : Nat) (retracted stop eos last special replayed : Bool) : Nat :=
  emit * 2 ^ 20 + (if retracted then 2 ^ 25 else 0) + (if stop then 2 ^ 26 else 0) + (if eos then 2 ^ 27 else 0) +
    (if last then 2 ^ 28 else 0) + (if special then 2 ^ 29 else 0) + (if replayed then 2 ^ 30 else 0)

/-- The record of a committed token (R155, R156). -/
def State.recordOf (s : State) (r : Nat) (t : OutTok) (last : Bool) : Effect :=
  let x := (Tb.get s.ss.reqs r).bind fun q => Tb.get s.ss.sessions q.session
  let voc := x.bind fun x => s.vocabFor x.model
  let e := (voc.bind fun v => v.entries[t.tok]?).getD ⟨true, []⟩
  let eos := ((x.bind s.archOf).map fun a => a.eosIds.contains t.tok).getD false
  .ring r t.pos t.tok (infoOf (if e.special then 0 else e.bytes.length) false false eos last e.special t.replayed)

/-- The 32 bytes of a ring record (R155). -/
def State.ringBytes (s : State) (r stamp pos tok info : Nat) : Bytes :=
  let x := (Tb.get s.ss.reqs r).bind fun q => Tb.get s.ss.sessions q.session
  let str := ((x.bind fun x => s.vocabFor x.model).map fun v => v.str tok).getD []
  toLE 8 stamp ++ toLE 4 tok ++ toLE 4 (pos % 2 ^ 20 + info) ++ fitTo 16 str

/-- A record put into its ring, the producer index after it (R262), or kept for the ring's translation (R220). -/
def State.writeRing (s : State) (r : Nat) (q : Req) (b : Bytes) : State :=
  let a := q.ringAddr + 32 * (q.producer % q.ringCount)
  let s := (s.writeHost .port0 a b).writeHost .port0 q.indexAddr (toLE 4 ((q.producer + 1) % 2 ^ 32))
  s.updReq r fun q => { q with producer := (q.producer + 1) % 2 ^ 32 }

/-- A request's records wait: some page of its ring or of its index block has no translation (R220). -/
def State.ringWaits (s : State) (q : Req) : Bool :=
  !q.delayed.isEmpty || s.rangeAbsent .port0 q.ringAddr (32 * q.ringCount) || s.hostAbsent .port0 q.indexAddr

/-- The acting commit point of a CANCEL (R163): the tick that accepted it, or the next with stop strings. -/
def Req.cancelActs (q : Req) (tick : Nat) : Bool :=
  match q.cancel with
  | none => false
  | some (t, _) => if q.stops.isEmpty then t ≤ tick else t + 1 ≤ tick

/-- The device holds what a request would publish: it is at or past the acting point of its epoch drain (R196). -/
def State.holdsOutput (s : State) (q : Req) : Bool := q.drained && q.cancelActs s.tk.tick

/-- When the hold of output that a drain leaves ends (R199): HOLD_S after the drain deadline. -/
def State.holdEnd (s : State) (q : Req) : Nat :=
  let late := match q.cancel with | some (t, _) => s.tk.tick - t | none => 0
  s.timeUs - late * s.tickUs + 1000000 * (if s.ten.map.holdS = 0 then 600 else s.ten.map.holdS)

/-- A ring record published (R157), held under an epoch drain (R196), delayed (R220), or discarded with its mailbox (R241). -/
def State.postRing (s : State) (r stamp pos tok info : Nat) : State :=
  match Tb.get s.ss.reqs r with
  | none => s
  | some q =>
    let b := s.ringBytes r stamp pos tok info
    let s := s.updReq r fun q => { q with out := q.out.map fun t => if t.pos = pos then { t with published := true } else t }
    if s.holdsOutput q then s.updSess q.session fun x => { x with
      held := some (match x.held with
        | some h => { h with records := h.records ++ [b] }
        | none => ⟨q.epoch, s.holdEnd q, [b], none⟩) }
    else if !s.samples q.session then s.updReq r fun q => { q with producer := (q.producer + 1) % 2 ^ 32 }
    else if s.ringWaits q then
      let first := q.delayed.isEmpty
      let s := s.updReq r fun q => { q with delayed := q.delayed ++ [(stamp, b)] }
      if first then (s.count 3 7 1).traceRec 0x8002 19 (toLE 1 q.mbox ++ zeros 3 ++ toLE 4 r) else s
    else if (s.mbx[mboxFin q.mbox]).gen ≠ q.mboxGen then s
    else s.writeRing r q b

/-- FLAGS of a request completion (R250): CANCEL_LATE, REPLAYED, CONDENSED. -/
def Req.flags (q : Req) (reason : Nat) : Nat :=
  (if q.cancel.isSome && !q.drained && reason ≠ 4 then 1 else 0) +
    (if q.out.any (·.replayed) then 2 else 0) + (if q.condensedRun then 4 else 0)

/-- The session's length after the completion: a discarded turn's input goes too (R165, R250). -/
def Req.lenAfter (q : Req) (len : Nat) : Nat := match q.cancel with | some (_, true) => q.startLen | _ => len

/-- Output tokens that the history holds after the completion: none of a discarded turn (R165, R250). -/
def Req.tokensAfter (q : Req) : Nat := match q.cancel with | some (_, true) => 0 | _ => q.tokens

/-- RESULT of a request completion (R250). -/
def Req.result (q : Req) (r reason len : Nat) : Bytes :=
  toLE 4 r ++ toLE 1 reason ++ toLE 1 (q.flags reason) ++ zeros 2 ++ toLE 4 q.tokensAfter ++ toLE 4 len

/-- A request's completion published (R157, R250), or held under an epoch drain (R196). A DCI turn has none (R268).
DEDUCED (log 32, 100). -/
def State.postReqDone (s : State) (r stamp : Nat) (st : Status) (reason : Nat) : State :=
  match Tb.get s.ss.reqs r with
  | none => s
  | some q =>
    if q.dci.isSome then s else
    let len := ((Tb.get s.ss.sessions q.session).map (·.hist.length)).getD 0
    let c : Completion := ⟨q.tag, 0x0401, st, 1, q.result r reason (q.lenAfter len)⟩
    if s.holdsOutput q then
      let s := s.updSess q.session fun x => { x with
        held := some (match x.held with
          | some h => { h with completion := some c }
          | none => ⟨q.epoch, s.holdEnd q, [], some c⟩) }
      if (s.mbx[mboxFin q.mbox]).gen = q.mboxGen then s.updMbx (mboxFin q.mbox) fun b => { b with debts := b.debts - 1 } else s
    else if !s.samples q.session then s
    else s.postOwed q.mbox q.mboxGen stamp c

/-- END and the freeing of the request (R164, R174); a GRAMMAR_STALL keeps the STALLED request. -/
def State.endReq (s : State) (r reason stamp : Nat) : State :=
  match Tb.get s.ss.reqs r with
  | none => s
  | some q =>
    let len := ((Tb.get s.ss.sessions q.session).map (·.hist.length)).getD 0
    let s := s.appendSpool q.session 0x07 0 stamp (payEnd r reason (q.flags reason) (q.lenAfter len) q.tokensAfter)
    if reason = 5 && !q.cancelActs s.tk.tick then s else s.freeReq r

/-- What one request's outcome at a commit point is: changes first, then its events (R160 to R164). -/
structure ReqOutcome where
  pre : State → State
  events : List Effect

/-- The spool entries of DISCARD_TURN (R165): a discard that reaches a dropped page releases the KV too (R112).
DEDUCED (log 22). -/
def State.discardEntries (s : State) (q : Req) : List Effect :=
  match q.cancel, Tb.get s.ss.sessions q.session with
  | some (_, true), some x =>
    [.spool q.session 0x0A 0 (toLE 4 q.startLen)] ++
      (if q.startLen < x.kvlen && s.reachesDropped x q.startLen then [.spool q.session 0x0D 0 (toLE 4 q.startLen)] else [])
  | _, _ => []

/-- The events that complete a request. One that a stall holds discards its turn at the acting point of its CANCEL (R163, R165). -/
def State.doneEvents (s : State) (r : Nat) (q : Req) (st : Status) (reason : Nat) : List Effect :=
  [.reqDone r st reason] ++ (if reason = 5 && !q.cancelActs s.tk.tick then [] else s.discardEntries q) ++ [.spool q.session 0x07 0 (toLE 4 r ++ toLE 1 reason)]

/-- The output bytes of a request up to and including each token (R159). -/
def State.outBytes (s : State) (q : Req) (toks : List OutTok) : Bytes :=
  let voc := (Tb.get s.ss.sessions q.session).bind fun x => s.vocabFor x.model
  toks.flatMap fun t => (voc.map fun v => v.str t.tok).getD []

/-- The records of tokens in order, LAST on the last one if it is the request's last record. -/
def State.records (s : State) (r : Nat) (toks : List OutTok) (last : Bool) : List Effect :=
  toks.zipIdx.map fun (t, i) => s.recordOf r t (last && i + 1 = toks.length)

/-- A stop that completes in a token committed at the end of the previous tick (R159 to R161): the token's place among
the request's output, and the byte offset in it. -/
def State.findStop (s : State) (q : Req) (tick : Nat) : Option (Nat × Nat) :=
  let due := q.out.takeWhile fun t => t.tick < tick
  let old := due.takeWhile fun t => t.published
  let from_ := (s.outBytes q old).length
  match firstStop (s.outBytes q due) q.stops from_ with
  | none => none
  | some e =>
    let ends := due.zipIdx.map fun (_, i) => (s.outBytes q (due.take (i + 1))).length
    (ends.findIdx? fun n => e ≤ n).map fun i => (i, e - (if i = 0 then 0 else ends.getD (i - 1) 0))

/-- The outcome of a stop (R161). -/
def State.stopOutcome (s : State) (r : Nat) (q : Req) (i off : Nat) : ReqOutcome :=
  let stopTok := q.out.getD i ⟨0, 0, 0, true, false⟩
  let kept := (q.out.take (i + 1)).filter fun t => !t.published
  let gone := q.out.drop (i + 1)
  let n := stopTok.pos + 1
  let info (t : OutTok) (last : Bool) : Effect := match s.recordOf r t last with
    | .ring r p k f => if t.pos = stopTok.pos then .ring r p k (f % 2 ^ 20 + off * 2 ^ 20 + f / 2 ^ 25 * 2 ^ 25 + 2 ^ 26)
      else .ring r p k f
    | e => e
  let retr (t : OutTok) (last : Bool) : Effect := match s.recordOf r t last with
    | .ring r p k f => .ring r p k (f / 2 ^ 25 * 2 ^ 25 + 2 ^ 25)
    | e => e
  let recs := kept.zipIdx.map (fun (t, j) => info t (gone.isEmpty && j + 1 = kept.length)) ++
    gone.zipIdx.map (fun (t, j) => retr t (j + 1 = gone.length))
  { pre := fun s =>
      let s := (s.cutHist q.session n).count 4 3 1
      let x := Tb.get s.ss.sessions q.session
      s.updReq r fun q => { q with out := q.out.take (i + 1), gstate := x.bind fun x => x.grammarAt q.grammar n }
    events := recs ++ [.spool q.session 0x06 0 (payStop stopTok.pos off gone.length n)] ++ s.doneEvents r q .ok 2 }

/-- What happens to one request at the commit point that ends the running tick, after the units' effects.
DESIGN CHOICE (log 139). -/
def State.reqOutcome (s : State) (r : Nat) (q : Req) : Option ReqOutcome :=
  let tick := s.tk.tick
  if q.dci.isSome then none else
  if q.phase = .stalled then
    if q.cancel.isSome then some { pre := id, events := [.spool q.session 0x09 0 (toLE 4 r)] ++ s.discardEntries q } else none
  else
  match (if q.stops.isEmpty then none else s.findStop q tick) with
  | some (i, off) => some (s.stopOutcome r q i off)
  | none =>
    let unpub := q.out.filter fun t => !t.published
    let due := unpub.filter fun t => t.tick < tick
    match q.heldReason with
    | some (why, t) =>
      if t < tick then
        some { pre := fun s => if why = .stall then s.applyStalled r else s
               events := s.records r unpub (why != .stall) ++ s.doneEvents r q .ok why.code }
      else if due.isEmpty then none else some { pre := id, events := s.records r due false }
    | none =>
      if q.cancelActs tick then
        some { pre := id, events := s.records r unpub true ++ s.doneEvents r q .ok (if q.drained then 6 else 4) }
      else if due.isEmpty then none else some { pre := id, events := s.records r due false }

end Sys2Proof.Machine
end

