-- ==== Sys2Proof/Machine/Park.lean ====
section
/-! DEFINITION. Background copies and their end, parking, the reading of hanks, revival, the attachment of a STALLED
request or held output (R181 to R187). -/
namespace Sys2Proof.Machine

/-! ### What a hank of a session holds -/

/-- The STALLED request attached to a session (R153, R169). -/
def State.stalledReq (s : State) (x : Session) : Option (Nat × Req) :=
  match Tb.get s.ss.reqs x.reqId with
  | some q => if q.phase = .stalled then some (x.reqId, q) else none
  | none => none

/-- HEAD_DIM of a session's model or of the pages it holds. -/
def State.dimOf (s : State) (x : Session) : Nat :=
  match s.archOf x with
  | some a => a.headDim
  | none => ((x.pageMap.flatMap id).findSome? fun e => (Tb.get s.kv.pages e.2).map (·.dim)).getD 128

/-- The hold time left of a STALLED request in µs: what a park suspended, or up to the deadline (R153, R183). -/
def Req.stallLeft (q : Req) (now : Nat) : Nat := match q.stallLeftUs with
  | some u => u
  | none => q.stallUntilUs.getD now - now

/-- A request's grammar state as it is stored (R150): of the image that governs it, or, where that is not loaded, in the size that it
came with. -/
def Req.stateBytes (q : Req) : Bytes :=
  match q.gstate, q.grammar, q.stateOf with
  | some g, some gr, _ => g.encode (q.grammarId.getD 0) gr.maxDepth
  | some g, none, some k => g.encode k.1 k.2
  | _, _, _ => []

/-- The REQUEST section of a session (R180), if a STALLED request or held output is attached. DESIGN CHOICE (log 142). -/
def State.requestPart (s : State) (x : Session) : Option Bytes :=
  let q := s.stalledReq x
  if q.isNone && x.held.isNone then none else
  let g : Bytes := match q with
    | some (_, q) => q.stateBytes
    | none => []
  let ms := match q with | some (_, q) => ceilDiv (q.stallLeft s.timeUs) 1000 | none => 0
  let holdS := match x.held with | some h => ceilDiv (h.untilUs - s.timeUs) 1000000 | none => 0
  let epoch := match x.held with | some h => h.epoch | none => x.epoch
  some (requestSection ((q.map (·.1)).getD 0) ms holdS epoch x.held g 0)

/-- The sections of a session's hank (R178). -/
def State.sessionSections (s : State) (idx : Nat) (x : Session) (full : Bool) : List (Nat × Bytes) :=
  let v := s.kvView x
  hankSections (descriptorBytes idx x (s.stalledReq x).isSome) (guessBytes x.guesses) x.spool.flatten (s.requestPart x)
    (if full then some (kvIndexBytes v, kvBytes x.psize (s.dimOf x) v) else none)
    (if full && x.kvlen = x.hist.length then
      some (((Tb.get x.residuals (x.kvlen - 1)).getD []).flatMap fun w => toLE 4 w.toNat) else none)

/-- Data tiles that sections span (R178). -/
def dataTiles (ss : List (Nat × Bytes)) : Nat := (ss.map fun e => Nat.max 1 (ceilDiv e.2.length 65536)).sum

/-- HANK_LEN that a session gives once `more` bytes of spool are added (R176, R183). -/
def State.hankLenOf (s : State) (idx : Nat) (x : Session) (full : Bool) (more : Nat) : Nat :=
  hankLen (dataTiles (s.sessionSections idx { x with spool := x.spool ++ [zeros more] } full))

/-! ### Park stores -/

/-- The address space of a store (R193, R194). DESIGN CHOICE (log 91). -/
def ParkStore.space (p : ParkStore) : HostSpace :=
  if p.kind = 0 then (if p.port = 0 then .port0 else .port1) else (if p.port = 0 then .cxl0 else .cxl1)

/-- Bytes of a store from an offset on. DESIGN CHOICE (log 5). -/
def State.readStore (s : State) (p : ParkStore) (off n : Nat) : Option Bytes := s.readHost p.space (p.base + off) n

/-- The additional authenticated data of a hank's tiles (R179). -/
def hankAad (h : Bytes) : Bytes := overwrite (h.take 512) 48 (zeros 48)

/-- The key that a hank's header names (R185, R310): a slot that holds KEY_SLOT at KEY_GEN for the tenant and may decrypt
hanks (R311), or the transport key of the handoff. -/
def State.hankKeyOf (s : State) (h : Bytes) (tenant : Nat) : Option Bytes :=
  if fieldAt h 7 1 = 1 then
    (s.sec.slots.find? fun e => e.2.kind == .transport && e.2.handoff = fieldAt h 224 8).map fun e => keyBytes e.2.key
  else match Tb.get s.sec.slots (fieldAt h 28 2) with
    | some k => if k.gen = fieldAt h 32 4 && k.tenant = tenant && [SlotKind.current, .draining, .kept].contains k.kind
        then some (hankKey k.key (fieldAt h 28 2) k.gen (fieldAt h 16 8)) else none
    | none => none

/-- A data tile decrypted (R179): none where its tag fails. -/
def openTile (key h tags : Bytes) (i : Nat) (data : Bytes) : Option Bytes :=
  Aes.gcmDecrypt key (tileIv i) (hankAad h) data (sliceAt tags (16 * i) 16)

/-- All data tiles of the hank of a PARKED session read back in clear, for its handoff (R170, R189). -/
def State.readHank (s : State) (x : Session) : Option (List (Nat × Bytes)) := do
  let p ← Tb.get s.ten.map.stores x.parkStore
  let h ← s.readStore p x.parkOffset 65536
  let n := fieldAt h 24 4
  let tags ← s.readStore p (x.parkOffset + 65536 * (1 + n)) (65536 * ceilDiv (16 * n) 65536)
  let key ← s.hankKeyOf h x.tenant
  let tiles ← (List.range n).mapM fun i =>
    (s.readStore p (x.parkOffset + 65536 * (1 + i)) 65536).bind fun d => openTile key h tags i d
  let plain : Tbl Bytes := tiles.zipIdx.map fun (d, i) => (i, d)
  if hankDigestOf h tags != digestOf (sliceAt h 48 48) then none else
  pure ([1, 2, 3, 4, 5, 6].filterMap fun ty => (sectionOf h plain ty).map fun b => (ty, b))

/-! ### Copies -/

/-- A PARK or HANDOFF_OFFER copy of the session is under way (R182). -/
def State.copying (v : State) (i : Nat) : Bool :=
  v.ss.copies.any fun c => c.2.session = i && c.2.for_ != .chkpt

/-- The R131 reservation of a copy. -/
def State.copyFits (v : State) (x : Session) : Bool :=
  v.reserveOk 0 x.tenant (v.shapeOf x) x.psize x.condensed (v.copyIndices x) 0

/-- One copy changed. -/
def State.updCopy (s : State) (c : Nat) (f : Copy → Copy) : State := { s with ss.copies := Tb.upd s.ss.copies c f }

/-- The tiles of a copy encrypted under a key, and its units put into the PARK queue (R179, R184, R37).
DEDUCED (log 26). -/
def State.fillCopy (s : State) (c : Nat) (key : Bytes) (transport : Bool) (slot gen handoff stamp : Nat) : State :=
  match Tb.get s.ss.copies c with
  | none => s
  | some k => match k.snap with
    | none => s
    | some x =>
      let ids : HankIds := ⟨k.full, transport, k.hankId, slot, gen, Config.deviceId.toNat, handoff, k.stamp⟩
      let b := buildHank ids key k.session x k.sections
      let s := s.updCopy c fun k => { k with tiles := b.1, digest := b.2, hankLen := 65536 * b.1.length, snap := none,
                                              sections := [] }
      (List.range b.1.length).foldl (fun s i =>
        s.addUnit (.parkTile c i) (some x.tenant) (some k.session) 65536 stamp false) s

/-- The pages that a copy holds, each with the number of tiles after which its last part is copied (R118, R178): the KV content
follows `before` tiles and `base` bytes. -/
def State.copyPages (s : State) (x : Session) (before base : Nat) : List (Nat × Nat) :=
  let sizes := (x.pageMap.flatMap id).map fun e => (e.2, match Tb.get s.kv.pages e.2 with
    | some p => p.data.heads.length * partLen p.psize p.dim p.data.condensed
    | none => 0)
  (sizes.foldl (fun (st : Nat × List (Nat × Nat)) e =>
    (st.1 + e.2, (e.1, before + ceilDiv (st.1 + e.2) 65536) :: st.2)) (base, [])).2.reverse

/-- What a copy of a session holds: its kind, the session as its header gives it, its sections. For a PARKED session these are those
of its parked hank (R177, R189), of which a thin copy leaves out what is KV. -/
def State.copyContent (s : State) (idx : Nat) (x : Session) (full : Bool) : Bool × Session × List (Nat × Bytes) :=
  if x.state = .parked || (x.state = .offered && x.prior = .parked) then
    let h := ((Tb.get s.ten.map.stores x.parkStore).bind fun p => s.readStore p x.parkOffset 65536).getD []
    let full := full && fieldAt h 6 1 = 1
    let ss := (s.readHank x).getD []
    (full, { x with
      kvlen := fieldAt h 204 4, condensed := fieldAt h 209 1 = 1, spoolSeq := fieldAt h 212 4, spoolDigest := digestOf (sliceAt h 144 48) }, if full then ss else ss.filter fun e => e.1 < 4)
  else (full, x, s.sessionSections idx x full)

/-- A copy taken in its commit (R181): the sections as they are then, a reference to each page that a full hank copies
(R118). A park is encrypted at once under the CURRENT generation (R313), a handoff when its transport key is agreed.
DEDUCED (log 107). -/
def State.takeCopy (s : State) (c stamp : Nat) : State :=
  match Tb.get s.ss.copies c with
  | none => s
  | some k => match (match Tb.get s.ss.sessions k.session with | some x => some x | none => k.snap) with
    | none => s
    | some x =>
      let y := s.copyContent k.session x k.full
      let pages := if y.1 then s.copyPages x (dataTiles (y.2.2.filter fun e => e.1 < 5)) 0 else []
      let s := pages.foldl (fun s p => s.refPage p.1) s
      let s := s.updCopy c fun k => { k with full := y.1, snap := some y.2.1, sections := y.2.2, pages := pages }
      match k.for_ with
      | .handoff _ => s
      | .chkpt => s
      | _ => match s.currentSlot x.tenant with
        | some (i, e) => s.fillCopy c (hankKey e.key i e.gen k.hankId) false i e.gen 0 stamp
        | none => s

/-- A copy ordered (R131, R181): its reservation is made. A park's is taken at once, so that PARK or EPOCH_PARK's PARK is the last
entry that it encloses (R183), any other when the commit's items are applied. DEDUCED (log 107). -/
def State.startCopy (s : State) (k : Copy) (stamp : Nat) : State :=
  match Tb.get s.ss.sessions k.session with
  | none => s
  | some x =>
    let c := s.ss.nextCopy
    let s := { s with ss := { s.ss with
        nextCopy := c + 1, nextHank := Nat.max s.ss.nextHank (k.hankId + 1)
        copies := Tb.set s.ss.copies c { k with
          snap := some x, stamp := s.tk.tick * 65536, resPages := s.copyIndices x, condensed := x.condensed } } }
    match k.for_ with
    | .handoff _ | .chkpt => { s with ss.freshCopies := s.ss.freshCopies ++ [(c, stamp)] }
    | _ => s.takeCopy c stamp

/-- The copies that this commit has ordered are taken (R181). -/
def State.takeFresh (s : State) : State :=
  let l := s.ss.freshCopies
  l.foldl (fun s c => s.takeCopy c.1 c.2) { s with ss.freshCopies := [] }

/-- A copy forgotten: its references and reservation dropped (R118, R131), its queued units gone. -/
def State.dropCopy (s : State) (c : Nat) : State :=
  match Tb.get s.ss.copies c with
  | none => s
  | some k =>
    let s := k.pages.foldl (fun s p => s.unrefPage p.1) s
    let q : List UnitRec := s.work.queue.filter fun u => match u.kind with | .parkTile j _ => j != c | _ => true
    { s with ss.copies := Tb.del s.ss.copies c, work.queue := q }

/-- A session that leaves PARKING or OFFERED returns to the state it had (R184, R189): a suspended hold runs on (R183). -/
def State.backToPrior (s : State) (idx : Nat) : State :=
  match Tb.get s.ss.sessions idx with
  | none => s
  | some x =>
    if x.state != .parking && x.state != .offered then s else
    (s.updSess idx fun x => { x with state := x.prior }).updReq x.reqId fun q => match q.stallLeftUs with
      | some u => { q with stallUntilUs := some (s.timeUs + u), stallLeftUs := none }
      | none => q

/-- A STALLED request's hold suspended (R183). -/
def State.suspendStall (s : State) (idx : Nat) : State :=
  match Tb.get s.ss.sessions idx with
  | none => s
  | some x => s.updReq x.reqId fun q => if q.phase = .stalled then
      { q with stallLeftUs := some (q.stallLeft s.timeUs), stallUntilUs := none } else q

/-- The device's part of a session released when it is parked or given away: KV, page map, spool segments, its buddy
mirror, the STALLED request's table entry (R183, R184, R189). -/
def State.releaseSession (s : State) (idx : Nat) : State :=
  match Tb.get s.ss.sessions idx with
  | none => s
  | some x =>
    let pr := s.stalledReq x
    let s := s.releaseKv idx
    let s := { s with ss.reqs := Tb.del s.ss.reqs x.reqId, grp.mirrors := Tb.del s.grp.mirrors idx }
    s.updSess idx fun x => { x with spool := [], segments := 0, segFill := 0, reqId := 0, guesses := [], marks := [],
                                    parkedReq := pr }

/-- The end of a PARK's copy (R184). -/
def State.parkEnd (s : State) (idx store off hankId : Nat) : State :=
  let s := s.updSess idx fun x => { x with parkStore := store, parkOffset := off, hankId := hankId }
  match Tb.get s.ss.sessions idx with
  | none => s
  | some x => if x.state != .parking then s else
    (s.releaseSession idx).updSess idx fun x => { x with state := .parked }

/-- The references of a copy that its first `n` tiles complete are dropped (R118, R181). -/
def State.copiedTo (s : State) (c n : Nat) : State :=
  match Tb.get s.ss.copies c with
  | none => s
  | some k =>
    let s := (k.pages.filter fun p => p.2 ≤ n).foldl (fun s p => s.unrefPage p.1) s
    s.updCopy c fun k => { k with written := n, pages := k.pages.filter fun p => n < p.2 }

/-- A tile of a copy is written (R184): pages whose copy it completes lose the copy's reference (R118); the last tile ends a park's copy; a handoff's copy ends with its OFFER, whose
deadline is this commit point plus H (R189). DEDUCED (log 103). -/
def State.copyTileDone (s : State) (c : Nat) : State :=
  match Tb.get s.ss.copies c with
  | none => s
  | some k =>
    let s := s.copiedTo c (k.written + 1)
    if k.written + 1 < k.tiles.length then s else
    let s := match k.for_ with
      | .park st off _ _ _ => s.parkEnd k.session st off k.hankId
      | .epochPark st off => s.parkEnd k.session st off k.hankId
      | .handoff h => { s with ss.srcs := Tb.upd s.ss.srcs h fun e =>
          { e with deadlineUs := if e.restored then none else some (s.timeUs + 1000 * e.timeoutMs) } }
      | .chkpt => s
    s.dropCopy c

/-- The command that a copy's end completes: PARK's own, or the HANDOFF_OFFER of the handoff (R184, R189). -/
def State.copyCmd (s : State) (c : Nat) : Option Nat :=
  (Tb.get s.ss.copies c).bind fun k => match k.for_ with
    | .handoff h => (Tb.get s.ss.srcs h).bind (·.cmd)
    | _ => k.cmd

/-- What the failure of a copy does at a commit (R184, R219, R297). -/
def State.copyFailEffects (s : State) (c : Nat) (st : Status) : List Effect :=
  .copyFail c st :: ((s.copyCmd c).map fun k => (.complete k st [] : Effect)).toList

/-- What the failure of a revival does at a commit (R185, R219). -/
def State.reviveFailEffects (s : State) (v : Nat) (st : Status) : List Effect :=
  .reviveFail v st :: (((Tb.get s.ss.revivals v).bind (·.cmd)).map fun k => (.complete k st [] : Effect)).toList

/-- The tiles of a copy that are written or wait to commit. -/
def State.copyTilesDone (s : State) (c : Nat) : Nat :=
  ((Tb.get s.ss.copies c).map (·.written)).getD 0 +
    ((s.work.done ++ s.work.deferred).flatMap (·.effs)).countP fun e => match e with | .copyTile d => d = c | _ => false

/-! ### Reading a spool back -/

/-- Segments in use and bytes in the last one for entries laid one after another (R173). -/
def packSpool (es : List Bytes) : Nat × Nat := es.foldl (fun st e =>
  if st.1 = 0 || 65536 < st.2 + e.length then (st.1 + 1, e.length) else (st.1, st.2 + e.length)) (0, 0)

/-- The last TURN entry and the entries after it. -/
def lastTurn (es : List Bytes) : Option (Bytes × List Bytes) :=
  es.foldl (fun a e => if entryType e = 0x02 then some (e, []) else a.map fun p => (p.1, p.2 ++ [e])) none

/-- The stop strings of a TURN entry (R174). -/
def turnStops (e : Bytes) : List Bytes :=
  ((List.range (fieldAt e 144 4)).foldl (fun (st : Nat × List Bytes) _ =>
    let n := fieldAt e st.1 1
    (st.1 + 1 + n, st.2 ++ [sliceAt e (st.1 + 1) n])) (148, [])).2

/-- The sampling parameters of a TURN entry. DESIGN CHOICE (log 8). -/
def turnParams (e : Bytes) : Sampling.Params :=
  let fl := fieldAt e 29 1
  { temperature := BitVec.ofNat 32 (fieldAt e 32 4)
    topK := if fl.testBit 0 then some (fieldAt e 36 4) else none
    topP := if fl.testBit 1 then some (BitVec.ofNat 32 (fieldAt e 40 4)) else none
    minP := if fl.testBit 2 then some (BitVec.ofNat 32 (fieldAt e 44 4)) else none }

/-- Where a request publishes: mailbox, enable, tag, ring address and count, index address. -/
structure ReqHome where
  mbox : Nat
  gen : Nat
  tag : Nat
  ring : Nat
  count : Nat
  index : Nat

/-- A request rebuilt from its TURN entry and the entries after it (R180, R342): its output so far, its grammar.
DEDUCED (log 23). -/
def State.reqOfTurn (s : State) (idx : Nat) (turn : Bytes) (after : List Bytes) (m : ReqHome) : Req :=
  let toks := after.flatMap fun e => if entryType e = 0x05 then
      (words4 (fieldAt e 20 4) (e.drop 24)).zipIdx.map fun (t, i) => (⟨fieldAt e 16 4 + i, t, 0, true, false⟩ : OutTok)
    else []
  let gd := (after.filter fun e => entryType e = 0x08).getLast?.map (fun e => digestOf (sliceAt e 16 48))
    |>.getD (digestOf (sliceAt turn 96 48))
  let ad := digestOf (sliceAt turn 48 48)
  let gr := s.img.grammars.find? fun e => e.2.digest = gd
  let inputs := after.flatMap fun e => if entryType e = 0x03 then words4 (fieldAt e 20 4) (e.drop 24) else []
  let len := ((Tb.get s.ss.sessions idx).map (·.hist.length)).getD 0
  let start := len - toks.length - inputs.length
  { mbox := m.mbox, mboxGen := m.gen, tag := m.tag, session := idx, maxNew := fieldAt turn 24 4
    specWidth := fieldAt turn 28 1, stops := turnStops turn, params := turnParams turn
    adapter := (s.img.adapters.find? fun a => a.digest = ad).map fun a => (a.id, a.ver)
    grammarId := if gd = 0 then none else gr.map (·.1), grammar := if gd = 0 then none else gr.map (·.2)
    gstate := if gd = 0 then none else gr.map (·.2.start)
    slice := 64, stallHoldMs := 0, condenseAt := 0, noTree := false, ringAddr := m.ring, ringCount := m.count
    indexAddr := m.index, producer := 0, consumer := 0, epoch := fieldAt turn 20 4, phase := .decode, text := []
    textTokens := [], inputGlobals := [], startLen := start, inputEnd := start + inputs.length, nextSlice := 64
    firstStep := true, out := toks, heldReason := none, cancel := none, drained := false, stallUntilUs := none
    stallLeftUs := none, ringWaitUs := none, condensedRun := false, replayed := false, hostProducer := 0, stateOf := none, resPages := []
    resSpool := 0, treeLive := false, unitStamp := 0, dci := none, delayed := [] }

/-- A session rebuilt from the bytes of its descriptor and its spool (R186, R338). DEDUCED (log 25). -/
def sessionOf (gen tenant : Nat) (st : SessState) (d guesses : Bytes) (es : List Bytes) : Session :=
  let r := replayOf es
  let pk := packSpool es
  { gen := gen, state := st, tenant := tenant, condensed := fieldAt d 10 1 = 1, psize := fieldAt d 11 1, hist := r.hist
    kvlen := 0, reqId := 0, treeNode := 0, treeGen := 0, globals := r.globals, epoch := fieldAt d 40 4
    model := digestOf (sliceAt d 48 48), spool := es, spoolDigest := chainDigest es, spoolSeq := es.length
    spoolLen := (es.map List.length).sum, segments := pk.1, segFill := pk.2, pageMap := [], lastCommit := fieldAt d 184 8
    parkStore := fieldAt d 192 1, parkOffset := fieldAt d 200 8, seed := BitVec.ofNat 128 (beNat (sliceAt d 208 16))
    hankId := fieldAt d 224 8, handoffId := fieldAt d 232 8, peer := fieldAt d 240 8, held := none
    guesses := words4 (Nat.min 3 (fieldAt guesses 0 4)) (guesses.drop 4), residuals := [], resFrom := [], marks := [], windows := [], rebuild := false
    prior := .idle, parkedReq := none }

/-- A completion read back from its 32 bytes (R180, R249). -/
def completionOf (b : Bytes) : Completion :=
  let st := [Status.ok, .eRange, .eLength, .eState, .eNoent, .eQuota, .eEnergy, .eVersion, .eAuth, .eDigest, .eTimeout,
    .eBusy, .eEpoch, .eMixedStep, .eLifecycle, .eInternal].getD (fieldAt b 6 1) .eInternal
  ⟨fieldAt b 0 4, fieldAt b 4 2, st, fieldAt b 7 1, sliceAt b 16 16⟩

/-! ### Revival -/

/-- The clear part of a revival: what its plaintext tiles spell. -/
structure Revived where
  desc : Bytes
  guesses : Bytes
  entries : List Bytes
  request : Option Bytes
  kv : Option KvView
  resid : List F32
  /-- The reserved fields of the KV parts are zero (R6, R114). -/
  kvClean : Bool

/-- The status with which a reader rejects what a hank's tiles spell (R6, R79, R174). -/
def Revived.fault (v : Revived) : Option Status :=
  if !descriptorClean v.desc || !(v.request.map requestClean).getD true || !v.kvClean then some .eRange else spoolFault v.entries

/-- The sections of a revival's hank (R178); none where the spool cannot be cut into entries. -/
def Revival.read (r : Revival) (dim heads : Nat) : Option Revived :=
  match sectionOf r.header r.plain 1, (sectionOf r.header r.plain 2).bind fun b => splitSpool (b.length / 16 + 1) b with
  | some d, some es =>
    let n := fieldAt r.header 209 1
    let layers (b : Bytes) := readKvIndex ((List.range 192).foldl (fun (st : Nat × Nat) _ =>
      if st.1 < b.length then (st.1 + 4 + 4 * fieldAt b st.1 4, st.2 + 1) else st) (0, 0)).2 b
    let kv := match sectionOf r.header r.plain 4, sectionOf r.header r.plain 5 with
      | some i, some p => some (readKv (fieldAt r.header 208 1) dim heads (n = 1) (layers i) p)
      | _, _ => none
    let rs := (sectionOf r.header r.plain 6).getD []
    let p := fieldAt r.header 208 1
    let clean := (chunksOf (partLen p dim (n = 1)) ((sectionOf r.header r.plain 5).getD [])).all (partClean p dim (n = 1))
    some ⟨d.take 256, d.drop 256, es, sectionOf r.header r.plain 3, kv,
      (List.range (rs.length / 4)).map fun i => BitVec.ofNat 32 (fieldAt rs (4 * i) 4), clean⟩
  | _, _ => none

/-- A revival's session rebuilt from its hank. DEDUCED (log 11). -/
def Revival.standing (r : Revival) (v : Revived) (gen tenant : Nat) : Session :=
  { sessionOf gen tenant .reviving v.desc v.guesses v.entries with
    residuals := if v.resid.isEmpty then [] else [(fieldAt r.header 200 4 - 1, v.resid)] }

/-- The data tiles that a revival reads: all, or those of sections 1 to 3 for a recompute (R187). -/
def revivalTiles (h : Bytes) (recompute : Bool) : List Nat :=
  if !recompute then List.range (fieldAt h 24 4) else
  (List.range (fieldAt h 37 1)).flatMap fun k =>
    let o := 256 + 32 * k
    if fieldAt h o 1 ≤ 3 then (List.range (fieldAt h (o + 12) 4)).map (· + fieldAt h (o + 8) 4) else []

/-- A new, empty session in an index (R171, R185). -/
def freshSession (gen tenant psize epoch : Nat) (model : Digest) (seed : BitVec 128) : Session :=
  { gen := gen, state := .idle, tenant := tenant, condensed := false, psize := psize, hist := [], kvlen := 0, reqId := 0
    treeNode := 0, treeGen := 0, globals := [], epoch := epoch, model := model, spool := [], spoolDigest := 0, spoolSeq := 0
    spoolLen := 0, segments := 0, segFill := 0, pageMap := [], lastCommit := 0, parkStore := 0xFF, parkOffset := 0
    seed := seed, hankId := 0, handoffId := 0, peer := 0, held := none, guesses := [], residuals := [], resFrom := [], marks := []
    windows := [], rebuild := false, prior := .idle, parkedReq := none }

/-- REVIVE accepted (R185): the session is REVIVING and its tile units are queued. -/
def State.startRevival (s : State) (r : Revival) (stamp : Nat) : State :=
  let tenant := fieldAt r.header 36 1
  let gen := (Tb.get s.ss.gens r.session).getD 0
  let x := match Tb.get s.ss.sessions r.session with
    | some x => { x with state := .reviving }
    | none => { freshSession gen tenant (fieldAt r.header 208 1) s.ten.map.epoch (digestOf (sliceAt r.header 96 48)) 0 with
        state := .reviving }
  let k := s.ss.nextRev
  let s := { s with ss.nextRev := k + 1, ss.revivals := Tb.set s.ss.revivals k r,
                    ss.sessions := Tb.set s.ss.sessions r.session x }
  (revivalTiles r.header r.recompute).foldl (fun s i =>
    s.addUnit (.reviveTile k i) (some x.tenant) (some r.session) 65536 stamp false) s

/-- A revival forgotten, its queued units gone. -/
def State.dropRevival (s : State) (k : Nat) : State :=
  let q : List UnitRec := s.work.queue.filter fun u => match u.kind with | .reviveTile j _ => j != k | _ => true
  { s with ss.revivals := Tb.del s.ss.revivals k, work.queue := q }

/-- The failure of a revival (R185): PARKED again, or the new index FREE. -/
def State.revivalFailed (s : State) (k : Nat) : State :=
  match Tb.get s.ss.revivals k with
  | none => s
  | some r =>
    let s := s.releaseKv r.session
    let req := ((Tb.get s.ss.sessions r.session).map (·.reqId)).getD 0
    let s := { s with ss.rebuilds := Tb.del s.ss.rebuilds r.session, ss.reqs := Tb.del s.ss.reqs req }
    let s := match r.before with
      | some x => { s with ss.sessions := Tb.set s.ss.sessions r.session x }
      | none => { s with ss.sessions := Tb.del s.ss.sessions r.session }
    s.dropRevival k

/-- The tenant's route is unchanged since a stamp on this device (R187). -/
def State.routeKept (s : State) (tenant stamp : Nat) : Bool :=
  match Tb.get s.ten.tenants tenant with
  | some t => t.routeSince ≤ stamp / 65536
  | none => false

/-- Which of a REQUEST section's parts come back (R187): the STALLED request, whose ID must not be in use, and the held
output, which the device must still hold where it knows the session. -/
def State.comesBack (s : State) (rs : Bytes) (keep : Bool) (old : Option Session) : Bool × Bool :=
  (keep && fieldAt rs 0 4 != 0 && !Tb.has s.ss.reqs (fieldAt rs 0 4),
    keep && (fieldAt rs 8 4 != 0 || !zeroAt rs 32 32) && (old.map fun o => o.held.isSome).getD true)

/-- The spool entries that free what does not come back (R187): STALL_FREE, HELD_DISCARD. -/
def State.goneEntries (s : State) (rs : Bytes) (keep : Bool) (old : Option Session) : List (Nat × Bytes) :=
  let b := s.comesBack rs keep old
  (if fieldAt rs 0 4 != 0 && !b.1 then [(0x09, toLE 4 (fieldAt rs 0 4))] else []) ++
    (if (fieldAt rs 8 4 != 0 || !zeroAt rs 32 32) && !b.2
      then [(0x14, toLE 4 (fieldAt rs 16 4) ++ toLE 4 (fieldAt rs 8 4))] else [])

/-- A STALLED request and held output that come back (R187, R190). Where a request's ring, mailbox and tag are not on
the device they are free values. DEDUCED (log 27). -/
def State.attachRequest (s : State) (idx : Nat) (keep : Bool) (rs : Bytes) (old : Option Session) : State :=
  match Tb.get s.ss.sessions idx with
  | none => s
  | some x =>
    let back := s.comesBack rs keep old
    let req := fieldAt rs 0 4
    let d := s.drawFree
    let mb := (s.routeOf x.tenant).getD 0
    let home : ReqHome := match old.bind (·.parkedReq) with
      | some (_, q) => ⟨q.mbox, q.mboxGen, q.tag, q.ringAddr, q.ringCount, q.indexAddr⟩
      | none => ⟨mb, (s.mbx[mboxFin mb]).gen, d.1.toNat % 2 ^ 32, d.1.toNat / 2 ^ 32 % 2 ^ 58 * 64, 64,
          d.1.toNat / 2 ^ 96 % 2 ^ 60 * 16⟩
    let s := match back.1, lastTurn x.spool with
      | true, some (t, es) =>
        let s := if (old.bind (·.parkedReq)).isSome then s else d.2
        let g : Option GState := if fieldAt rs 20 4 = 0 then none else
          some ⟨fieldAt rs 68 4, (List.range (fieldAt rs 66 2)).map fun i => fieldAt rs (80 + 2 * i) 2⟩
        let q := { s.reqOfTurn idx t es home with
          gstate := g, stateOf := g.map fun _ => (fieldAt rs 64 2 % 1024, (fieldAt rs 20 4 - 16) / 2), phase := .stalled, stallUntilUs := some (s.timeUs + 1000 * fieldAt rs 4 4) }
        let q := match old.bind (·.parkedReq) with
          | some (_, p) => { q with slice := p.slice, nextSlice := p.slice, stallHoldMs := p.stallHoldMs,
                                    condenseAt := p.condenseAt, noTree := p.noTree, producer := p.producer,
                                    consumer := p.consumer }
          | none => q
        { s with ss.reqs := Tb.set s.ss.reqs req q }.updSess idx fun x => { x with reqId := req }
      | _, _ => s
    if !back.2 then s else
    let n := fieldAt rs 8 4
    let o := 64 + fieldAt rs 20 4
    let c := if zeroAt rs 32 32 then none else some (completionOf (sliceAt rs 32 32))
    s.updSess idx fun x => { x with held := some ⟨fieldAt rs 16 4, s.timeUs + 1000000 * fieldAt rs 12 4,
      (List.range n).map fun i => sliceAt rs (o + 32 * i) 32, c⟩ }

/-- Whether a REQUEST section is restored at a revival (R187). DEDUCED (log 27). -/
def State.keepsRequest (s : State) (h : Bytes) (tenant : Nat) : Bool :=
  fieldAt h 216 8 = Config.deviceId.toNat && s.routeKept tenant (fieldAt h 192 8)

/-- The session returns (R186, R187): IDLE, or BUSY if a STALLED request is attached. DEDUCED (log 25). -/
def State.sessionBack (s : State) (idx : Nat) : State :=
  s.updSess idx fun x => { x with state := if x.reqId = 0 then .idle else .busy }

/-- A tile of a revival has passed (R185, R186, R187). With the last tile the session stands again: a full revival
places the KV in fresh pages; a recompute goes on with the rebuild of its KV. -/
def State.revivalTile (s : State) (k tile : Nat) (data : Bytes) (stamp : Nat) : State :=
  match Tb.get s.ss.revivals k with
  | none => s
  | some r =>
    let r := { r with plain := Tb.set r.plain tile data }
    let s := { s with ss.revivals := Tb.set s.ss.revivals k r }
    if r.plain.length < (revivalTiles r.header r.recompute).length then s else
    match Tb.get s.ss.sessions r.session with
    | none => s
    | some old =>
      let a := s.modelOf (digestOf (sliceAt r.header 96 48))
      let dim := (a.map (·.2.arch.headDim)).getD 128
      match r.read dim ((a.map (·.2.arch.kvHeads)).getD 1) with
      | none => s
      | some v =>
        let x := r.standing v old.gen old.tenant
        let src := fieldAt r.header 216 8
        let s := if r.recompute then { s with ss.revivals := Tb.set s.ss.revivals k { r with resPages := [] } } else s.dropRevival k
        let s := { s with ss.sessions := Tb.set s.ss.sessions r.session x }
        let prev := if r.fresh then none else some old
        if r.recompute then
          let s := s.updSess r.session fun x => { x with guesses := [], residuals := [] }
          let keep := s.keepsRequest r.header old.tenant
          let rs := v.request.getD (zeros 64)
          let gone := s.goneEntries rs keep prev
          (s.attachRequest r.session keep rs prev).startRebuild r.session ⟨x.hist.length - 1, r.slice, r.slice,
            (replayOf v.entries).formats, r.cmd, some (fieldAt r.header 16 8, 1, src), gone, r.resPages, false, 0⟩ stamp
        else
          let s := s.storeKv r.session dim (v.kv.getD []) (fieldAt r.header 204 4)
          let s := s.attachRequest r.session (s.keepsRequest r.header old.tenant) (v.request.getD (zeros 64)) prev
          s.sessionBack r.session

/-- The tiles of a revival that have passed or wait to commit. -/
def State.revivalTilesDone (s : State) (k : Nat) : Tbl Bytes :=
  let mine := (s.work.done ++ s.work.deferred).flatMap (·.effs)
  mine.foldl (fun t e => match e with | .reviveTile j i d => if j = k then Tb.set t i d else t | _ => t)
    (((Tb.get s.ss.revivals k).map (·.plain)).getD [])

end Sys2Proof.Machine
end

