-- ==== Sys2Proof/Machine/Flags.lean ====
section
/-! DEFINITION. The status words of the registers and what a read of each register answers (R9, R52, R242, R243, R267,
R360, R379). -/
namespace Sys2Proof.Machine

/-- 2^i where the bit is set. -/
def bitAt (b : Bool) (i : Nat) : Nat := if b then 2 ^ i else 0

/-! ### GLB_ (R242) -/

/-- The code of GLB_STATUS.MODE (R242). -/
def Mode.code : Mode → Nat
  | .nci => 0 | .direct => 1 | .boot => 2 | .halted => 3

/-- GLB_REV, GLB_VERSION and GLB_FORMATS (R242). -/
def glbRev : Nat := 0xB1
def glbVersion : Nat := 0x22201310
def glbFormats : Nat := 0x01100203

/-- GLB_STATUS (R242). -/
def State.glbStatus (s : State) : Nat :=
  bitAt s.glb.ready 0 + s.glb.mode.code * 2 + bitAt (s.sec.sticky != 0) 3 + s.glb.lifecycle.code * 16 +
    bitAt s.glb.bistFail 7 + s.glb.rank % 64 * 256 + bitAt s.glb.inGroup 14

/-- A GLB_ register by offset; every other offset reads as zero (R9). -/
def State.readGlb (s : State) (off : Nat) : Nat :=
  match off with
  | 0x00 => 0x00E94C4B
  | 0x04 => glbRev
  | 0x08 => glbVersion
  | 0x0C => glbFormats
  | 0x10 => Config.deviceId.toNat % 2 ^ 32
  | 0x14 => Config.deviceId.toNat / 2 ^ 32
  | 0x20 => s.glbStatus
  | 0x24 => bitAt s.glb.dciReq 0
  | 0x28 => s.ten.map.epoch % 2 ^ 32
  | _ => 0

/-! ### TICK_ (R52) -/

/-- TICK_STATUS (R52). -/
def TickSt.status (t : TickSt) : Nat :=
  bitAt t.onMarker 0 + bitAt t.pinLoss 1 + bitAt t.tickFault 2 + bitAt t.schedMismatch 3 + bitAt t.defer 4 +
    bitAt t.staged.isSome 5

/-- This device is the tick root: rank 0, or a device outside a group, which starts its own ticks. DEDUCED (log 115). -/
def State.isRoot (s : State) : Bool := s.glb.rank = 0

/-- A TICK_ register by offset. -/
def State.readTick (s : State) (off : Nat) : Nat :=
  match off with
  | 0x00 => s.tk.src + bitAt (s.isRoot && s.ticking) 2
  | 0x04 => s.tk.status
  | 0x08 => s.tk.table.tickUs + ((s.tk.staged.map (·.table.tickUs)).getD 0) * 65536
  | 0x10 => s.tk.tick % 2 ^ 32
  | 0x14 => s.tk.hiLatch
  | 0x18 => if s.ticking then (s.timeUs - s.tk.startUs) % 4096 else 0
  | 0x20 => s.tk.table.tableId
  | 0x24 => (s.tk.staged.map (·.table.tableId)).getD 0
  | 0x28 => s.tk.abandonCnt + bitAt s.tk.abandonSat 31
  | 0x2C => s.tk.deferCnt + bitAt s.tk.deferSat 31
  | _ => 0

/-! ### MBX_ (R243) -/

/-- The code of MBX_STATUS.CHAN (R243). -/
def Chan.code : Chan → Nat
  | .idle => 0 | .negotiated => 1 | .opened => 2

/-- MBX_STATUS (R243). -/
def Mailbox.status (b : Mailbox) : Nat :=
  bitAt b.enabled 0 + b.chan.code * 2 + bitAt b.cfgErr 3 + bitAt b.sqErr 4 + bitAt b.wdog 5 + bitAt b.evtLost 6 +
    bitAt b.resetSeen 7 + b.nci % 256 * 256

/-- MBX_CTRL (R243). -/
def Mailbox.ctrl (b : Mailbox) : Nat := bitAt b.enable 0 + bitAt b.irqEn 1 + bitAt b.wdogEn 2

/-- A register of a mailbox page by offset. -/
def Mailbox.readReg (b : Mailbox) (off : Nat) : Nat :=
  match off with
  | 0x00 => b.sqBase.toNat % 2 ^ 32
  | 0x04 => b.sqBase.toNat / 2 ^ 32
  | 0x08 => b.cqBase.toNat % 2 ^ 32
  | 0x0C => b.cqBase.toNat / 2 ^ 32
  | 0x10 => b.shadow.toNat % 2 ^ 32
  | 0x14 => b.shadow.toNat / 2 ^ 32
  | 0x18 => b.sqLog2.toNat + b.cqLog2.toNat * 256
  | 0x1C => b.ctrl
  | 0x20 => b.status
  | 0x24 => b.sqTail
  | 0x28 => b.cqHead
  | 0x2C => b.shSqHead
  | 0x30 => b.shCqTail
  | 0x34 => b.wdogMs
  | _ => 0

/-! ### DCI_ (R267) -/

/-- DCI_STATUS (R267). -/
def Dci.status (d : Dci) : Nat := bitAt d.active 0 + d.cause % 4 * 2 + bitAt d.wqErr 3

/-- A DCI_ register by offset. -/
def Dci.readReg (d : Dci) (off : Nat) : Nat :=
  match off with
  | 0x00 => d.status
  | 0x04 => bitAt d.enable 0 + d.wqLog2.toNat * 16 + d.cqLog2.toNat * 256
  | 0x08 => d.wqBase.toNat % 2 ^ 32
  | 0x0C => d.wqBase.toNat / 2 ^ 32
  | 0x10 => d.cqBase.toNat % 2 ^ 32
  | 0x14 => d.cqBase.toNat / 2 ^ 32
  | 0x18 => d.wqTail
  | 0x1C => d.cqHead
  | 0x20 => d.wqHead
  | 0x24 => d.cqTail
  | _ => 0

/-! ### DBG_ and PWR_ (R360, R379) -/

/-- The LOST record of a part (R350, R352), which stands in the part's held last slot. -/
def DbgSt.lostRecord (d : DbgSt) (part : Nat) : List Bytes :=
  let n := if part = 0 then d.lostOrd else d.lostRes
  if n = 0 then [] else [traceBytes 0 1 0 21 0 (toLE 4 n ++ toLE 1 part)]

/-- Record i of the trace window's part, counted from the oldest (R354); the window shows records in FROZEN and OFF. -/
def DbgSt.windowRecord (d : DbgSt) (i : Nat) : Bytes :=
  if d.capture = 1 || d.capture = 2 then zeros 32 else
  let part := if d.winPart then d.reserved ++ d.lostRecord 1 else d.ordinary ++ d.lostRecord 0
  part.getD (d.winBase + i) (zeros 32)

/-- A DBG_ register or trace window word by offset (R354, R360). -/
def State.readDbg (s : State) (off : Nat) : Nat :=
  if 0x80000 ≤ off then fieldAt (s.dbg.windowRecord ((off - 0x80000) / 32)) ((off - 0x80000) % 32 / 4 * 4) 4 else
  match off with
  | 0x00 => s.dbg.capture + bitAt s.dbg.spillSat 2
  | 0x04 => s.sec.sticky.toNat
  | 0x08 => s.dbg.lost
  | 0x0C => bitAt s.dbg.winPart 0 + s.dbg.winBase * 16
  | 0x10 => bitAt s.dbg.staged.isSome 0 + s.dbg.cause * 2 + s.dbg.missed * 65536
  | _ => 0

/-- PWR_STATUS (R379). -/
def PwrSt.status (p : PwrSt) : Nat :=
  bitAt p.tableOver 0 + bitAt p.peakTrip 1 + bitAt p.vfFault 2 + p.shut % 4 * 8 + p.point % 4 * 32

/-- A PWR_ register by offset. -/
def PwrSt.readReg (p : PwrSt) (off : Nat) : Nat :=
  match off with
  | 0x00 => p.status
  | 0x04 => p.boardW + p.pendingW * 65536
  | 0x08 => p.allow
  | 0x0C => Nat.min p.debt 0xFFFFFFFF
  | 0x10 => p.lastEw % 2 ^ 32
  | _ => 0

/-- A read of BAR0 of port 0 by a function: the PF's 16 MiB, or a VF's own mailbox page (R239). Without firmware only
GLB_STATUS, which holds LIFECYCLE, and the DCI_ block are available (R266). DEDUCED (log 84). -/
def State.readBar0 (s : State) (f : Fin 64) (off : Nat) : Word32 :=
  let n :=
    if s.noFirmware && !(f = 0 && (off = 0x20 || (0x100000 ≤ off && off < 0x101000))) then 0
    else if f ≠ 0 then (if off < 0x1000 then (s.mbx[f]).readReg off else 0)
    else if off < 0x1000 then s.readGlb off
    else if 0x10000 ≤ off ∧ off < 0x50000 then (s.mbx[mboxFin ((off - 0x10000) / 0x1000)]).readReg (off % 0x1000)
    else if 0x100000 ≤ off ∧ off < 0x101000 then s.dci.readReg (off - 0x100000)
    else if 0x200000 ≤ off ∧ off < 0x201000 then s.readTick (off - 0x200000)
    else if 0x300000 ≤ off ∧ off < 0x400000 then s.readDbg (off - 0x300000)
    else if 0x400000 ≤ off ∧ off < 0x401000 then s.pwr.readReg (off - 0x400000)
    else 0
  BitVec.ofNat 32 n

/-- A read of BAR0 of port 1's function: 4 KiB, a read-only copy of the GLB_ registers (R239). Writes to it are ignored: no
command of the block comes from there. -/
def State.readPort1 (s : State) (off : Nat) : Word32 :=
  if off < 0x1000 then BitVec.ofNat 32 (if s.noFirmware && off ≠ 0x20 then 0 else s.readGlb off) else 0

end Sys2Proof.Machine
end

