-- ==== Sys2Proof/Machine/Ecc.lean ====
section
/-! DEFINITION. NIST P-384: ECDH and ECDSA with SHA-384, which the spec names without restating them (R308, R316,
R317, R324, R330): FIPS 186-5 and SP 800-186. PRESUMED from those published standards (log 7). -/
namespace Sys2Proof.Machine.Ecc

def p : Nat := 2 ^ 384 - 2 ^ 128 - 2 ^ 96 + 2 ^ 32 - 1
def n : Nat := 0xffffffffffffffffffffffffffffffffffffffffffffffffc7634d81f4372ddf581a0db248b0a77aecec196accc52973
def b : Nat := 0xb3312fa7e23ee7e4988e056be3f82d19181d9c6efe8141120314088f5013875ac656398d8a2ed19d2a85c8edd3ec2aef
def gx : Nat := 0xaa87ca22be8b05378eb1c71ef320ad746e1d3b628ba79b9859f741e082542a385502f25dbf55296c3a545e3872760ab7
def gy : Nat := 0x3617de4a96262c6f5d9e98bf9292dc29f8f41dbd289a147ce9da3113b5f0b8c00a60b1ce1d7e819d7a431d7c90ea0e5f

/-- `a ^ e mod m` by square and multiply, most significant bit first. -/
def powMod (m a e : Nat) : Nat :=
  (List.range 384).foldl (fun r i => let r := r * r % m; if e.testBit (383 - i) then r * a % m else r) 1

def inv (m a : Nat) : Nat := powMod m a (m - 2)

/-- A point in Jacobian coordinates; z = 0 is the point at infinity. -/
structure Pt where
  x : Nat
  y : Nat
  z : Nat
  deriving DecidableEq, Repr

def inf : Pt := ⟨1, 1, 0⟩
def g : Pt := ⟨gx, gy, 1⟩

def sb (a c : Nat) : Nat := (a + p - c % p) % p

def dbl (q : Pt) : Pt :=
  if q.z = 0 then inf else
  let yy := q.y * q.y % p
  let s := 4 * q.x * yy % p
  let zz := q.z * q.z % p
  let m := 3 * sb q.x zz * ((q.x + zz) % p) % p
  let x3 := sb (m * m % p) (2 * s)
  ⟨x3, sb (m * sb s x3 % p) (8 * yy * yy), 2 * q.y * q.z % p⟩

def add (q r : Pt) : Pt :=
  if q.z = 0 then r else if r.z = 0 then q else
  let z1 := q.z * q.z % p
  let z2 := r.z * r.z % p
  let u1 := q.x * z2 % p
  let u2 := r.x * z1 % p
  let s1 := q.y * z2 * r.z % p
  let s2 := r.y * z1 * q.z % p
  if u1 = u2 then (if s1 = s2 then dbl q else inf) else
  let h := sb u2 u1
  let rr := sb s2 s1
  let hh := h * h % p
  let hhh := h * hh % p
  let v := u1 * hh % p
  let x3 := sb (sb (rr * rr % p) hhh) (2 * v)
  ⟨x3, sb (rr * sb v x3 % p) (s1 * hhh), h * q.z * r.z % p⟩

def mul (k : Nat) (q : Pt) : Pt :=
  (List.range 384).foldl (fun r i => let r := dbl r; if k.testBit (383 - i) then add r q else r) inf

/-- The affine coordinates, none at infinity. -/
def affine (q : Pt) : Option (Nat × Nat) :=
  if q.z = 0 then none else
  let zi := inv p q.z
  let z2 := zi * zi % p
  some (q.x * z2 % p, q.y * z2 % p * zi % p)

/-- (x, y) satisfies the curve's equation. -/
def onCurve (x y : Nat) : Bool :=
  x < p && y < p && (y * y) % p == (x * x * x + (p - 3) * x + b) % p

/-- An uncompressed public key, 97 bytes: 0x04, x, y. -/
def pubBytes (d : Nat) : Bytes :=
  match affine (mul d g) with
  | some (x, y) => [4] ++ toBE 48 x ++ toBE 48 y
  | none => zeros 97

/-- The point of an uncompressed public key, none where it is not on the curve (R323). -/
def pubPoint (k : Bytes) : Option Pt :=
  let x := beNat (sliceAt k 1 48)
  let y := beNat (sliceAt k 49 48)
  if k.length = 97 ∧ k.headD 0 = 4 ∧ onCurve x y then some ⟨x, y, 1⟩ else none

/-- The ECDH shared secret: the x coordinate. -/
def ecdh (d : Nat) (peer : Bytes) : Option Bytes :=
  (pubPoint peer).bind fun q => (affine (mul d q)).map fun a => toBE 48 a.1

/-- ECDSA verification with SHA-384 of a 96-byte signature r ‖ s. -/
def verify (pub msg sig : Bytes) : Bool :=
  match pubPoint pub with
  | none => false
  | some q =>
    let r := beNat (sig.take 48)
    let s := beNat (sliceAt sig 48 48)
    if r = 0 ∨ s = 0 ∨ n ≤ r ∨ n ≤ s ∨ sig.length ≠ 96 then false else
    let e := (Sha.sha384 msg).toNat % n
    let w := inv n s
    match affine (add (mul (e * w % n) g) (mul (r * w % n) q)) with
    | none => false
    | some (x, _) => x % n = r

/-- ECDSA signature with SHA-384 under private key `d` and nonce `k`. -/
def sign (d k : Nat) (msg : Bytes) : Bytes :=
  match affine (mul (k % n) g) with
  | none => zeros 96
  | some (x, _) =>
    let r := x % n
    let e := (Sha.sha384 msg).toNat % n
    toBE 48 r ++ toBE 48 (inv n (k % n) * ((e + r * d) % n) % n)

end Sys2Proof.Machine.Ecc
end

