-- ==== Sys2Proof/Machine/Keys.lean ====
section
/-! DEFINITION. Attestation reports, key exchange, key slots, the vault, rotation (R310 to R325). -/
namespace Sys2Proof.Machine

/-! ### Key slots (R311, R312) -/

/-- Pages of a PROTECTED tenant's spool segments, page maps, held output, node pool and stores on this device, which are encrypted
(R311, R313). DEDUCED (log 58). -/
def State.otherPages (s : State) (t : Nat) : Nat :=
  if !((Tb.get s.ten.tenants t).map (·.isProtected)).getD false then 0 else
  let mine := s.ss.sessions.filter fun e => e.2.tenant = t
  let nodes := if s.treeHere t then ((s.kv.nodes.filter fun n => n.key.tenant = t && n.live).map fun n => nodeBytes n.layers n.key.psize).sum else 0
  (mine.map fun e => s.segmentCharge e.1 / 65536 * e.2.segments + (if s.samples e.1 then
      ceilDiv (4 * (e.2.pageMap.map List.length).sum) 65536 + (match e.2.held with
        | some h => ceilDiv (32 * h.records.length + 32) 65536 | none => 0) else 0)).sum +
    ceilDiv nodes 2097152 + ((s.st.stores.filter fun e => e.2.tenant = t).map fun e => ceilDiv (s.storeCharge e.1 e.2) 2097152).sum

/-- Of those, the pages under older generations that are not swept yet. -/
def State.restPages (s : State) (t : Nat) : Nat :=
  ((s.sec.slots.filter fun e => e.2.tenant = t && e.2.kind == .draining).map (·.2.rest)).sum

/-- A slot's count (R311): KV parts in stacked memory that are encrypted under it (R313), device pages (R215), and what else a
PROTECTED tenant has in encrypted pages. DEDUCED (log 58). -/
def State.slotCount (s : State) (slot gen : Nat) : Nat :=
  (match Tb.get s.sec.slots slot with
    | some k => if k.gen ≠ gen then 0 else if k.kind == .current then s.otherPages k.tenant - s.restPages k.tenant else k.rest
    | none => 0) +
  ((s.kv.pages.filter fun e => e.2.enc && e.2.keySlot = slot && e.2.keyGen = gen).map fun e =>
      (s.localHeads e.2.data.heads.length e.2.psize e.2.layer e.2.data.idx).length).sum +
    (s.ats.entries.filter fun (e : Nat × (Nat × BitVec 32 × Nat)) =>
      e.2.2.1.getLsbD 7 && e.2.2.1.toNat / 2 ^ 15 % 4096 = slot && e.2.2.2 = gen).length

/-- The lowest FREE slot of 1 to 4,095. -/
def State.freeSlot (s : State) : Option Nat :=
  ((List.range 4096).drop 1).find? fun i => !Tb.has s.sec.slots i

/-- Tenant IDs without a CURRENT or DORMANT slot (R312). -/
def State.bareTenants (s : State) : Nat :=
  ((List.range 64).filter fun t => !(s.sec.slots.any fun e =>
    e.2.tenant = t && (e.2.kind == .current || e.2.kind == .dormant))).length

/-- R312's room for an allocation that is not a tenant's first generation. -/
def State.slotRoom (s : State) : Bool :=
  s.freeSlot.isSome && decide (s.bareTenants ≤ 4095 - s.sec.slots.length - 1)

/-- Key slots held in this lifecycle state (R307). -/
def State.holdsKeys (s : State) : Bool := s.glb.lifecycle == .field || s.glb.lifecycle == .provisioned

/-- The generations of a tenant in use, newest first. -/
def State.tenantSlots (s : State) (t : Nat) : Tbl KeySlot :=
  s.sec.slots.filter fun e => e.2.tenant = t && [SlotKind.current, .draining, .kept, .dormant].contains e.2.kind

/-- The highest generation of a tenant. -/
def State.tenantGen (s : State) (t : Nat) : Nat := (s.tenantSlots t).foldl (fun a e => Nat.max a e.2.gen) 0

/-- A freshly drawn 256-bit key (R310). -/
def State.drawKey (s : State) : Key × State := let d := s.drawFree; (d.1.setWidth 256, d.2)

/-- The vault as the slots stand (R311): every tenant generation. DEDUCED (log 54). -/
def State.saveVault (s : State) : State :=
  let v : Tbl KeySlot := s.sec.slots.filter fun e => [SlotKind.current, .draining, .kept, .dormant].contains e.2.kind
  { s with sec.vault := v }

/-- DRAINING slots whose count is 0 are erased, or become KEPT (R320). DEDUCED (log 58). -/
def State.settleSlots (s : State) : State :=
  let step (e : Nat × KeySlot) : Option (Nat × KeySlot) :=
    if e.2.kind == .draining && s.slotCount e.1 e.2.gen = 0 then
      (if e.2.keep then some (e.1, { e.2 with kind := .kept }) else none)
    else some e
  let l : Tbl KeySlot := s.sec.slots.filterMap step
  { s with sec.slots := l }

/-- Stacked memory no longer reads as zeroed once anything has been put there (R309). -/
def State.unzero (s : State) : State :=
  { s with sec.zeroed := s.sec.zeroed && s.img.models.isEmpty && s.img.grammars.isEmpty && s.img.vocabs.isEmpty &&
      s.ss.sessions.isEmpty && s.ss.revivals.isEmpty && s.kv.nodes.isEmpty && s.st.stores.isEmpty }

/-- The MODEL slot of an image (R318). -/
def State.modelKey (s : State) (keyRef : BitVec 128) (d : Digest) : Option Key :=
  (s.sec.slots.find? fun e => e.2.kind == .model && e.2.keyRef = keyRef && e.2.modelDigest = d).map (·.2.key)

/-- A KEY_ROTATE takes its slot, the lowest FREE one, and draws its key when its vault write begins (R312, R320).
DEDUCED (log 58). -/
def State.holdSlot (s : State) (w : VaultWork) : State :=
  let hold (t i gen : Nat) : State :=
    let d := s.drawKey
    { d.2 with sec.slots := Tb.set d.2.sec.slots i ⟨.coming, t, gen, d.1, false, 0, 0, 0, 0⟩ }
  match w with
  | .rotate t i _ => hold t i (s.tenantGen t + 1)
  | .erase t i => hold t i 1
  | _ => s

/-- The effect of a finished vault write (R311, R312, R320). -/
def State.applyVault (s : State) (w : VaultWork) : State :=
  match w with
  | .create t x =>
    let mine := s.tenantSlots t
    let s := { s with ten.tenants := Tb.set s.ten.tenants t { x with routeSince := s.tk.tick } }
    let s := if s.ten.map.epoch = 0 then
        { s with ten.map := { s.ten.map with tenants := Tb.set s.ten.map.tenants t ⟨x.mailbox, 0xFF, 0, 0⟩ } } else s
    if mine.isEmpty then
      match s.holdsKeys, s.freeSlot with
      | true, some i =>
        let d := s.drawKey
        { d.2 with sec.slots := Tb.set d.2.sec.slots i ⟨.current, t, 1, d.1, false, 0, 0, 0, 0⟩ }.saveVault
      | _, _ => s
    else
      let top := s.tenantGen t
      let f (e : Nat × KeySlot) : Nat × KeySlot := if e.2.tenant = t && e.2.kind == .dormant then
        (e.1, { e.2 with kind := if e.2.gen = top then .current else .kept }) else e
      let l : Tbl KeySlot := s.sec.slots.map f
      { s with sec.slots := l }.saveVault
  | .rotate t i keep =>
    match Tb.get s.sec.slots i with
    | none => s
    | some k =>
      let rest := s.otherPages t - s.restPages t
      let f (e : Nat × KeySlot) : Nat × KeySlot := if e.2.tenant = t && e.2.kind == .current then
        (e.1, { e.2 with kind := .draining, keep := keep, rest := rest }) else e
      let l : Tbl KeySlot := s.sec.slots.map f
      { s with sec.slots := Tb.set l i { k with kind := .current, gen := s.tenantGen t + 1 } }.saveVault
  | .dropKept t =>
    let l : Tbl KeySlot := (s.sec.slots.filter fun e => !(e.2.tenant = t && e.2.kind == .kept)).map fun e =>
      if e.2.tenant = t && e.2.kind == .draining then (e.1, { e.2 with keep := false }) else e
    { s with sec.slots := l }.saveVault
  | .erase t i =>
    match Tb.get s.sec.slots i with
    | none => s
    | some k =>
      let l : Tbl KeySlot := s.sec.slots.filter fun e =>
        !(e.2.tenant = t && [SlotKind.current, .draining, .kept, .dormant].contains e.2.kind)
      { s with sec.slots := Tb.set l i { k with kind := .current, gen := 1 } }.saveVault

/-! ### The attestation report (R324, R325) -/

/-- A set digest (R325). -/
def setDigest (es : List Bytes) : Bytes := digestBytes (Sha.sha384 es.flatten)

/-- The code of a model slot's state (R89, R260). -/
def State.slotState (s : State) (k : Nat) : Nat :=
  match Tb.get s.img.models k with
  | none => 0
  | some m => match m.state with | .loading => 1 | .active => 2 | .retiring => 3

/-- Bytes 0 to 1,535 of a report (R324); the signature follows them. -/
def State.reportBody (s : State) (kind reportId stamp : Nat) (nonce subject releasePub : Bytes) : Bytes :=
  let mask (p : Tenant → Bool) : Nat := (s.ten.tenants.map fun e => bitAt (p e.2) e.1).sum
  let adapters := (s.img.adapters.mergeSort fun a b => a.id < b.id || (a.id = b.id && a.ver ≤ b.ver)).map fun a =>
    toLE 2 a.id ++ toLE 2 a.ver ++ digestBytes a.digest
  let grammars := s.img.grammars.map fun e => toLE 2 e.1 ++ digestBytes e.2.digest
  let vocabs := s.img.vocabs.map fun e => toLE 1 e.1 ++ digestBytes e.2.digest
  toLE 4 0x54535441 ++ toLE 2 1 ++ toLE 1 kind ++ toLE 1 s.glb.lifecycle.code ++ toLE 8 Config.deviceId.toNat ++
  toLE 8 reportId ++ toLE 8 stamp ++ fitTo 32 nonce ++ toLE 4 s.sec.sticky.toNat ++ toLE 4 glbRev ++ toLE 4 glbVersion ++
  toLE 4 glbFormats ++ toLE 8 s.grp.groupId ++ toLE 1 s.glb.rank ++ toLE 1 s.grp.n ++ toLE 2 s.tickUs ++
  toLE 4 s.ten.map.epoch ++ toLE 4 s.tk.table.tableId ++ toLE 4 s.pwr.boardW ++ toLE 8 (mask fun _ => true) ++
  toLE 8 (mask (·.isProtected)) ++ toLE 2 s.sec.slots.length ++ zeros 6 ++
  ((List.range 6).flatMap fun i => digestBytes (Config.firmwareDigest i)) ++
  ((List.range 8).flatMap fun k => digestBytes (((Tb.get s.img.models k).map (·.digest)).getD 0)) ++
  ((List.range 8).flatMap fun k => toLE 1 (s.slotState k)) ++ setDigest adapters ++ toLE 4 adapters.length ++
  toLE 2 grammars.length ++ toLE 1 vocabs.length ++ zeros 1 ++ setDigest grammars ++ setDigest vocabs ++
  fitTo 256 subject ++ fitTo 97 releasePub ++ zeros 15 ++ Ecc.pubBytes Config.identityKey ++ zeros 15 ++
  toBE 96 Config.certSig.toNat

/-- A signed report; the nonce of the signature is a drawn value. -/
def State.report (s : State) (kind reportId stamp : Nat) (nonce subject releasePub : Bytes) : Bytes × State :=
  let b := s.reportBody kind reportId stamp nonce subject releasePub
  let d := s.drawFree
  (b ++ Ecc.sign Config.identityKey d.1.toNat b, d.2)

/-- SUBJECT of a KIND 1 report (R324). -/
def State.subjectOf (s : State) (idx : Nat) (x : Session) : Bytes :=
  let turn := lastTurn x.spool
  let ad := (turn.map fun t => sliceAt t.1 48 48).getD (zeros 48)
  let gr := match turn with
    | none => zeros 48
    | some (t, es) => match (es.filter fun e => entryType e = 0x08).getLast? with
      | some g => sliceAt g 16 48
      | none => sliceAt t 96 48
  let voc := (x.spool.head?.map fun e => sliceAt e 96 48).getD (zeros 48)
  let prot := ((Tb.get s.ten.tenants x.tenant).map (·.isProtected)).getD false
  toLE 8 (handleOf idx x.gen) ++ toLE 1 x.tenant ++ toLE 1 (if prot then 1 else 0) ++ zeros 6 ++
    digestBytes x.spoolDigest ++ digestBytes x.model ++ ad ++ gr ++ voc

/-- The certificate and signature of a report verify (R316). -/
def reportSigned (r : Bytes) : Bool :=
  let pub := sliceAt r 1328 97
  Ecc.verify (toBE 97 Config.deviceCaKey.toNat) (sliceAt r 8 8 ++ pub) (sliceAt r 1440 96) &&
    Ecc.verify pub (r.take 1536) (sliceAt r 1536 96)

/-! ### Key exchange (R315, R316) -/

/-- The 12 bytes of a HELLO that every HELLO holds (R278). -/
def helloBase : Bytes := toLE 8 Config.deviceId.toNat ++ toLE 1 0x20 ++ toLE 1 0x22 ++ toLE 2 0x0100

/-- XKIND of an exchange. -/
def HelloVia.kind : HelloVia → Nat
  | .link _ => 1 | .member _ => 2 | .transport _ => 3

/-- CONTEXT of an exchange. -/
def State.helloContext (s : State) : HelloVia → Nat
  | .link _ => 0 | .member _ => (s.grp.join.map fun d => fieldAt d 8 8).getD s.grp.groupId | .transport h => h.toNat

/-- A HELLO with its key-exchange block (R315). -/
def helloBody (kind phase context : Nat) (nonce pub report : Bytes) : Bytes :=
  helloBase ++ toLE 1 kind ++ toLE 1 phase ++ zeros 2 ++ toLE 8 context ++ fitTo 32 nonce ++ fitTo 97 pub ++ zeros 7 ++
    fitTo 1632 report

/-- A fresh exchange: an ephemeral key and a nonce drawn (R315). -/
def State.newExchange (s : State) : KeyExchange × State :=
  let a := s.drawFree
  let b := a.2.drawFree
  (⟨a.1.toNat % (Ecc.n - 1) + 1, toLE 32 b.1.toNat, 0, [], [], false, false⟩, b.2)

/-- NONCE of a phase 2 report (R315). -/
def phase2Nonce (kind context : Nat) (pub peerNonce : Bytes) : Bytes :=
  (Sha.sha384Bytes (toLE 1 kind ++ toLE 8 context ++ pub ++ peerNonce)).take 32

/-- S of R316: both nonces as salt, the lower DEVICE_ID's first, over the ECDH secret. -/
def KeyExchange.secret (x : KeyExchange) : Option Bytes :=
  (Ecc.ecdh x.ephPriv x.peerEph).map fun z =>
    let salt := if Config.deviceId.toNat < x.peerId then x.nonce ++ x.peerNonce else x.peerNonce ++ x.nonce
    Sha.hkdfExtract salt z

/-- The exchange of a way, where it is kept. -/
def State.exchangeOf (s : State) : HelloVia → Option KeyExchange
  | .link p => (s.ports[p]).exchange
  | v => (s.sec.exchanges.find? fun e => e.1 = v).map (·.2)

/-- An exchange written back. -/
def State.putExchange (s : State) (v : HelloVia) (x : Option KeyExchange) : State :=
  match v with
  | .link p => { s with ports := s.ports.set p { s.ports[p] with exchange := x } }
  | v => { s with sec.exchanges := (s.sec.exchanges.filter fun e => e.1 != v) ++ (x.map fun y => (v, y)).toList }

/-- The report of a peer is accepted (R316) and its policy holds. -/
def State.acceptsReport (s : State) (v : HelloVia) (x : KeyExchange) (r : Bytes) : Bool :=
  reportSigned r && sliceAt r 32 32 == phase2Nonce v.kind (s.helloContext v) x.peerEph x.nonce &&
  fieldAt r 8 8 = x.peerId && fieldAt r 0 4 = 0x54535441 && fieldAt r 4 2 = 1 &&
  match v with
  | .link _ => fieldAt r 7 1 = s.glb.lifecycle.code
  | .member _ => fieldAt r 7 1 = 3 && s.glb.lifecycle == .field && fieldAt r 78 1 = 0x10 &&
      sliceAt r 176 240 == ((List.range 5).flatMap fun i => digestBytes (Config.firmwareDigest (i + 1)))
  | .transport _ => fieldAt r 7 1 = 3 && s.glb.lifecycle == .field && fieldAt r 78 1 = 0x10

/-- The keys of a finished exchange installed (R316): a port's secret and salt, a transport key in its slot. Where R312 refuses the slot,
the handoff ends with E_BUSY. -/
def State.installExchange (s : State) (v : HelloVia) (x : KeyExchange) : State :=
  match x.secret with
  | none => s
  | some z => match v with
    | .link p => { s with ports := s.ports.set p { s.ports[p] with
        secret := Sha.hkdfExpand z (label "E9 LINK") 48, salt := Sha.hkdfExpand z (label "E9 SALT") 4
        txPhase := 0, rxPhase := 0, txSeq := 0, rxSeq := 0 } }
    | .member _ => s
    | .transport h => match s.freeSlot, s.slotRoom with
      | none, _ | _, false =>
        let f (e : HandoffSrc) : HandoffSrc := { e with aborted := some Status.eBusy.code }
        { s with ss.srcs := Tb.upd s.ss.srcs h.toNat f }
      | some i, true => { s with sec.slots := Tb.set s.sec.slots i ⟨.transport, 0, 0,
          keyOf (Sha.hkdfExpand z (label "E9 XPORT" ++ toLE 8 h.toNat) 32), false, 0, 0, h.toNat, 0⟩ }

/-- A transport slot freed at the end of its handoff (R316). -/
def State.freeTransport (s : State) (h : Nat) : State :=
  let l : Tbl KeySlot := s.sec.slots.filter fun e => !(e.2.kind == .transport && e.2.handoff = h)
  { s with sec.slots := l, sec.exchanges := s.sec.exchanges.filter fun e => e.1 != .transport (BitVec.ofNat 64 h) }

/-! ### Rotation (R321) -/

/-- The re-encryption of the objects under a DRAINING slot of a tenant (R321): every part of the tenant's pages that
lies under the slot, and whatever else does, goes to the CURRENT generation. DESIGN CHOICE (log 62). -/
def State.reencrypt (s : State) (tenant slot : Nat) : State :=
  match s.currentSlot tenant, Tb.get s.sec.slots slot with
  | some (i, k), some old =>
    let f (e : Nat × Page) : Nat × Page := if e.2.enc && e.2.keySlot = slot && e.2.keyGen = old.gen then
      (e.1, { e.2 with keySlot := i, keyGen := k.gen }) else e
    let g (e : Nat × (Nat × BitVec 32 × Nat)) : Nat × (Nat × BitVec 32 × Nat) :=
      let ctl := e.2.2.1
      if ctl.getLsbD 7 && ctl.toNat / 2 ^ 15 % 4096 = slot && e.2.2.2 = old.gen then
        (e.1, (e.2.1, (ctl &&& ~~~(BitVec.ofNat 32 (0xFFF * 2 ^ 15 + 64))) ||| BitVec.ofNat 32 (i * 2 ^ 15), k.gen)) else e
    let ps : Tbl Page := s.kv.pages.map f
    let es : Tbl (Nat × BitVec 32 × Nat) := s.ats.entries.map g
    { s with kv.pages := ps, ats.entries := es, sec.slots := Tb.set s.sec.slots slot { old with rest := 0 } }
  | _, _ => s

/-! ### Key release (R317) -/

/-- A release blob opened (R317, R323): the model key, none where OWNER_PUB is not on the curve or TAG fails. -/
def openRelease (priv : Nat) (b : Bytes) : Option Key :=
  (Ecc.ecdh priv (sliceAt b 80 97)).bind fun z =>
    let wrap := Sha.hkdf z (label "E9 RELEASE" ++ sliceAt b 16 16 ++ sliceAt b 32 48) 32 (salt := sliceAt b 8 8)
    (Aes.gcmDecrypt wrap (zeros 12) (b.take 192) (sliceAt b 192 32) (sliceAt b 224 16)).map keyOf

/-- The release keys kept: the 16 newest (R317). -/
def keepReleases (l : List ReleaseKey) : List ReleaseKey := l.drop (l.length - 16)

end Sys2Proof.Machine
end

