-- ==== Sys2Proof/Machine/Handoff.lean ====
section
/-! DEFINITION. Handoffs: messages, the source's and the destination's changes and what a commit point makes of them
(R188 to R192). -/
namespace Sys2Proof.Machine

/-- A handoff message (R188); its STAMP is written when the message is committed. -/
def handoffMsg (ty verdict id src dst len : Nat) (digest : Digest) (timeoutMs : Nat) : Bytes :=
  toLE 1 ty ++ toLE 1 verdict ++ zeros 6 ++ toLE 8 id ++ toLE 8 src ++ toLE 8 dst ++ zeros 8 ++ toLE 8 len ++
    digestBytes digest ++ toLE 4 timeoutMs ++ zeros 28

/-- A handoff message's STAMP (R188) set to the stamp of its commit. -/
def MsgBody.stamped (b : MsgBody) (stamp : Nat) : MsgBody :=
  match b with
  | .handoff m => .handoff (overwrite m 32 (toLE 8 stamp))
  | b => b

/-- The handle of a session in an index. -/
def State.handleAt (s : State) (idx : Nat) : Nat := handleOf idx (((Tb.get s.ss.sessions idx).map (·.gen)).getD 0)

/-- A source record changed. DESIGN CHOICE (log 68). -/
def State.updSrc (s : State) (h : Nat) (f : HandoffSrc → HandoffSrc) : State := { s with ss.srcs := Tb.upd s.ss.srcs h f }
/-- A destination record changed. -/
def State.updDst (s : State) (h : Nat) (f : HandoffDst → HandoffDst) : State := { s with ss.dsts := Tb.upd s.ss.dsts h f }

/-! ### The source -/

/-- The exchange that agrees a handoff's transport key begins (R188, R315): HELLO phase 1 goes to the peer. -/
def State.startTransport (s : State) (id dst : Nat) : State :=
  let x := s.newExchange
  let via : HelloVia := .transport (BitVec.ofNat 64 id)
  let s := x.2.putExchange via (some x.1)
  s.stage [.send (.device dst) (.hello (helloBody 3 1 id x.1.nonce (Ecc.pubBytes x.1.ephPriv) []))]

/-- HANDOFF_OFFER at its commit (R189): the session is OFFERED, its hold suspended. DEDUCED (log 107). -/
def State.startOffer (s : State) (id : Nat) (h : HandoffSrc) : State :=
  let s := s.suspendStall h.session
  let was := ((Tb.get s.ss.sessions h.session).map fun x => (x.handoffId, x.peer)).getD (0, 0)
  let s := s.updSess h.session fun x => { x with prior := x.state, state := .offered, handoffId := id, peer := h.dst }
  let s := { s with ss.srcs := Tb.set s.ss.srcs id { h with was := was }, ss.nextHandoff := Nat.max s.ss.nextHandoff (id + 1) }
  s.startTransport id h.dst

/-- RELINQUISH's change (R189): the session is GONE, its KV, page map and spool are released. -/
def State.giveAway (s : State) (idx id : Nat) : State :=
  let s := (s.releaseSession idx).updSess idx fun x => { x with state := .gone, handoffId := id, parkedReq := none }
  let s := { s with ss.srcs := Tb.del s.ss.srcs id }
  s.freeTransport id

/-- The source takes the session back (R189): the prior state, the copy forgotten; it keeps answering verdict 0. -/
def State.revertOffer (s : State) (id : Nat) : State :=
  match Tb.get s.ss.srcs id with
  | none => s
  | some h =>
    let s := s.backToPrior h.session
    let s := (s.ss.copies.filter fun e => e.2.for_ = .handoff id).foldl (fun s e => s.dropCopy e.1) s
    let s := s.updSess h.session fun x => { x with handoffId := h.was.1, peer := h.was.2 }
    let s := s.updSrc id fun h => { h with cmd := none, deadlineUs := none, accepted := none, aborted := none, reverted := true }
    s.freeTransport id

/-- The failure of a copy (R184, R189, R195): the session is again as it was before the command. -/
def State.copyFailed (s : State) (c : Nat) : State :=
  match Tb.get s.ss.copies c with
  | none => s
  | some k =>
    let s := match k.for_ with
      | .handoff h =>
        let s := match Tb.get s.ss.srcs h with
          | some e => s.updSess k.session fun x => { x with handoffId := e.was.1, peer := e.was.2 }
          | none => s
        { s with ss.srcs := Tb.del s.ss.srcs h }.freeTransport h
      | _ => s
    (s.backToPrior k.session).dropCopy c

/-- The verdict that this device gives an asker (R189, R192). -/
def State.verdictFor (s : State) (id asker : Nat) : Nat :=
  match s.ss.sessions.find? fun e => e.2.handoffId = id && e.2.state == .gone with
  | some e => if e.2.peer = asker then 1 else 2
  | none => if Tb.has s.ss.srcs id then 0
    else match Tb.get s.ss.dsts id with
      | some d => if d.owned then 1 else 3
      | none => 3

/-- An OWNER_REPLY's verdict as it stands at the commit that sends it (R189). -/
def State.verdictNow (s : State) (dst : MsgDst) (b : MsgBody) : MsgBody :=
  match dst, b with
  | .device a, .handoff m => if fieldAt m 0 1 = 6 then .handoff (overwrite m 1 (toLE 1 (s.verdictFor (fieldAt m 8 8) a))) else b
  | _, _ => b

/-- The items that a commit point makes of the source's handoffs (R189): an ACCEPT of the tick counts before a deadline. -/
def State.srcItems (s : State) : List Item :=
  s.ss.srcs.filterMap fun (id, h) =>
    if h.reverted then none else
    let fin (st : Status) (res : Bytes) : List Effect := (h.cmd.map fun c => .complete c st res).toList
    match h.accepted, h.aborted with
    | some dstHandle, _ => some ⟨none, 16, some h.session,
        [.relinquish h.session id, .spool h.session 0x10 0 (payRelinquish id h.dst dstHandle)] ++ fin .ok (toLE 8 id) ++
        [.send (.device h.dst) (.handoff (handoffMsg 3 0 id (s.handleAt h.session) dstHandle 0 0 0))]⟩
    | none, some st => some ⟨none, 16, some h.session,
        [.revert id] ++ fin ((completionOf (zeros 6 ++ toLE 1 st)).status) [] ++
        [.send (.device h.dst) (.handoff (handoffMsg 4 st id (s.handleAt h.session) 0 0 0 0))]⟩
    | none, none => none

/-! ### The destination -/

/-- A destination record as the first tile or message of a handoff makes it. -/
def HandoffDst.fresh (src : Nat) : HandoffDst :=
  ⟨src, [], [], none, none, none, none, 0, none, none, none, false⟩

/-- HANDOFF_COMMIT ACCEPT at its commit (R190): the index in state ACCEPTING holds the session's state. A thin hank's KV
is recomputed before the session's next unit. DESIGN CHOICE (log 44). -/
def State.acceptHandoff (s : State) (id tenant : Nat) (r : Revival) : State :=
  let a := s.modelOf (digestOf (sliceAt r.header 96 48))
  let dim := (a.map (·.2.arch.headDim)).getD 128
  match r.read dim ((a.map (·.2.arch.kvHeads)).getD 1), Tb.get s.ss.dsts id with
  | some v, some d =>
    let gen := (Tb.get s.ss.gens r.session).getD 0
    let x := { r.standing v gen tenant with state := .accepting, handoffId := id, peer := d.src }
    let s := { s with ss.sessions := Tb.set s.ss.sessions r.session x }
    let s := match v.kv with
      | some kv => if r.recompute then s.updSess r.session fun x => { x with guesses := [], residuals := [], rebuild := true }
          else s.storeKv r.session dim kv (fieldAt r.header 204 4)
      | none => s.updSess r.session fun x => { x with guesses := [], residuals := [], rebuild := true }
    let s := (s.attachRequest r.session true (v.request.getD (zeros 64)) none).suspendStall r.session
    let h := fieldAt d.offer 96 4
    let t := s.timeUs + 1000 * h
    s.updDst id fun d => { d with session := some r.session, cmd := r.cmd, tiles := [], deadlineUs := some t
                                  nextQueryUs := some t, settleUs := t + 2000 * h }
  | _, _ => s

/-- Activation (R190 to R192): the session is owned; a suspended hold runs on. -/
def State.ownSession (s : State) (id : Nat) : State :=
  match (Tb.get s.ss.dsts id).bind (·.session) with
  | none => s
  | some idx =>
    let s := s.sessionBack idx
    let s := match Tb.get s.ss.sessions idx with
      | some x => s.updReq x.reqId fun q => match q.stallLeftUs with
          | some u => { q with stallUntilUs := some (s.timeUs + u), stallLeftUs := none }
          | none => q
      | none => s
    (s.updDst id fun d => { d with cmd := none, deadlineUs := none, nextQueryUs := none, by_ := none, owned := true }).freeTransport id

/-- The destination's index freed (R190, R191). -/
def State.freeAccepting (s : State) (id : Nat) : State :=
  let s := match (Tb.get s.ss.dsts id).bind (·.session) with
    | none => s
    | some idx =>
      let x : Option Session := Tb.get s.ss.sessions idx
      let s := s.releaseKv idx
      { s with ss.sessions := Tb.del s.ss.sessions idx, ss.reqs := Tb.del s.ss.reqs ((x.map Session.reqId).getD 0) }
  { s with ss.dsts := Tb.del s.ss.dsts id }.freeTransport id

/-- The items that a commit point makes of the destination's handoffs (R190, R191). -/
def State.dstItems (s : State) : List Item :=
  s.ss.dsts.filterMap fun (id, d) =>
    match d.session with
    | none => none
    | some idx =>
      let fin (st : Status) (res : Bytes) : List Effect := (d.cmd.map fun c => .complete c st res).toList
      match d.by_, d.aborted with
      | some b, _ => some ⟨none, 16, some idx,
          [.ownNow id, .spool idx 0x11 0 (payAcquire id d.src (fieldAt d.offer 16 8) b)] ++ fin .ok (toLE 8 (s.handleAt idx))⟩
      | none, some st => some ⟨none, 16, some idx, [.freeDst id] ++ fin ((completionOf (zeros 6 ++ toLE 1 st)).status) []⟩
      | none, none => none

/-- A QUERY_OWNER message for a handoff (R191). -/
def State.ownerAsk (s : State) (id : Nat) : Effect :=
  match Tb.get s.ss.dsts id, Tb.get s.ss.srcs id with
  | some d, _ => .send (.device d.src) (.handoff (handoffMsg 5 0 id (fieldAt d.offer 16 8)
      ((d.session.map s.handleAt).getD 0) 0 0 0))
  | none, some h => .send (.device h.dst) (.handoff (handoffMsg 5 0 id (s.handleAt h.session) 0 0 0 0))
  | none, none => .send (.device 0) (.handoff (handoffMsg 5 0 id 0 0 0 0 0))

end Sys2Proof.Machine
end

