-- ==== Sys2Proof/Machine/Loads.lean ====
section
/-! DEFINITION. The hot set: shards and their pages, the choice of a slot, loading, activation, eviction, adapters, and the
exchange by which a group applies a change at one commit point (R89 to R103, R92, R202). -/
namespace Sys2Proof.Machine

/-! ### Shards (R94, R103, R202) -/

/-- The body bytes of a matrix that a device holds (R103): from, to. -/
def shardRange (n rank : Nat) (m : Fwd.Mat) : Nat × Nat :=
  let t := ceilDiv m.outs 128
  let b := m.kTiles * Fwd.tileBytes m.fmt
  (m.off + rank * t / n * b, m.off + (rank + 1) * t / n * b)

/-- Every matrix of a model's body (R85). -/
def bodyMats (a : Arch) (l : Fwd.Layout) : List Fwd.Mat :=
  [l.embed] ++ l.layer.flatMap (fun e => e.2.1 ++ e.2.2.2) ++ (if a.tied then [] else [l.outProj]) ++ l.drafts.map (·.2)

/-- 2 MiB pages. -/
def pages2M (b : Nat) : Nat := ceilDiv b 2097152

/-- The pages of the objects that every device holds whole (R94): layer table, frequency table and gains. -/
def packedPages (a : Arch) : Nat :=
  pages2M (roundUp (16 * a.layers) 4096 + roundUp (8 * (a.rotDims / 2)) 4096 +
    (2 * a.layers + 1 + a.draftHeads) * roundUp (2 * a.width) 256)

/-- Pages of a device's model shard (R94). -/
def shardPages (n rank : Nat) (a : Arch) (ls : List LayerEntry) : Nat :=
  packedPages a + ((bodyMats a (Fwd.layout a ls)).map fun m => let r := shardRange n rank m; pages2M (r.2 - r.1)).sum

/-- The chunks that hold a device's shard (R91): those of its matrix ranges and of the objects held whole. -/
def shardChunks (n rank : Nat) (a : Arch) (ls : List LayerEntry) (bodyLen : Nat) : List Nat :=
  let l := Fwd.layout a ls
  let g := roundUp (2 * a.width) 256
  let whole := [(0, l.embed.off)] ++ l.layer.flatMap (fun e => [(e.1, e.1 + g), (e.2.2.1, e.2.2.1 + g)]) ++
    [(l.finalGain, l.finalGain + g)] ++ l.drafts.map (fun d => (d.1, d.1 + g))
  let rs := whole ++ (bodyMats a l).map (shardRange n rank)
  (List.range (ceilDiv bodyLen chunkBytes)).filter fun c =>
    rs.any fun r => r.1 < r.2 && c * chunkBytes < r.2 && r.1 < (c + 1) * chunkBytes

/-- Pages of an adapter's held tiles (R102, R202): A whole and its share of B, in one allocation. -/
def adapterPages (n rank : Nat) (h : AdapterHdr) : Nat :=
  let one := (List.range 7).map fun t => if h.targets.testBit t then
    let p := Fwd.targetMats h 0 t
    let r := shardRange n rank p.2
    p.1.bytes + (r.2 - r.1) else 0
  pages2M (h.layers * one.sum)

/-- Pages of the model region (R201): 245,760 MiB of 2 MiB. -/
def regionPages : Nat := 122880

/-- Pages in use in the model region: shards, adapter versions and the versions that an exchange is still to apply. -/
def State.regionUsed (s : State) : Nat :=
  (s.img.models.map (·.2.pages)).sum + (s.img.adapters.map (·.pages)).sum +
    (s.img.exchanges.map fun e => match e.2.what with | .adapter _ a => a.pages | _ => 0).sum

/-! ### Bodies -/

/-- A plaintext chunk of a model: held by this member or by another (R15, R103); one that no read of this member has shown is the
bytes of the image that it names. DESIGN CHOICE (log 20). -/
def Model.chunk (m : Model) (i : Nat) : Bytes :=
  match Tb.get m.chunks i with
  | some b => b
  | none => (Tb.get m.others i).getD (unheldChunk m.digest m.hdr i)

/-- The plaintext of a chunk read from a model's image address, checked as R91 says: its status where it fails.
DEDUCED (log 29). -/
def State.readChunk (s : State) (m : Model) (c : Nat) : Except Status Bytes :=
  match s.readHost .port0 (m.addr + chunkOffset m.hdr c) (chunkLen m.hdr c + if m.hdr.sealed_ then 16 else 0) with
  | none => .error .eTimeout
  | some raw => match openChunk ((s.modelKey m.hdr.keyRef m.digest).getD 0) m.head c raw with
    | none => .error .eAuth
    | some b => if Sha.sha384 b = chunkDigest m.head c then .ok b else .error .eDigest

/-- What the image shows of the chunks that a member does not hold: those that pass R91's checks. DESIGN CHOICE (log 20). -/
def State.readOthers (s : State) (m : Model) : Tbl Bytes :=
  ((List.range m.hdr.nChunks).filter fun c => !Tb.has m.chunks c).filterMap fun c => match s.readChunk m c with
    | .ok b => some (c, b)
    | .error _ => none

/-- The key under which a sealed image's tiles travel in MOVE messages (R310, R313). -/
def moveKey (key : Key) : Bytes := Sha.hkdf (keyBytes key) (label "E9 MMOVE") 32

/-- A tile of a sealed model or adapter as a MOVE message carries it: encrypted under the model move key, its tag behind it. -/
def sealMoved (key : Key) (i : Nat) (b : Bytes) : Bytes :=
  let c := Aes.gcmEncrypt (moveKey key) (zeros 4 ++ toLE 8 i) [] b
  c.1 ++ c.2

/-- Such a tile opened. -/
def openMoved (key : Key) (i : Nat) (data : Bytes) : Option Bytes :=
  Aes.gcmDecrypt (moveKey key) (zeros 4 ++ toLE 8 i) [] (data.take (data.length - 16)) (data.drop (data.length - 16))

/-- A chunk of a model as a MOVE message carries it (R298, R313). -/
def State.movedChunk (s : State) (m : Model) (c : Nat) : Bytes :=
  if m.hdr.sealed_ then sealMoved ((s.modelKey m.hdr.keyRef m.digest).getD 0) c (m.chunk c) else m.chunk c

/-- An adapter's body as a MOVE message carries it (R102, R313). -/
def State.movedBody (s : State) (a : AdapterVer) : Bytes :=
  match a.keyRef with
  | some r => ((chunksOf chunkBytes a.body).zipIdx.map fun (b, i) => sealMoved ((s.modelKey r a.digest).getD 0) i b).flatten
  | none => a.body

/-- An adapter's body as it arrives. -/
def State.openBody (s : State) (keyRef : Option (BitVec 128)) (d : Digest) (b : Bytes) : Bytes :=
  match keyRef with
  | some r => ((chunksOf (chunkBytes + 16) b).zipIdx.map fun (b, i) => (openMoved ((s.modelKey r d).getD 0) i b).getD []).flatten
  | none => b

/-- A reader of a model's body. -/
def Model.bodyReader (m : Model) (off n : Nat) : Bytes :=
  if n = 0 then [] else
  let a := off / chunkBytes
  let b := (off + n - 1) / chunkBytes
  sliceAt ((List.range (b - a + 1)).flatMap fun i => m.chunk (a + i)) (off - a * chunkBytes) n

/-- A loaded model ready to evaluate. -/
def State.fwdModel (_s : State) (m : Model) : Fwd.Model := ⟨m.arch, m.layers, m.bodyReader⟩

/-- The body ranges of an adapter that a device holds (R102, R103): A whole and its rows of B, of every layer. -/
def adapterRanges (n rank : Nat) (h : AdapterHdr) : List (Nat × Nat) :=
  (List.range h.layers).flatMap fun l => (List.range 7).flatMap fun t =>
    if h.targets.testBit t then
      let p := Fwd.targetMats h (l * Fwd.targetOff h 7 + Fwd.targetOff h t) t
      [(p.1.off, p.1.off + p.1.bytes), shardRange n rank p.2]
    else []

/-- A chunk of an adapter's body holds bytes of the device's part. -/
def adapterChunk (n rank : Nat) (h : AdapterHdr) (c : Nat) : Bool :=
  (adapterRanges n rank h).any fun r => r.1 < r.2 && c * chunkBytes < r.2 && r.1 < (c + 1) * chunkBytes

/-- A loaded adapter ready to evaluate. -/
def AdapterVer.fwd (a : AdapterVer) : Fwd.Adapter := ⟨a.hdr, sliceAt a.body⟩

/-! ### Models (R89 to R96) -/

/-- Requests bound to a model (R96). -/
def State.boundReqs (s : State) (d : Digest) : Nat :=
  s.ss.reqs.countP fun e => ((Tb.get s.ss.sessions e.2.session).map (·.model)) = some d

/-- A unit that needs the model in a slot is queued or running (R95). -/
def State.slotNeeded (s : State) (k : Nat) : Bool :=
  s.work.queue.any (fun u => s.modelSlotOf u.kind = some k) || s.work.running.any (fun e => s.modelSlotOf e.2.kind = some k) ||
  s.work.done.any fun i => match i.unit with | some u => s.modelSlotOf u.kind = some k | none => false

/-- The slot that AUTO takes (R95): the lowest FREE one, else the qualifying ACTIVE one whose last binding is oldest. -/
def State.autoSlot (s : State) : Option Nat :=
  match (List.range 8).find? fun k => !Tb.has s.img.models k with
  | some k => some k
  | none =>
    let ok := s.img.models.filter fun e => e.2.state == .active && !e.2.pin && s.boundReqs e.2.digest = 0 && !s.slotNeeded e.1
    (ok.mergeSort fun a b => a.2.lastBind < b.2.lastBind || (a.2.lastBind = b.2.lastBind && a.1 ≤ b.1)).head?.map (·.1)

/-- A slot made FREE: its chunks go, and a MODEL key slot that no model slot uses any more (R318). -/
def State.freeModel (s : State) (k : Nat) : State :=
  match Tb.get s.img.models k with
  | none => s
  | some m =>
    let s := { s with img.models := Tb.del s.img.models k }
    let used := s.img.models.any fun e => e.2.hdr.sealed_ && e.2.hdr.keyRef = m.hdr.keyRef && e.2.digest = m.digest
    if !m.hdr.sealed_ || used then s else
    let l : Tbl KeySlot := s.sec.slots.filter fun e =>
      !(e.2.kind == .model && e.2.keyRef = m.hdr.keyRef && e.2.modelDigest = m.digest)
    { s with sec.slots := l }

/-- LOAD_MODEL at its commit (R91, R95): a model chosen for eviction goes, the slot is LOADING. DEDUCED (log 101). -/
def State.startLoad (s : State) (k : Nat) (m : Model) : State :=
  let s := s.freeModel k
  { s with img.models := Tb.set s.img.models k m }

/-- The slot becomes ACTIVE (R91). A model never bound counts as bound at its activation tick (R95). -/
def State.activateModel (s : State) (k : Nat) : State :=
  { s with img.models := Tb.upd s.img.models k fun m =>
    { m with state := .active, cmd := none, lastBind := if m.state == .retiring then m.lastBind else s.tk.tick } }

/-- EVICT_MODEL at its commit (R96). -/
def State.retireModel (s : State) (k drainMs : Nat) (cmd : Option Nat) : State :=
  { s with img.models := Tb.upd s.img.models k fun m =>
      { m with state := .retiring, drainUs := s.timeUs + 1000 * drainMs, cmd := cmd, drainDue := false } }

/-- The drain deadline (R96): at it, a model with bound requests is ACTIVE again and EVICT_MODEL completes with E_BUSY. -/
def State.drainItems (s : State) : List Item :=
  s.img.models.filterMap fun e =>
    if e.2.state == .retiring && e.2.drainDue && s.boundReqs e.2.digest ≠ 0 then
      some ⟨none, 16, none, [.modelActive e.1] ++ (e.2.cmd.map fun c => .complete c .eBusy []).toList⟩
    else none

/-- HOUSE units that free shards and adapter versions (R96, R101), made when the last bound request has ended. -/
def State.freeingUnits (s : State) (stamp : Nat) : State :=
  let s := s.img.models.foldl (fun s e =>
    if e.2.state == .retiring && s.boundReqs e.2.digest = 0 && !s.hasUnit (· == .modelFree e.1)
    then s.addUnit (.modelFree e.1) none none e.2.pages stamp true else s) s
  s.img.adapters.foldl (fun s a =>
    if a.retiring && !(s.ss.reqs.any fun e => e.2.adapter = some (a.id, a.ver)) && !s.hasUnit (· == .adapterFree a.id a.ver)
    then s.addUnit (.adapterFree a.id a.ver) none none a.pages stamp false else s) s

/-! ### Adapters (R99 to R101) -/

/-- A new version becomes current; the version that was current retires (R99). -/
def State.addAdapter (s : State) (a : AdapterVer) : State :=
  let old := Tb.get s.img.adapterCurrent a.id
  let l := s.img.adapters.map fun b => if b.id = a.id && some b.ver = old then { b with retiring := true } else b
  { s with img.adapters := l ++ [a], img.adapterLast := Tb.set s.img.adapterLast a.id a.ver
           img.adapterCurrent := Tb.set s.img.adapterCurrent a.id a.ver }

/-- A version retires (R101). -/
def State.retireAdapterVer (s : State) (id ver : Nat) : State :=
  let cur := if Tb.get s.img.adapterCurrent id = some ver then Tb.del s.img.adapterCurrent id else s.img.adapterCurrent
  let l : List AdapterVer := s.img.adapters.map fun b => if b.id = id && b.ver = ver then { b with retiring := true } else b
  { s with img.adapters := l, img.adapterCurrent := cur }

/-- A version freed (R101). -/
def State.freeAdapterVer (s : State) (id ver : Nat) : State :=
  { s with img.adapters := s.img.adapters.filter fun b => !(b.id = id && b.ver = ver) }

/-! ### The exchange of a group (R92, R102, R292) -/

/-- The name that exchange messages give a change: the image's digest, or the digest of the forwarded command. -/
def forwardDigest (c : Cmd) (body : Bytes) : Digest := Sha.sha384 (toLE 64 c.toNat ++ body)

/-- The exchange of a digest. -/
def State.exchangeBy (s : State) (d : Digest) : Option (Nat × Exchange) := s.img.exchanges.find? fun e => e.2.digest = d

/-- One exchange changed. -/
def State.updExchange (s : State) (k : Nat) (f : Exchange → Exchange) : State :=
  { s with img.exchanges := Tb.upd s.img.exchanges k f }

/-- An exchange put under way (R92). Where reports of other members came first, it goes on from them, and its wait counts from
their first. -/
def State.putNewExchange (s : State) (x : Exchange) : State :=
  match s.exchangeBy x.digest with
  | some (k, e) =>
    if e.what = .others then
      { s with img.exchanges := Tb.set s.img.exchanges k { x with
          startUs := e.startUs, waitUs := e.startUs + (x.waitUs - x.startUs), loadedRanks := e.loadedRanks } }
    else { s with img.nextExchange := s.img.nextExchange + 1, img.exchanges := Tb.set s.img.exchanges s.img.nextExchange x }
  | none => { s with img.nextExchange := s.img.nextExchange + 1, img.exchanges := Tb.set s.img.exchanges s.img.nextExchange x }

/-- The last version of the adapter ID that an exchange loads, for its LOADED report (R102). -/
def State.lastVersionFor (s : State) : GroupWhat → Nat
  | .adapter id _ => (Tb.get s.img.adapterLast id).getD 0
  | _ => 0

/-- This member has loaded its part: it reports LOADED to the lowest rank, or counts its own report there (R92). -/
def State.reportLoaded (s : State) (k : Nat) : State :=
  match Tb.get s.img.exchanges k with
  | none => s
  | some x =>
    let v := s.lastVersionFor x.what
    let s := s.updExchange k fun x => { x with
      loadedHere := true
      loadedRanks := if s.glb.rank = 0 then x.loadedRanks ++ [(0, v)] else x.loadedRanks }
    if s.glb.rank = 0 then s else s.stage [.send (.rank 0) (.loaded x.digest v)]

/-- This member has nothing to load for the exchange of a digest: it reports LOADED. -/
def State.reportLoadedOf (s : State) (d : Digest) : State :=
  match s.exchangeBy d with
  | some (k, _) => s.reportLoaded k
  | none => s

/-- Rank 0 holds LOADED from every member and has not named a commit point yet (R92). -/
def State.exchangeReady (s : State) (x : Exchange) : Bool :=
  s.glb.rank = 0 && x.applyTick.isNone && (List.range s.grp.n).all fun r => x.loadedRanks.any fun l => l.1 = r

/-- The version number that ACTIVATE carries: one above the highest reported (R102). -/
def Exchange.nextVersion (x : Exchange) : Nat := x.loadedRanks.foldl (fun a l => Nat.max a l.2) 0 + 1

/-- What an exchange applies (R92, R102), as effects with its command's completion; a forwarded command's own effects
are given. -/
def Exchange.effects (x : Exchange) (own : List Effect) : List Effect :=
  let fin (res : Bytes) : List Effect := (x.cmd.map fun c => .complete c .ok res).toList
  match x.what with
  | .model k => [.modelActive k] ++ fin (toLE 1 k)
  | .adapter _ a => [.adapterAdd { a with ver := x.version }] ++ fin (toLE 2 x.version)
  | .grammar id g => [.grammarSet id (some g)] ++ fin []
  | .vocab k v => [.vocabSet k (some v)] ++ fin []
  | .forward _ _ _ => own
  | .checkpoint => own
  | .others => []

/-- The undoing of an exchange that is aborted (R92): a loading shard is freed; the command completes with a status.
DEDUCED (log 66). -/
def Exchange.undo (x : Exchange) (st : Status) : List Effect :=
  (match x.what with | .model k => [.modelFree k] | .checkpoint => [.chkptFail st] | _ => []) ++ (x.cmd.map fun c => .complete c st []).toList

end Sys2Proof.Machine
end

