-- ==== Sys2Proof/Machine/Search.lean ====
section
/-! DEFINITION. Queries, scan groups and compaction of retrieval stores on this device (R225 to R237). -/
namespace Sys2Proof.Machine

/-- One store, query or group changed. -/
def State.updStore (s : State) (k : Nat) (f : Store → Store) : State := { s with st.stores := Tb.upd s.st.stores k f }
def State.updQuery (s : State) (k : Nat) (f : Query → Query) : State := { s with st.queries := Tb.upd s.st.queries k f }
def State.updGroup (s : State) (k : Nat) (f : ScanGroup → ScanGroup) : State := { s with st.groups := Tb.upd s.st.groups k f }

/-- Changes appended to the side list (R224, R225): one sequence value for each. -/
def State.appendSide (s : State) (k : Nat) (es : List (Nat × Bool × Bytes)) : State :=
  s.updStore k fun st =>
    { st with seq := st.seq + es.length
              side := st.side ++ es.zipIdx.map fun (e, i) => (⟨e.1, st.seq + 1 + i, e.2.1, e.2.2⟩ : SideEntry) }

/-- A query accepted (R227, R231, R232): its SNAP and its version are those of this point of the commit; it waits for a group; a SEARCH unit for a new group is queued when the waiting
queries of its store and version exceed what the groups not yet formed can take. DESIGN CHOICE (log 28). -/
def State.startQuery (s : State) (k : Nat) (q : Query) (stamp : Nat) : State :=
  match Tb.get s.st.stores q.store with
  | none => s
  | some st =>
    if q.origin.isSome && !st.shards.getLsbD s.glb.rank then s else
    let q := { q with stamp := stamp, snap := st.seq, ver := (st.mains.head?.map (·.ver)).getD 0 }
    let s := { s with st.queries := Tb.set s.st.queries k q, st.nextQuery := if k < 2 ^ 32 then Nat.max s.st.nextQuery (k + 1) else s.st.nextQuery }
    if !st.shards.getLsbD s.glb.rank then s else
    let open_ := s.st.groups.countP fun g => g.2.store = q.store && g.2.ver = q.ver && g.2.queries.isEmpty
    let waiting := s.st.queries.countP fun e => e.2.store = q.store && e.2.ver = q.ver && e.2.group.isNone
    if waiting ≤ 64 * open_ then s else
    let g := s.st.nextGroup
    let s := { s with st.nextGroup := g + 1
                      st.groups := Tb.set s.st.groups g ⟨q.store, q.ver, [], stamp, 0, 0, [], 0, none⟩ }
    s.addUnit (.searchPass g 0) (some st.tenant) none 1 stamp false

/-- A group's tops after a pass (R233): its staged or committed tops merged with the pass's candidates; the highest SNAP
of the group bounds the side entries read. DESIGN CHOICE (log 28). -/
def State.passTops (s : State) (g p : Nat) : Tbl (List Hit) × Nat :=
  match Tb.get s.st.groups g with
  | none => ([], 0)
  | some gr => match Tb.get s.st.stores gr.store with
    | none => ([], 0)
    | some st => match st.mains.find? fun m => m.ver = gr.ver with
      | none => ([], 0)
      | some ml =>
        let qs := gr.queries.filterMap fun k => (Tb.get s.st.queries k).map fun q => (k, q)
        let hi := qs.foldl (fun a q => Nat.max a q.2.snap) 0
        (qs.map fun (k, q) => (k, mergeHits q.k ((Tb.get gr.staged k).getD q.top) (st.passHits ml s.glb.rank hi p q)),
          st.passCount ml s.glb.rank hi)

/-- A pass has finished (R233): its tops are staged, and the group's next pass joins the queue at once. -/
def State.stagePass (s : State) (g p : Nat) (tops : Tbl (List Hit)) (count : Nat) : State :=
  match Tb.get s.st.groups g with
  | none => s
  | some gr =>
    let s := s.updGroup g fun gr => { gr with staged := tops, stagedPass := p + 1, passes := count }
    if p + 1 < count then
      let t := (Tb.get s.st.stores gr.store).map (·.tenant)
      s.addUnit (.searchPass g (p + 1)) t none 1 gr.stamp false
    else s

/-- Passes committed (R233, R235): the scan records; with the last pass this shard's list is held, or sent to the device
that accepted the query. -/
def State.commitPass (s : State) (g p : Nat) (tops : Tbl (List Hit)) : State :=
  match Tb.get s.st.groups g with
  | none => s
  | some gr =>
    let last := decide (gr.passes ≤ p + 1)
    let s := tops.foldl (fun s e => s.updQuery e.1 fun q => { q with
      top := e.2, lists := if last then Tb.set q.lists s.glb.rank e.2 else q.lists }) s
    if last then { s with st.groups := Tb.del s.st.groups g }
    else s.updGroup g fun gr => { gr with nextPass := p + 1, staged := if gr.stagedPass = p + 1 then [] else gr.staged }

/-- Queries of this device whose lists are all held, written and completed at this commit point (R235). -/
def State.queryItems (s : State) : List Item :=
  s.st.queries.filterMap fun (k, q) =>
    match Tb.get s.st.stores q.store with
    | none => none
    | some st =>
      let ranks := if s.grp.n ≤ 1 then [s.glb.rank] else maskRanks st.shards
      if q.origin.isSome || !(ranks.all fun r => Tb.has q.lists r) then none else
      let hits := (ranks.flatMap fun r => (Tb.get q.lists r).getD []).mergeSort Hit.before |>.take q.k
      some ⟨none, 16, none, [.queryEnd k, .hostWrite .port0 q.resAddr (hits.flatMap Hit.encode)] ++
        (q.cmd.map fun c => .complete c .ok (toLE 4 hits.length ++ zeros 4 ++ toLE 8 q.snap)).toList⟩

/-- The lists that a shard device sends for queries accepted elsewhere (R235). -/
def State.topkSends (s : State) : List Item :=
  s.st.queries.filterMap fun (k, q) => match q.origin with
    | some o => match Tb.get q.lists s.glb.rank with
      | some l => some ⟨none, 16, none, [.queryEnd k, .send (.rank o) (.topk (k % 2 ^ 32) l)]⟩
      | none => none
    | none => none

/-- A query ended: its scan record is freed, and it leaves its group (R231); a group without queries goes, and so does a group not
yet formed that the waiting queries no longer need (R232). -/
def State.endQuery (s : State) (k : Nat) : State :=
  let s := { s with st.queries := Tb.del s.st.queries k }
  let f (e : Nat × ScanGroup) : Nat × ScanGroup := (e.1, { e.2 with
    queries := e.2.queries.filter (· != k), staged := Tb.del e.2.staged k })
  let spare (e : Nat × ScanGroup) : Bool := e.2.queries.isEmpty &&
    (let same := s.st.groups.filter fun d => d.2.store = e.2.store && d.2.ver = e.2.ver && d.2.queries.isEmpty && d.1 < e.1
     let waiting := s.st.queries.countP fun q => q.2.store = e.2.store && q.2.ver = e.2.ver && q.2.group.isNone
     waiting ≤ 64 * same.length)
  let gone := s.st.groups.filter fun e => e.2.queries == [k] || spare e
  let gs : Tbl ScanGroup := (s.st.groups.filter fun e => !(e.2.queries == [k] || spare e)).map f
  let q : List UnitRec := s.work.queue.filter fun u => match u.kind with
    | .searchPass g _ => !(gone.any fun e => e.1 = g) | _ => true
  { s with st.groups := gs, work.queue := q }

/-- A new main list becomes current (R228). -/
def State.finishCompact (s : State) (k : Nat) : State :=
  s.updStore k fun st => match st.compact with
    | none => st
    | some (c, _, _) =>
      let v := (st.mains.foldl (fun a m => Nat.max a m.ver) 0) + 1
      { st with mains := ⟨v, c, st.liveItems c⟩ :: st.mains, compact := none }

/-- Older versions that no query is bound to, and the side entries that the newest version contains, are freed (R228). -/
def State.settleStores (s : State) : State :=
  let f (e : Nat × Store) : Nat × Store :=
    match e.2.mains with
    | [] => e
    | m :: rest =>
      let bound (v : Nat) := s.st.queries.any fun q => q.2.store = e.1 && q.2.ver = v
      let kept := rest.filter fun o => bound o.ver
      let low := kept.foldl (fun a o => Nat.min a o.cseq) m.cseq
      (e.1, { e.2 with mains := m :: kept, side := e.2.side.filter fun x => low < x.seq })
  let l : Tbl Store := s.st.stores.map f
  { s with st.stores := l }

/-- A store loses a shard (R237): DEGRADED, its running queries end. -/
def State.degradeStore (s : State) (k : Nat) : State :=
  s.updStore k fun st => { st with degraded := true }

end Sys2Proof.Machine
end

