-- ==== Sys2Proof/Machine/Group.lean ====
section
/-! DEFINITION. The group: membership, mirrors, width changes and their moves, joining (R289 to R300, R341, R342). Every
member holds a copy of every session's history, KV and request, which the same units bring forward on all of them; the
spool that counts is the sampling device's (log entry 20). -/
namespace Sys2Proof.Machine

/-! ### Membership -/

/-- The GROUP event (R251): the member rank mask and the tick. -/
def State.groupEvent (s : State) : Effect :=
  .event 0xE003 (toLE 8 (if s.glb.inGroup then 2 ^ s.grp.n - 1 else 0) ++ toLE 8 s.tk.tick)

/-- Work that is not committed is given up: queues, running and finished units (R29, R295); a running unit is abandoned (R40). -/
def State.dropWork (s : State) : State :=
  let s := { s with tk := s.work.running.foldl (fun t _ => t.abandonOne) s.tk }
  let st : Tbl Store := s.st.stores.map fun e => (e.1, { e.2 with compact := none })
  { s with work := { s.work with queue := [], running := [], done := [], inDoubt := [], deferred := [], lateReqs := [], votes := [], acks := [] }
           st.stores := st, inbox := [], tk.noUnits := true }

/-- A message from a member as from another rank. -/
def rerankMsg (r : Nat) : Instr → Instr
  | .loaded _ d v => .loaded (Fin.ofNat 64 r) d v
  | .failed _ d st => .failed (Fin.ofNat 64 r) d st
  | .forward _ c b => .forward (Fin.ofNat 64 r) c b
  | .move _ m => .move (Fin.ofNat 64 r) m
  | .topk _ t q h => .topk (Fin.ofNat 64 r) t q h
  | .traceMsg _ b => .traceMsg (Fin.ofNat 64 r) b
  | i => i

/-- The new rank of a rank among survivors (R296). -/
def newRank (surv : Word64) (n r : Nat) : Option Nat := ((List.range n).filter surv.getLsbD).idxOf? r

/-- A store's SHARDS mask under the new ranks, and whether it loses a shard (R237, R296). -/
def reshardMask (surv : Word64) (n : Nat) (m : Word64) : Word64 :=
  (maskRanks m).foldl (fun a r => match newRank surv n r with
    | some k => a ||| BitVec.ofNat 64 (2 ^ k)
    | none => a) 0

/-- The retrieval stores at a width change (R237, R296): masks rewritten, DEGRADED where a shard is lost, whose running
queries complete with E_STATE. -/
def State.reshardStores (s : State) (surv : Word64) (n : Nat) : State :=
  s.st.stores.foldl (fun s (k, st) =>
    let lost := (maskRanks st.shards).any fun r => !surv.getLsbD r
    let s := s.updStore k fun st => { st with shards := reshardMask surv n st.shards, degraded := st.degraded || lost }
    if !lost then s else
    (s.st.queries.filter fun q => q.2.store = k).foldl (fun s q =>
      s.stage ([.queryEnd q.1] ++ (q.2.cmd.map fun c => .complete c .eState []).toList)) s) s

/-- What the state names by rank under new ranks (R296): queries and their lists, committed messages that wait, MSG_SEQ, STATUS counts.
What a lost member has sent or is to get goes. DEDUCED (log 135). -/
def State.rerank (s : State) (f : Nat → Option Nat) : State :=
  let key (k : Nat) : Nat := if k < 2 ^ 32 then k else k % 2 ^ 32 + 2 ^ 32 * ((f (k / 2 ^ 32 - 1)).getD 64 + 1)
  let seqs (t : Tbl Nat) : Tbl Nat := (t.filterMap fun e => if 512 ≤ e.1 then some e else (f (e.1 / 8)).map fun r => (8 * r + e.1 % 8, e.2)).mergeSort
    fun a b => a.1 ≤ b.1
  let counts (t : Tbl Nat) : Tbl Nat := (t.filterMap fun e => (f e.1).map fun r => (r, e.2)).mergeSort fun a b => a.1 ≤ b.1
  let qs : Tbl Query := (s.st.queries.filter fun e => match e.2.origin with | some o => (f o).isSome | none => true).map fun e =>
    (key e.1, { e.2 with origin := e.2.origin.bind f, lists := e.2.lists.filterMap fun l => (f l.1).map fun r => (r, l.2) })
  let gs : Tbl ScanGroup := (s.st.groups.map fun e =>
    (e.1, { e.2 with queries := (e.2.queries.filter (Tb.has s.st.queries)).map key, staged := e.2.staged.map fun h => (key h.1, h.2) }))
  { s with
    st := { s.st with queries := qs.mergeSort fun a b => a.1 ≤ b.1, groups := gs }
    inbox := s.inbox.filterMap fun m => if m.1 = 64 then some m else (f m.1).map fun r => (r, m.2.1, rerankMsg r m.2.2)
    grp.msgSeq := seqs s.grp.msgSeq, grp.gotSeq := seqs s.grp.gotSeq, grp.sentCounts := counts s.grp.sentCounts
    grp.statusSeen := s.grp.statusSeen.filterMap fun e => (f e.1).map fun r => (r, e.2) }

/-- The device is no longer in a group: it acts alone (R29, R264, R295), and its stores have lost the other shards (R237). -/
def State.standAlone (s : State) : State :=
  let s := s.reshardStores (BitVec.ofNat 64 (2 ^ s.glb.rank)) s.grp.n
  { s with glb.inGroup := false, glb.rank := 0, tk.onMarker := false, tk.toMarker := false, tk.awaited := false, tk.edgeDue := none
           ports := s.ports.map fun x => if x.peerRank < 64 then { x with peerRank := 0xFD } else x
           grp := { s.grp with groupId := 0, n := 1, members := [], chain := [], reach := [], missed := [], statusSeen := [],
                               sentCounts := [], shrink := none, moves := [], lostRanks := [], reshards := []
                               leaving := false, arrived := [], mirrors := [], mirrorStaged := [] } }

/-- A device without its group holds its state and takes no units (R29, R295); the GROUP event goes out with the next
commit point. What was staged is gone. DESIGN CHOICE (log 134). -/
def State.leaveGroup (s : State) : State :=
  let s := { s.dropWork.standAlone with work.steward := [], grp.held := true }
  s.stage [s.groupEvent]

/-! ### Mirrors (R293, R341) -/

/-- Tokens that await their stop check (R341): committed and not published. -/
def Req.pendingToks (q : Req) : List OutTok := q.out.filter fun t => !t.published

/-- A request mirror record (R341). -/
def State.requestMirror (s : State) (r : Nat) (q : Req) : Bytes :=
  let p := q.pendingToks
  let stalled := decide (q.phase = .stalled)
  let g : Bytes := if q.stateBytes.isEmpty then zeros 48 else Sha.sha384Bytes q.stateBytes
  toLE 4 r ++ toLE 1 q.mbox ++ toLE 1 (if stalled then 1 else 0) ++ toLE 1 ((q.heldReason.map (·.1.code)).getD 0) ++
    toLE 1 q.specWidth ++ toLE 4 q.tag ++ toLE 4 q.ringCount ++ toLE 8 q.ringAddr ++ toLE 8 q.indexAddr ++
    toLE 4 q.producer ++ toLE 4 ((p.head?.map (·.pos)).getD 0) ++ toLE 1 p.length ++ zeros 3 ++
    toLE 4 (if stalled then ceilDiv (q.stallLeft s.timeUs) 1000 else 0) ++ toLE 4 q.tokens ++
    toLE 4 (match q.cancel with | some (_, d) => if d then 3 else 1 | none => 0) ++ zeros 8 ++ g ++ zeros 16

/-- What MIRROR says of a session (R293, R341): new spool entries, the request mirror record and the grammar state.
DESIGN CHOICE (log 30). -/
def State.mirrorEntry (s : State) (idx : Nat) (entries : List Bytes) : MirrorEntry :=
  match (Tb.get s.ss.sessions idx).bind fun x => (Tb.get s.ss.reqs x.reqId).map fun q => (x.reqId, q) with
  | some (r, q) => ⟨idx, entries, s.requestMirror r q, match q.gstate, q.grammar with
      | some g, some gr => g.encode (q.grammarId.getD 0) gr.maxDepth
      | _, _ => []⟩
  | none => ⟨idx, entries, [], []⟩

/-- What effects add to the spools of sessions that `p` takes, session by session, as the state `z` that they lead to holds it;
the stamps of a coming commit are not known yet and stand as zero. DESIGN CHOICE (log 30); DEDUCED (log 73). -/
def State.spoolGrowth (s z : State) (p : Nat → Bool) (effs : List Effect) : List MirrorEntry :=
  let is := (effs.filterMap fun e => match e with | .spool i .. => if p i then some i else none | _ => none).dedup
  is.map fun i =>
    let old := ((Tb.get s.ss.sessions i).map (·.spool.length)).getD 0
    let new := ((Tb.get z.ss.sessions i).map (·.spool.drop old)).getD []
    z.mirrorEntry i (new.map fun e => overwrite e 8 (zeros 8))

/-- What effects add to the spools of sessions that this device samples: what it mirrors to its buddy. -/
def State.mirrorOf (s z : State) (effs : List Effect) : List MirrorEntry := s.spoolGrowth z s.samples effs

/-- This device is the buddy of a session's sampling device (R293). -/
def State.mirrors (s : State) (idx : Nat) : Bool := 1 < s.grp.n && (idx % s.grp.n + 1) % s.grp.n = s.glb.rank

/-- The buddy's copy of one session's spool grows (R293). -/
def State.addMirror (s : State) (m : MirrorEntry) : State :=
  let old := (Tb.get s.grp.mirrors m.session).getD ⟨m.session, [], [], []⟩
  { s with grp.mirrors := Tb.set s.grp.mirrors m.session ⟨m.session, old.entries ++ m.entries, m.requestMirror, m.gstate⟩ }

/-- The mirror entries staged in the tick take effect at its commit point with their units (R293, R341): those of a unit
that did not commit are discarded. -/
def State.settleMirrors (s : State) : State :=
  let gone (k : UnitKey) : Bool := s.work.decisions.any (fun d => d.key = k && !d.commit) || s.work.inDoubt.any fun d =>
    match d.2.unit with | some u => u.nameAt d.1 = k | none => false
  let s := (s.grp.mirrorStaged.filter fun e => !gone e.1).foldl (fun s e => s.addMirror e.2) s
  { s with grp.mirrorStaged := [] }

/-- Spool entries as a mirror holds them, renumbered from the first on (R173). -/
def renumber (es : List Bytes) : List Bytes := es.zipIdx.map fun (e, i) => overwrite e 4 (toLE 4 i)

/-! ### Width changes (R296 to R299) -/

/-- A part of a session's pages lies on one of the ranks (R105, R297). -/
def State.partOn (s : State) (x : Session) (ranks : List Nat) : Bool :=
  (x.pageMap.flatMap id).any fun e => match Tb.get s.kv.pages e.2 with
    | none => false
    | some p =>
      let hs := p.data.heads.length
      (List.range hs).any fun h => ranks.contains (spindleOf s.grp.n hs p.psize p.layer h p.data.idx / 12)

/-- Every prefix-tree node deleted (R128, R296); pinned pages that they listed go to a sweep of R129. -/
def State.dropTrees (s : State) : State :=
  (s.kv.nodes.filter fun n => n.root && n.live).foldl (fun s n =>
    let r := s.purgeNodes n.key.tenant n.id
    let s := r.2
    if r.1.isEmpty then s else
    let p := s.kv.nextPurge
    let s := { s with kv.nextPurge := p + 1, kv.purges := Tb.set s.kv.purges p ⟨n.key.tenant, r.1, s.timeUs + 10000000, none⟩ }
    s.addUnit (.sweep p) (some n.key.tenant) none r.1.length (stampOf s.tk.tick 0xFFFF) false) s

/-- A tenant's charge and the granules fit on every member of the group as it now is (R299). -/
def State.chargeFits (s : State) (t : Nat) : Bool :=
  let cap := ((Tb.get s.ten.tenants t).map (·.stackMib)).getD 0 * 1048576
  (List.range s.grp.n).all fun r =>
    let z := { s with glb.rank := r }
    z.tenantUse t ≤ cap && (List.range (12 * Nat.max z.grp.n 1)).all fun i => z.granulesUsed i ≤ z.arenaOf i

/-- Sessions changed one by one until the charge fits (R299). -/
def State.untilFits (s : State) (t : Nat) (f : State → Nat → State) : List Nat → List Nat × State
  | [] => ([], s)
  | i :: l => if s.chargeFits t then ([], s) else
    let r := (f s i).untilFits t f l
    (i :: r.1, r.2)

/-- The sessions of a tenant that R299 condenses, and those whose KV it releases. DEDUCED (log 104). -/
def State.projection (s : State) (t : Nat) : List Nat × List Nat :=
  let mine := (s.ss.sessions.filter fun e => e.2.tenant = t && 0 < e.2.kvlen).mergeSort fun a b =>
    a.2.lastCommit < b.2.lastCommit || (a.2.lastCommit = b.2.lastCommit && a.1 ≤ b.1)
  let c := s.untilFits t (fun s i => s.condenseSess i) ((mine.filter fun e => !e.2.condensed).map (·.1))
  let r := c.2.untilFits t (fun s i => s.releaseKv i) (mine.map (·.1))
  (c.1, r.1)

/-- Units of a session's request leave the queue: its work is made again after a rebuild (R297). -/
def State.dropSessionUnits (s : State) (idx : Nat) : State :=
  { s with work.queue := s.work.queue.filter fun u => match u.kind with
      | .decode _ => u.session != some idx
      | .prefill i => i != idx | .lookup i => i != idx | _ => true }

/-- What becomes of one session at the width change (R294, R297): its move, or, where both its spool and the mirror are
lost, PARKED with its last hank, or FREE. Where an earlier move of it has not committed, the device that holds the whole spool is the one
that this move names, and the buddy's copy is not whole. -/
def State.planMove (s : State) (n : Nat) (lost : List Nat) (ids : List (Nat × Nat)) (new : Nat → Option Nat)
    (parts : List Nat) (plan : List Nat × List Nat) (idx : Nat) (x : Session) : State :=
  let old := idx % n
  let buddy := (old + 1) % n
  let m : SessMove := match Tb.get s.grp.moves idx with
    | some m => { m with lostPart := m.lostPart || parts.contains idx, condense := m.condense || plan.1.contains idx
                         release := m.release || plan.2.contains idx, oldSampler := m.oldSampler.bind new
                         holder := m.holder.bind fun r => if lost.contains r then none else new r }
    | none =>
      let gone := lost.contains old
      let src := if gone then buddy else old
      ⟨gone, parts.contains idx, plan.1.contains idx, plan.2.contains idx, if gone then none else new old,
        if gone && (lost.contains buddy || n = 1) then none else new src, (old, ((ids.find? fun e => e.1 = old).map (·.2)).getD 0)⟩
  if m.holder.isNone then
    let s := match Tb.get s.ss.reqs x.reqId with
      | some _ => s.stage [.reqDone x.reqId .eInternal 0] (some idx)
      | none => s
    let s := { (s.releaseKv idx).dropSessionUnits idx with grp.moves := Tb.del s.grp.moves idx }
    if x.hankId = 0 then { s with ss.sessions := Tb.del s.ss.sessions idx, ss.rebuilds := Tb.del s.ss.rebuilds idx }
    else s.updSess idx fun x => { x with state := .parked, spool := [], segments := 0, segFill := 0 }
  else
    let s := { s with grp.moves := Tb.set s.grp.moves idx m
                      work.queue := s.work.queue.filter fun u => u.kind != UnitKind.sessionMove idx }
    s.addUnit (.sessionMove idx) (some x.tenant) (some idx) 1 (stampOf s.tk.tick 0xFFFF) true

/-- The surviving member, by its old rank, from which a chunk comes that is new to a shard (R298): the lowest that held it under the old
width. DESIGN CHOICE (log 37). -/
def Model.holder (m : Model) (surv : Word64) (n n0 c : Nat) : Option Nat :=
  ((List.range (Nat.min n n0)).filter surv.getLsbD).find? fun r => (shardChunks n0 r m.arch m.layers m.hdr.bodyLen).contains c

/-- The chunks of a model that this member, of an old rank, sends to the others in MOVE messages (R298).
DEDUCED (log 37). -/
def State.movedChunks (s : State) (m : Model) (surv : Word64) (n n0 own : Nat) : List Effect :=
  (((List.range n).filter surv.getLsbD).zipIdx.filter fun e => e.1 ≠ own).flatMap fun (r, k) =>
    let old := if r < n0 then shardChunks n0 r m.arch m.layers m.hdr.bodyLen else []
    ((shardChunks s.grp.n k m.arch m.layers m.hdr.bodyLen).filter fun c =>
      !old.contains c && m.holder surv n n0 c = some own && Tb.has m.chunks c).map fun c =>
        .send (.rank k) (.move (.tiles m.digest (c * chunkBytes) (s.movedChunk m c)))

/-- Models and adapters under the new width (R298): each holds its new shard's pages. Chunks that it lacks come from the surviving peer
that held them, or are to be fetched from the image; what the others lack and this member held goes to them. DEDUCED (log 29, 37). -/
def State.planReshard (s : State) (surv : Word64) (n n0 : Nat) : State :=
  let own := ((List.range n).filter surv.getLsbD).getD s.glb.rank n
  let as : List AdapterVer := s.img.adapters.map fun a => { a with pages := adapterPages s.grp.n s.glb.rank a.hdr }
  let s := { s with img.adapters := as }
  s.img.models.foldl (fun s (k, m) =>
    let need := (shardChunks s.grp.n s.glb.rank m.arch m.layers m.hdr.bodyLen).filter fun c => !Tb.has m.chunks c
    let pages := shardPages s.grp.n s.glb.rank m.arch m.layers
    let out := s.movedChunks m surv n n0 own
    let s := { s with img.models := Tb.set s.img.models k { m with need := need, pages := pages } }
    let s := if out.isEmpty then s else s.stage out
    if need.isEmpty then s else
    let s := { s with grp.reshards := s.grp.reshards ++ [k] }
    (need.filter fun c => (m.holder surv n n0 c).isNone).foldl (fun s c =>
      s.addUnit (.reshard k c) none none 0 (stampOf s.tk.tick 0xFFFF) false) s) s

/-- Models evicted in R95 order until the new shards fit the region (R298); a model that must go without qualifying ends
its requests with E_QUOTA. DEDUCED (log 37). -/
def State.fitModels (s : State) : Nat → State
  | 0 => s
  | fuel + 1 =>
    if s.regionUsed ≤ regionPages then s else
    let ok := s.img.models.filter fun e => e.2.state == .active && !e.2.pin && s.boundReqs e.2.digest = 0 && !s.slotNeeded e.1
    let pool := if ok.isEmpty then s.img.models else ok
    match (pool.mergeSort fun a b => a.2.lastBind < b.2.lastBind || (a.2.lastBind = b.2.lastBind && a.1 ≤ b.1)).head? with
    | none => s
    | some (k, m) =>
      let bound := s.ss.reqs.filter fun e => ((Tb.get s.ss.sessions e.2.session).map (·.model)) = some m.digest
      let s := bound.foldl (fun s e => s.stage [.reqDone e.1 .eQuota 0] (some e.2.session)) s
      let s := s.freeModel k
      { s with grp.reshards := s.grp.reshards.filter (· != k) }.fitModels fuel

/-- What rank 0 moves to a device that has just joined (R102): vocabularies, grammars, adapter versions and numbers, stores. -/
def State.joinMoves (s : State) : List Effect :=
  let mv (m : MoveItem) : Effect := .send (.rank (s.grp.n - 1)) (.move m)
  (s.img.vocabs.map fun e => mv (.vocab e.1 e.2)) ++ (s.img.grammars.map fun e => mv (.grammar e.1 e.2)) ++
    (s.img.adapters.map fun a => mv (.adapterVer a.id a.ver a.retiring a.digest a.hdr a.keyRef (s.movedBody a))) ++
    (s.img.adapterLast.map fun e => mv (.adapterId e.1 e.2 (Tb.get s.img.adapterCurrent e.1))) ++
    (s.st.stores.map fun e => mv (.store e.1 e.2))

/-- A rank after the width change (R296): survivors keep their order; a device that GROUP_SHRINK removes and that stays
reachable comes after them. -/
def rankAfter (surv : Word64) (n : Nat) (kept : Option Nat) (r : Nat) : Option Nat :=
  match newRank surv n r with
  | some k => some k
  | none => if kept = some r then some ((List.range n).filter surv.getLsbD).length else none

/-- What a width change gives up: group units that run, and copies that have lost a part. -/
def State.endForWidth (s : State) (n0 : Nat) (lost parts : List Nat) : State :=
  let s := s.work.running.foldl (fun s e => if e.2.group then s.abandonUnit e.1 e.2 else s) s
  (s.ss.copies.filter fun c => parts.contains c.2.session || lost.contains (c.2.session % n0)).foldl
    (fun s c => s.stage (s.copyFailEffects c.1 .eInternal) (some c.2.session)) s

/-- The survivors are the group, renumbered (R296). -/
def State.regroup (s : State) (surv : Word64) (kept : Option Nat) (lost : List Nat) : State :=
  let n := s.grp.n
  let ranks := (List.range n).filter surv.getLsbD
  let ids : List (Nat × Nat) := s.grp.members.zipIdx.map fun (d, r) => (r, d)
  let lr : List (Nat × Nat) := lost.map fun r => (r, ((ids.find? fun e => e.1 = r).map (·.2)).getD 0)
  let g : GroupSt := { s.grp with
    n := ranks.length, members := ranks.map fun r => s.grp.members.getD r 0
    chain := ranks.map fun r => s.grp.chain.getD r 0, missed := [], shrink := none
    reach := ranks.zipIdx.map fun (r, k) => (k, ((Tb.get s.grp.reach r).getD []).filterMap (rankAfter surv n kept))
    leaving := kept = some s.glb.rank, arrived := [], lostRanks := lr }
  { s with
    glb.rank := (rankAfter surv n kept s.glb.rank).getD s.glb.rank, grp := g
    tk.onMarker := s.tk.src ≠ 1 && (s.tk.onMarker || !surv.getLsbD 0)
    tk.awaited := s.tk.awaited && rankAfter surv n kept s.glb.rank ≠ some 0
    ports := s.ports.map fun x => if x.peerRank < 64 then { x with peerRank := (rankAfter surv n kept x.peerRank).getD 0xFD } else x }

/-- What follows from the new ranks: stores and trees, moves of sessions, shards of models (R237, R296 to R299). -/
def State.replan (s : State) (surv : Word64) (n n0 : Nat) (kept : Option Nat) (lost parts : List Nat) (ids : List (Nat × Nat))
    (live : Tbl Session) : State :=
  let s := (s.reshardStores surv n).dropTrees
  let plans : List (List Nat × List Nat) := s.ten.tenants.map fun t => s.projection t.1
  let plan := (plans.flatMap (·.1), plans.flatMap (·.2))
  let s := live.foldl (fun s e => s.planMove n0 lost ids (rankAfter surv n kept) parts plan e.1 e.2) s
  (s.planReshard surv n n0).fitModels 8

/-- The width change at the commit point C (R296): `surv` names the survivors by old rank, `joined` tells that one device
was added, `kept` is a device that GROUP_SHRINK removes and that stays reachable. -/
def State.widthChange (s : State) (surv : Word64) (joined : Bool) (kept : Option Nat) : State :=
  let n := s.grp.n
  let n0 := if joined then n - 1 else n
  let lost := (List.range n).filter fun r => !surv.getLsbD r && kept != some r
  let ids : List (Nat × Nat) := s.grp.members.zipIdx.map fun (d, r) => (r, d)
  let leaving := kept = some s.glb.rank
  let live := s.ss.sessions.filter fun e => e.2.state != .free
  let parts := (live.filter fun e => s.partOn e.2 lost).map (·.1)
  let s := ((s.endForWidth n0 lost parts).rerank (rankAfter surv n kept)).regroup surv kept lost
  let s := s.replan surv n n0 kept lost parts ids live
  let s := if joined && s.glb.rank = 0 then s.joinMoves.foldl (fun s e => s.stage [e]) s else s
  if leaving then s else s.stage [s.groupEvent]

/-! ### Moves (R297, R342) -/

/-- The mirror of a session that the new sampling device starts from: its own as the buddy, or one that arrived. -/
def State.moveSource (s : State) (idx : Nat) (m : SessMove) : Option MirrorEntry :=
  match Tb.get s.grp.arrived idx with
  | some e => some e
  | none => if m.holder = some s.glb.rank && m.lostSpool then Tb.get s.grp.mirrors idx else none

/-- Whether a session's move can be made now: the new sampling device waits for a spool that another device holds. -/
def State.moveReady (s : State) (idx : Nat) (m : SessMove) : Bool :=
  !s.samples idx || (!m.lostSpool && m.oldSampler = some s.glb.rank) || (s.moveSource idx m).isSome

/-- PRODUCER as the index block gives it, else as PUBLISHED (R342 order 2). -/
def State.hostProducer (s : State) (q : Req) (published : Nat) : Nat :=
  match s.readHost .port0 q.indexAddr 4 with
  | some b => leNat b
  | none => published

/-- The spool entries that a session's move writes on its new sampling device (R297, R299, R342 order 3). -/
def State.moveEntries (s : State) (idx : Nat) (m : SessMove) (x : Session) : List Effect :=
  if !s.samples idx then [] else
  (if m.condense then [.spool idx 0x0C 0 (payFormat 1 x.hist.length x.kvlen)] else []) ++
  (if m.lostSpool || m.lostPart || m.release then [.spool idx 0x0D 0 (toLE 4 x.hist.length)] else []) ++
  (match Tb.get s.ss.reqs x.reqId, s.moveSource idx m, m.lostSpool with
    | some q, some e, true =>
      let pub := fieldAt e.requestMirror 32 4
      [.spool idx 0x16 0 (toLE 4 x.reqId ++ toLE 4 pub ++ toLE 4 (s.hostProducer q pub) ++ toLE 1 m.lost.1 ++ zeros 3 ++
        toLE 8 m.lost.2)]
    | _, _, _ => [])

/-- The messages that a session's move sends (R294, R297): its spool to the new sampling device, to a device that has just
joined, and to the new buddy; its pages to a device that has just joined. -/
def State.moveSends (s : State) (idx : Nat) (m : SessMove) (x : Session) : List Effect :=
  let n := Nat.max s.grp.n 1
  let holds := m.holder = some s.glb.rank
  let src : MirrorEntry := if m.lostSpool then (Tb.get s.grp.mirrors idx).getD ⟨idx, [], [], []⟩ else s.mirrorEntry idx x.spool
  let body : MsgBody := .move (.spool idx src.entries src.requestMirror src.gstate)
  let dsts := [idx % n, (idx + 1) % n] ++ (if s.grp.joinTable.isEmpty then [] else [n - 1])
  if !holds then [] else
  ((dsts.dedup.filter (· ≠ s.glb.rank)).map fun r => (.send (.rank r) body : Effect)) ++
    (if s.grp.joinTable.isEmpty then [] else [.send (.rank (n - 1)) (.move (.kv idx x.kvlen (s.kvView x)))])

/-- A request of a session whose sampling device was lost (R342): from its mirror record, the next step with k = 0. -/
def State.replayReq (s : State) (r : Nat) (rec : Bytes) : State :=
  match Tb.get s.ss.reqs r with
  | none => s
  | some q =>
    let pub := fieldAt rec 32 4
    let prod := s.hostProducer q pub
    let pending := if fieldAt rec 40 1 = 0 then q.out.length else (q.out.findIdx? fun t => t.pos = fieldAt rec 36 4).getD q.out.length
    let again := pending + (prod + 2 ^ 32 - pub) % 2 ^ 32
    let out := q.out.zipIdx.map fun (t, i) => { t with published := decide (i < pending), replayed := pending ≤ i && i < again }
    s.updReq r fun q => { q with out := out, producer := pub, firstStep := true, replayed := true, hostProducer := again }

/-- A page takes a new ID and its frames under the group's new width, and every reference follows, those of background copies too
(R117, R118, R297). -/
def State.rehomePage (s : State) (id : Nat) : State :=
  match Tb.get s.kv.pages id with
  | none => s
  | some p =>
    let hs := p.data.heads.length
    let home := s.homeOf hs p.psize p.layer p.data.idx
    let z := { s with kv.pages := Tb.del s.kv.pages id }
    let new := home * 2 ^ 26 + s.indexFor home (recordBytes hs / 32)
    let q := { p with frames := z.framesFor hs p.psize p.layer p.data.idx (partGranules p.psize p.dim p.data.condensed) }
    let f (i : Nat) : Nat := if i = id then new else i
    { z with
      kv.pages := Tb.set z.kv.pages new q
      ss.copies := z.ss.copies.map fun (e : Nat × Copy) => (e.1, { e.2 with pages := e.2.pages.map fun c => (f c.1, c.2) })
      kv.purges := z.kv.purges.map fun (e : Nat × Purge) => (e.1, { e.2 with pages := e.2.pages.map f })
      ss.sessions := z.ss.sessions.map fun (e : Nat × Session) =>
        (e.1, { e.2 with pageMap := e.2.pageMap.map fun l => l.map fun (c : Nat × Nat) => (c.1, f c.2) }) }

/-- The pages of a session under the new width. -/
def State.rehomeSession (s : State) (idx : Nat) : State :=
  match Tb.get s.ss.sessions idx with
  | none => s
  | some x => (x.pageMap.flatMap id).foldl (fun s e => s.rehomePage e.2) s

/-- A session's move commits (R297, R299): the spool stands on the new sampling device, the format is switched, KV that was
lost in part is released and recomputed; KV that the projection of R299 released is recomputed at the next SUBMIT. -/
def State.moveSession (s : State) (idx : Nat) : State :=
  match Tb.get s.grp.moves idx, Tb.get s.ss.sessions idx with
  | some m, some x =>
    let src := s.moveSource idx m
    let s := { s with grp.moves := Tb.del s.grp.moves idx, grp.arrived := Tb.del s.grp.arrived idx }
    let s := match src, s.samples idx with
      | some e, true =>
        let es := renumber e.entries
        let pk := packSpool es
        let s := s.updSess idx fun x => { x with
          spool := es, spoolSeq := es.length, spoolDigest := chainDigest es, spoolLen := (es.map List.length).sum
          segments := pk.1, segFill := pk.2
          state := if es.any (fun e => entryType e = 0x10) then .gone else x.state }
        if m.lostSpool then s.replayReq x.reqId e.requestMirror else s
      | _, _ => s
    let s := if m.condense then s.condenseSess idx else s
    if !(m.lostSpool || m.lostPart || m.release) then s.rehomeSession idx else
    if x.hist.length ≤ 1 || (x.kvlen = 0 && x.pageMap.isEmpty) then s else
    let s := ((s.dropSessionUnits idx).releaseKv idx).updSess idx fun x => { x with guesses := [], residuals := [], rebuild := true }
    if m.release && !Tb.has s.ss.reqs x.reqId then s else
    s.startRebuild idx ⟨x.hist.length - 1, 64, 64, x.formats ++ (if m.condense then [x.kvlen] else []), none, none, [], [], false, 0⟩ (stampOf s.tk.tick 0xFFFF)
  | _, _ => { s with grp.moves := Tb.del s.grp.moves idx }

/-- A fetched chunk of a new shard (R298); none where the fetch failed: the model becomes FREE and its bound requests
complete with E_TIMEOUT. -/
def State.reshardChunk (s : State) (slot chunk : Nat) (data : Option Bytes) : State :=
  match Tb.get s.img.models slot, data with
  | some m, some d =>
    let m := { m with chunks := Tb.set m.chunks chunk d, need := m.need.filter (· != chunk) }
    { s with img.models := Tb.set s.img.models slot m
             grp.reshards := if m.need.isEmpty then s.grp.reshards.filter (· != slot) else s.grp.reshards }
  | _, _ =>
    let s := s.freeModel slot
    { s with grp.reshards := s.grp.reshards.filter (· != slot)
             work.queue := s.work.queue.filter fun u => match u.kind with | .reshard k _ => k != slot | _ => true }

/-- The removed device has moved its sessions out (R300): it clears its state and is alone. -/
def State.clearRemoved (s : State) : State :=
  if !s.grp.leaving || !s.grp.moves.isEmpty then s else
  let s := s.dropWork.standAlone
  let s := { s with ss := { s.ss with sessions := [], reqs := [], copies := [], revivals := [], rebuilds := [], srcs := []
                                      dsts := [], claims := [] }
                    kv := { s.kv with pages := [], nodes := [], edges := [], purges := [] }
                    img := { s.img with models := [], adapters := [], adapterCurrent := [], grammars := [], vocabs := [], exchanges := [] }
                    st := { s.st with stores := [], queries := [], groups := [] }
                    ten := { s.ten with tenants := [], grants := [], map := RouteMap.epoch0, old := none, next := none }
                    sec := { s.sec with slots := [] }
                    tk.noUnits := false }
  s.stage [s.groupEvent]

/-! ### Joining (R289 to R291) -/

/-- N, MODE, GROUP_ID and DEADLINE_MS of a group descriptor, and its device IDs and chain places by rank (R289). -/
def descN (d : Bytes) : Nat := fieldAt d 6 1
def descMode (d : Bytes) : Nat := fieldAt d 7 1
def descId (d : Bytes) (r : Nat) : Nat := fieldAt d (64 + 64 * r) 8
def descChain (d : Bytes) (r : Nat) : Nat := fieldAt d (73 + 64 * r) 1
def descPeer (d : Bytes) (r p : Nat) : Nat := fieldAt d (76 + 64 * r + p) 1

/-- The range check of R290 on a group descriptor. -/
def descFields (d : Bytes) : Bool :=
  let n := descN d
  let rs := List.range n
  fieldAt d 0 4 = 0x50524754 && fieldAt d 4 2 = 1 && 1 ≤ n && n ≤ 64 && descMode d ≤ 1 && fieldAt d 8 8 ≠ 0 &&
  1 ≤ fieldAt d 16 4 && fieldAt d 16 4 ≤ 60000 && zeroAt d 20 44 &&
  (rs.all fun r => fieldAt d (72 + 64 * r) 1 = r && zeroAt d (74 + 64 * r) 2 && zeroAt d (96 + 64 * r) 32) &&
  (rs.all fun c => (rs.filter fun r => descChain d r = c).length = 1) && descChain d 0 = 0 &&
  (rs.all fun r => (rs.filter fun q => descId d q = descId d r).length = 1) &&
  rs.all fun r => (List.range 20).all fun p =>
    let q := descPeer d r p
    q = 0xFD || q = 0xFE || q = 0xFF || (q ≠ r && q < n && (List.range 20).any fun k => descPeer d q k = r)

/-- The rank that a descriptor gives this device. -/
def descOwn (d : Bytes) : Option Nat := (List.range (descN d)).find? fun r => descId d r = Config.deviceId.toNat

/-- The members with which this device must attest for a join (R290, R315): all others of the new membership under MODE 0
or on the new device, the new device alone on an existing member. -/
def joinPeers (d : Bytes) : List Nat :=
  let own := (descOwn d).getD 0
  let n := descN d
  if descMode d = 1 && own ≠ n - 1 then [n - 1] else (List.range n).filter (· ≠ own)

/-- The exchange with a member is over (R315, R316). -/
def State.attested (s : State) (r : Nat) : Bool := match s.exchangeOf (.member (Fin.ofNat 64 r)) with
  | some x => x.done | none => false

/-- JOIN_ACK goes to rank 0 once every exchange of the join is done (R291 step 1); rank 0 counts its own. -/
def State.ackJoin (s : State) (status : Nat) : State :=
  match s.grp.join with
  | none => s
  | some d =>
    if status = 0 && !(joinPeers d).all s.attested then s else
    let own := (descOwn d).getD 0
    if own = 0 then { s with grp.joinAcks := if s.grp.joinAcks.contains 0 || status ≠ 0 then s.grp.joinAcks else s.grp.joinAcks ++ [0] }
    else s.stage [.send (.rank 0) (.joinAck status)]

/-- GROUP_JOIN accepted (R290, R291 step 1): exchanges with the peers begin, and the ports measure their latency. -/
def State.startJoin (s : State) (d : Bytes) (cmd : Nat) : State :=
  let s := { s with grp.join := some d, grp.joinCmd := some cmd, grp.joinUntilUs := s.timeUs + 1000 * fieldAt d 16 4
                    grp.joinAcks := [], grp.joinTick := none, grp.joinTable := [], sec.exchanges := s.sec.exchanges.filter fun e =>
                      (match e.1 with | .member _ => false | _ => true) }
  let s := (joinPeers d).foldl (fun s r =>
    let x := s.newExchange
    let via : HelloVia := .member (Fin.ofNat 64 r)
    let s := x.2.putExchange via (some x.1)
    s.stage [.send (.rank r) (.hello (helloBody 2 1 (fieldAt d 8 8) x.1.nonce (Ecc.pubBytes x.1.ephPriv) []))]) s
  let s := (List.range 20).foldl (fun s p =>
    if (s.ports[Fin.ofNat 20 p]).state == .up8 || (s.ports[Fin.ofNat 20 p]).state == .up4
    then s.sendMsg (.port p) 0 (.echo (s.timeUs * 1000)) else s) s
  s.ackJoin 0

/-- A join given up (R290): every device is as it was, and GROUP_JOIN completes with the status. -/
def State.failJoin (s : State) (st : Status) : State :=
  let cmd := s.grp.joinCmd
  let s := { s with grp.join := none, grp.joinCmd := none, grp.joinTick := none, grp.joinTable := [], grp.joinAcks := [] }
  match cmd with | some c => s.stage [.complete c st []] | none => s

/-- The copy that JOIN_GO gives a new member under MODE 1 (R291). -/
def State.joinCopy (s : State) (mapImage : Bytes) : JoinCopy :=
  { tenants := s.ten.tenants.map fun (i, t) => ⟨i, toLE 4 t.stackMib ++ toLE 4 t.treeMib ++ toLE 2 t.bobbins ++ zeros 2 ++
      toLE 4 t.sessions ++ toLE 4 t.parkTiles ++ zeros 12, t.isProtected, t.mailbox, t.rate, t.burst, t.bucket⟩
    grants := s.ten.grants.map fun (m, g) => (m, g.tenant, g.quota, g.isProtected)
    routeMap := mapImage, epoch := s.ten.map.epoch
    descriptors := s.ss.sessions.map fun (i, x) => descriptorBytes i x (s.stalledReq x).isSome
    models := (s.img.models.filter fun e => e.2.state == .active).map fun (k, m) => ⟨k, m.pin, m.tenantMask, m.addr, m.len⟩ }

end Sys2Proof.Machine
end

