-- ==== Sys2Proof/Machine/Shard.lean ====
section
/-! DEFINITION. Checkpoints and restores: shards, reels, the order of a checkpoint, the records of a restore (R326 to
R340). -/
namespace Sys2Proof.Machine

/-! ### Shards (R326 to R328) -/

/-- A session's place in a shard: index, session, clear record, KV block content in clear. -/
structure ShardRec where
  idx : Nat
  x : Session
  clear : Bytes
  kv : Bytes

/-- The clear part of a session's record (R328). -/
def State.clearRecord (s : State) (idx : Nat) (x : Session) : Bytes :=
  let req := (s.requestPart x).getD []
  let mir := match Tb.get s.ss.reqs x.reqId with
    | some q => if q.phase = .done || q.phase = .stalled then [] else s.requestMirror x.reqId q
    | none => []
  padTo 16 (descriptorBytes idx x (s.stalledReq x).isSome ++ guessBytes x.guesses ++ toLE 4 req.length ++ toLE 4 mir.length ++
    zeros 8 ++ req ++ mir) ++ x.spool.flatten

/-- The KV block content of a session that holds KV (R328): KVINDEX, KV and RESIDUAL; empty without KV or without a key
slot of the tenant. -/
def State.kvBlock (s : State) (idx : Nat) (x : Session) : Bytes :=
  if x.kvlen = 0 || (s.currentSlot x.tenant).isNone then [] else
  ((s.sessionSections idx x true).filter fun e => 4 ≤ e.1).flatMap (·.2)

/-- The records of this device's shard, in ascending session index (R327). -/
def State.shardRecs (s : State) : List ShardRec :=
  (s.ss.sessions.filter fun e => s.samples e.1 && e.2.state != .free).map fun e =>
    ⟨e.1, e.2, s.clearRecord e.1 e.2, s.kvBlock e.1 e.2⟩

/-- Tiles of 64 KiB of a length. -/
def tiles64 (n : Nat) : Nat := ceilDiv n 65536

/-- Tiles of each part of a shard: directory, records, tag table (R326). -/
def shardShape (rs : List ShardRec) : Nat × Nat × Nat :=
  let kv := (rs.map fun r => tiles64 r.kv.length).sum
  (tiles64 (64 * rs.length), (rs.map fun r => tiles64 r.clear.length + tiles64 r.kv.length).sum, tiles64 (16 * kv))

/-- SHARD_LEN (R326). -/
def shardLen (rs : List ShardRec) : Nat := let p := shardShape rs; 65536 * (1 + p.1 + p.2.1 + p.2.2)

/-- A shard header (R326). -/
def shardHead (rank n step group tiles sessions tagTile : Nat) (digest : Digest) : Bytes :=
  toLE 4 0x44524853 ++ toLE 2 2 ++ toLE 1 rank ++ toLE 1 n ++ toLE 8 step ++ toLE 8 group ++ toLE 8 Config.deviceId.toNat ++
    toLE 8 (65536 * tiles) ++ toLE 4 tiles ++ toLE 4 sessions ++ digestBytes digest ++ toLE 2 0x0100 ++ zeros 2 ++
    toLE 4 tagTile ++ zeros 24

/-- The key of a KV block (R328). -/
def ckptKey (slotKey : Key) (slot gen step : Nat) : Bytes :=
  Sha.hkdf (keyBytes slotKey) (label "E9 CKPT" ++ toLE 2 slot ++ toLE 4 gen ++ toLE 8 step) 32

/-- What the building of a shard gathers: next tile, directory, record tiles with their indices, KV tags. -/
structure ShardBuild where
  next : Nat
  dir : Bytes
  tiles : List (Nat × Bytes)
  tags : Bytes

/-- One session's record added (R327, R328). -/
def State.shardAdd (s : State) (step : Nat) (head : Bytes) (b : ShardBuild) (r : ShardRec) : ShardBuild :=
  let rtiles := (tilesOf r.clear).map (fitTo 65536)
  let slot := s.currentSlot r.x.tenant
  let kvAt := b.next + rtiles.length
  let key := (slot.map fun k => ckptKey k.2.key k.1 k.2.gen step).getD []
  let enc := (tilesOf r.kv).zipIdx.map fun (t, i) => Aes.gcmEncrypt key (zeros 4 ++ toLE 8 (kvAt + i)) head (fitTo 65536 t)
  let has := !r.kv.isEmpty
  { next := kvAt + enc.length
    dir := b.dir ++ toLE 8 (handleOf r.idx r.x.gen) ++ toLE 1 r.x.state.code ++ toLE 1 r.x.tenant ++
      toLE 2 (if has then (slot.map (·.1)).getD 0 else 0) ++ toLE 4 (if has then (slot.map (·.2.gen)).getD 0 else 0) ++
      toLE 4 b.next ++ toLE 4 rtiles.length ++ toLE 4 (if has then kvAt else 0) ++ toLE 4 enc.length ++
      toLE 8 r.clear.length ++ toLE 8 r.kv.length ++ zeros 16
    tiles := b.tiles ++ rtiles.zipIdx.map (fun (t, i) => (b.next + i, t)) ++ enc.zipIdx.map (fun (e, i) => (kvAt + i, e.1))
    tags := b.tags ++ enc.flatMap (·.2) }

/-- This device's shard (R326 to R328): its tiles with their indices in the write order of R334, and its digest. -/
def State.buildShard (s : State) (step : Nat) : List (Nat × Bytes) × Digest :=
  let rs := s.shardRecs
  let p := shardShape rs
  let total := 1 + p.1 + p.2.1 + p.2.2
  let tagTile := 1 + p.1 + p.2.1
  let head (d : Digest) := shardHead s.glb.rank s.grp.n step s.grp.groupId total rs.length tagTile d
  let b := rs.foldl (s.shardAdd step (head 0)) ⟨1 + p.1, [], [], []⟩
  let dir := (tilesOf b.dir).zipIdx.map fun (t, i) => (1 + i, fitTo 65536 t)
  let tag := (tilesOf b.tags).zipIdx.map fun (t, i) => (tagTile + i, fitTo 65536 t)
  let dir := if b.dir.isEmpty then [] else dir
  let tag := if b.tags.isEmpty then [] else tag
  let d := Sha.sha384 (fitTo 65536 (head 0) ++ dir.flatMap (·.2) ++ b.tiles.flatMap (·.2) ++ tag.flatMap (·.2))
  (b.tiles ++ tag ++ dir ++ [(0, fitTo 65536 (head d))], d)

/-! ### The order of a checkpoint (R333 to R335) -/

/-- References and reservations of the checkpoint's copies dropped (R118, R131, R335). -/
def State.dropChkptCopies (s : State) : State :=
  (s.ss.copies.filter fun c => c.2.for_ = .chkpt).foldl (fun s c => s.dropCopy c.1) s

/-- A checkpoint forgotten, its queued units gone. -/
def State.dropCheckpoint (s : State) : State :=
  let q : List UnitRec := s.work.queue.filter fun u => match u.kind with | .chkptTile _ => false | _ => true
  { s.dropChkptCopies with chkpt := none, work.queue := q }

/-- The reservation of R131 made for each of this device's sessions that holds KV (R333); none where one fails. -/
def State.reserveChkpt (s : State) : Option State :=
  s.ss.sessions.foldl (fun st e => st.bind fun s =>
    if !s.samples e.1 || e.2.kvlen = 0 then some s else
    if !s.reserveOk e.1 e.2.tenant (s.shapeOf e.2) e.2.psize e.2.condensed (s.copyIndices e.2) 0 then none else
    let pages := (e.2.pageMap.flatMap id).map fun p => (p.2, 0)
    let k : Copy := ⟨e.1, .chkpt, none, true, 0, 0, 0, 0, [], 0, none, [], 0, pages, s.copyIndices e.2, e.2.condensed⟩
    let s := pages.foldl (fun s p => s.refPage p.1) s
    let c := s.ss.nextCopy
    some { s with ss.nextCopy := c + 1, ss.copies := Tb.set s.ss.copies c k }) (some s)

/-- The handoff entries of a reel (R330): sessions OFFERED or GONE, in ascending (rank, index). -/
def State.reelHandoffs (s : State) : List Bytes :=
  let n := Nat.max s.grp.n 1
  let hs := (s.ss.sessions.filter fun e => e.2.state == .offered || e.2.state == .gone).mergeSort fun a b =>
    a.1 % n < b.1 % n || (a.1 % n = b.1 % n && a.1 ≤ b.1)
  hs.map fun e => toLE 1 (e.1 % n) ++ toLE 1 e.2.state.code ++ zeros 6 ++ toLE 8 (handleOf e.1 e.2.gen) ++
    toLE 8 e.2.handoffId ++ toLE 8 e.2.peer

/-- The tiles after which each page of a checkpoint's copies is copied (R118, R328, R334): record tiles come first, in
directory order. -/
def State.timeChkptCopies (s : State) : State :=
  (s.shardRecs.foldl (fun (st : Nat × State) r =>
    let start := st.1 + tiles64 r.clear.length
    let pages := st.2.copyPages r.x start (kvIndexBytes (st.2.kvView r.x)).length
    let cs : Tbl Copy := st.2.ss.copies.map fun c =>
      if c.2.for_ = .chkpt && c.2.session = r.idx then (c.1, { c.2 with pages := pages }) else c
    (start + tiles64 r.kv.length, { st.2 with ss.copies := cs })) (0, s)).2

/-- The tiles of a shard after which each session's clear record is written (R334). DESIGN CHOICE (log 128). -/
def recordEnds (rs : List ShardRec) : Tbl Nat :=
  (rs.foldl (fun (st : Nat × Tbl Nat) r =>
    (st.1 + tiles64 r.clear.length + tiles64 r.kv.length, st.2 ++ [(r.idx, st.1 + tiles64 r.clear.length)])) (0, [])).2

/-- The step of a checkpoint on this member (R333): the reservation and the shard's length; a status where one fails. -/
def State.chkptStep (s : State) (k : Checkpoint) : Except Status State :=
  match s.reserveChkpt with
  | none => .error .eQuota
  | some s =>
    if k.limit < shardLen s.shardRecs then .error .eLength else
    let b := s.buildShard k.step
    let s := s.timeChkptCopies
    let mask := ((s.ss.sessions.filter fun e => e.2.state != .free).map fun e => e.2.tenant).dedup.foldl (fun a t => a + 2 ^ t) 0
    .ok { s with chkpt := some { k with
      tiles := b.1, digest := b.2, ends := recordEnds s.shardRecs
      owners := s.shardRecs.flatMap fun r => List.replicate (tiles64 r.clear.length + tiles64 r.kv.length) (some r.x.tenant)
      shardLen := shardLen s.shardRecs, sessions := s.shardRecs.length
      handoffs := s.reelHandoffs, tenants := mask, epoch := s.ten.map.epoch } }

/-- The copies of a checkpoint ordered (R334): one CHKPT unit for each tile, in write order. -/
def State.orderCheckpoint (s : State) (stamp : Nat) : State :=
  match s.chkpt with
  | none => s
  | some k => (List.range k.tiles.length).foldl (fun s i => s.addUnit (.chkptTile i) none none 65536 stamp false) s

/-- CHECKPOINT at its accepting commit (R333): outside a group the step is the accepting tick itself. -/
def State.startCheckpoint (s : State) (cmd : Option Nat) (store offset limit reelAddr reelLen step : Nat) : State :=
  { s with chkpt := some { cmd := cmd, accepting := s.glb.rank, store := store, offset := offset, limit := limit, reelAddr := reelAddr, reelLen := reelLen
                           step := step, tiles := [], owners := [], written := 0, shardLen := 0, sessions := 0, digest := 0, reports := []
                           ends := [], kept := [], handoffs := [], tenants := 0, epoch := 0 } }

/-- A tile of the shard has been written (R334); with the header tile the copies are dropped, and the checkpoint is over on a member that
did not accept it; the accepting one holds its own report. DESIGN CHOICE (log 122). -/
def State.chkptTileDone (s : State) : State :=
  match s.chkpt with
  | none => s
  | some k =>
    let k := { k with written := k.written + 1 }
    let s := { s with chkpt := some k }
    let s := (s.ss.copies.filter fun c => c.2.for_ = .chkpt).foldl (fun s c => s.copiedTo c.1 k.written) s
    if k.written < k.tiles.length then s else
    let s := s.dropChkptCopies
    if k.accepting ≠ s.glb.rank then { s with chkpt := none } else
    { s with chkpt := some { k with reports := Tb.set k.reports s.glb.rank (k.digest, k.shardLen, k.sessions) } }

/-- Bytes of a reel (R330). -/
def reelLenOf (n h : Nat) : Nat := 128 + 96 * n + 32 * h + 304

/-- The reel of a checkpoint (R330) up to its signature. -/
def State.reelBody (s : State) (k : Checkpoint) (stamp : Nat) : Bytes :=
  let len := reelLenOf s.grp.n k.handoffs.length
  let member (r : Nat) : Bytes :=
    let e := (Tb.get k.reports r).getD (0, 0, 0)
    let dev := if s.grp.n ≤ 1 then Config.deviceId.toNat else s.grp.members.getD r 0
    toLE 8 dev ++ toLE 8 e.2.1 ++ toLE 4 e.2.2 ++ zeros 12 ++ digestBytes e.1 ++ zeros 16
  toLE 4 0x4C454552 ++ toLE 2 2 ++ toLE 1 s.grp.n ++ toLE 1 s.glb.rank ++ toLE 8 k.step ++ toLE 8 s.grp.groupId ++
    toLE 8 stamp ++ toLE 4 len ++ toLE 4 k.handoffs.length ++ toLE 2 0x0100 ++ toLE 1 k.store ++ zeros 5 ++
    toLE 8 k.offset ++ toLE 8 k.limit ++ toLE 8 k.tenants ++ toLE 4 k.epoch ++ zeros 52 ++
    (List.range s.grp.n).flatMap member ++ k.handoffs.flatten ++ Ecc.pubBytes Config.identityKey ++ zeros 15 ++
    toBE 96 Config.certSig.toNat

/-- The signed reel written at REEL_ADDR (R334); the nonce of the signature is a drawn value. -/
def State.writeReel (s : State) (stamp : Nat) : State :=
  match s.chkpt with
  | none => s
  | some k =>
    let b := s.reelBody k stamp
    let d := s.drawFree
    { (d.2.writeHost .port0 k.reelAddr (b ++ Ecc.sign Config.identityKey d.1.toNat b)).dropCheckpoint with chkpt := none }

/-- The failure of a checkpoint (R335). -/
def State.failCheckpoint (s : State) : State := s.dropCheckpoint

/-- What the failure of a checkpoint does at a commit (R335). -/
def State.chkptFailEffects (s : State) (st : Status) : List Effect :=
  .chkptFail st :: ((s.chkpt.bind (·.cmd)).map fun c => (.complete c st [] : Effect)).toList

/-- The name that a checkpoint's exchange goes by, and what a restore's members tell each other: its step. -/
def chkptDigest (step : Nat) : Digest := Sha.sha384 (toLE 8 step)

/-- ABORT to every other member. -/
def State.abortSends (s : State) (d : Digest) : List Effect :=
  ((List.range s.grp.n).filter (· ≠ s.glb.rank)).map fun r => .send (.rank r) (.abort d)

/-- What a member tells the others of its failure in a checkpoint or a restore (R92, R333): FAILED to the lowest rank and to the accepting
member, or, being the lowest rank, ABORT to all. DESIGN CHOICE (log 138). -/
def State.failSends (s : State) (accepting : Nat) (d : Digest) (st : Status) : List Effect :=
  if s.grp.n ≤ 1 then [] else
  (([0, accepting].dedup.filter (· ≠ s.glb.rank)).map fun r => (.send (.rank r) (.failed d st.code) : Effect)) ++
    if s.glb.rank = 0 then s.abortSends d else []

/-- The failure of a checkpoint on this member, told to the others (R335). -/
def State.chkptGiveUp (s : State) (st : Status) : List Effect :=
  s.chkptFailEffects st ++ (s.chkpt.map fun k => s.failSends k.accepting (chkptDigest k.step) st).getD []

/-! ### Reels read back (R331, R336) -/

/-- The length check of R331 on a reel of `len` bytes. -/
def reelLength (len : Nat) (r : Bytes) : Bool :=
  fieldAt r 32 4 = len && len = reelLenOf (fieldAt r 6 1) (fieldAt r 36 4)

/-- The range check of R331. -/
def reelFields (r : Bytes) : Bool :=
  let n := fieldAt r 6 1
  let h := fieldAt r 36 4
  fieldAt r 0 4 = 0x4C454552 && 1 ≤ n && n ≤ 64 && fieldAt r 7 1 < n && zeroAt r 43 5 && zeroAt r 76 52 && fieldAt r 14 2 = 0 &&
  ((List.range n).all fun i => zeroAt r (128 + 96 * i + 20) 12 && zeroAt r (128 + 96 * i + 80) 16) &&
  ((List.range h).all fun i =>
    let o := 128 + 96 * n + 32 * i
    (fieldAt r (o + 1) 1 = 6 || fieldAt r (o + 1) 1 = 8) && zeroAt r (o + 2) 6) &&
  zeroAt r (fieldAt r 32 4 - 207) 15

/-- The version check of R331. -/
def reelVersion (r : Bytes) : Bool := fieldAt r 4 2 = 2 && fieldAt r 40 2 = 0x0100

/-- The signature check of R331. -/
def reelSigned (r : Bytes) : Bool :=
  let len := fieldAt r 32 4
  let pub := sliceAt r (len - 304) 97
  let signer := sliceAt r (128 + 96 * fieldAt r 7 1) 8
  Ecc.verify (toBE 97 Config.deviceCaKey.toNat) (signer ++ pub) (sliceAt r (len - 192) 96) &&
    Ecc.verify pub (r.take (len - 96)) (sliceAt r (len - 96) 96)

/-- The checks of R331 on one reel of `len` bytes. -/
def reelChecks (len : Nat) (r : Bytes) : Except Status Unit := do
  need .eLength (reelLength len r)
  need .eRange (reelFields r)
  need .eVersion (reelVersion r)
  need .eAuth (reelSigned r)

/-- A reel list cut into its reels by their REEL_LEN fields (R336); none where they do not sum to the list's length. -/
def splitReels : Nat → Bytes → Option (List Bytes)
  | 0, b => if b.isEmpty then some [] else none
  | fuel + 1, b =>
    if b.isEmpty then some [] else
    let n := fieldAt b 32 4
    if n < 36 || b.length < n then none else (splitReels fuel (b.drop n)).map fun l => b.take n :: l

/-- Checks 1 to 4 of R336. -/
def reelListChecks (b : Bytes) : Except Status (List Bytes) :=
  match splitReels (b.length / 36 + 1) b with
  | none => .error .eLength
  | some rs => do
    need .eLength (rs.all fun r => reelLength r.length r)
    need .eRange (1 ≤ rs.length && rs.length ≤ 16 && (rs.map fun r => fieldAt r 8 8).dedup.length = rs.length && rs.all reelFields)
    need .eVersion (rs.all reelVersion)
    need .eAuth (rs.all reelSigned)
    pure rs

/-- The shard of rank r that a reel names, where every condition of R337 holds for that rank. -/
def State.shardOf (s : State) (reel : Bytes) (r : Nat) : Option Bytes := do
  let st ← Tb.get s.ten.map.stores (fieldAt reel 42 1)
  let o := fieldAt reel 48 8 + r * fieldAt reel 56 8
  let h ← s.readStore st o 65536
  let e := 128 + 96 * r
  let len := fieldAt h 32 8
  if fieldAt h 0 4 = 0x44524853 && fieldAt h 4 2 = 2 && fieldAt h 8 8 = fieldAt reel 8 8 && fieldAt h 16 8 = fieldAt reel 16 8 &&
      fieldAt h 6 1 = r && fieldAt h 7 1 = fieldAt reel 6 1 && fieldAt h 24 8 = fieldAt reel e 8 &&
      len = fieldAt reel (e + 8) 8 && fieldAt h 44 4 = fieldAt reel (e + 16) 4 && len ≤ fieldAt reel 56 8 then
    let b ← s.readStore st o len
    let d := Sha.sha384 (overwrite b 48 (zeros 48))
    if d = digestOf (sliceAt h 48 48) && d = digestOf (sliceAt reel (e + 32) 48) then some b else none
  else none

/-- A reel qualifies (R337). -/
def State.qualifies (s : State) (reel : Bytes) : Bool := (List.range (fieldAt reel 6 1)).all fun r => (s.shardOf reel r).isSome

/-- The selected reel (R337): the first that qualifies in descending STEP. -/
def State.selectReel (s : State) (rs : List Bytes) : Option Bytes :=
  (rs.mergeSort fun a b => fieldAt b 8 8 ≤ fieldAt a 8 8).find? s.qualifies

/-- The directory entries of a shard (R327). -/
def shardDir (sh : Bytes) : List Bytes :=
  (List.range (fieldAt sh 44 4)).map fun i => sliceAt sh (65536 + 64 * i) 64

/-- A directory entry's clear record. -/
def shardRecord (sh e : Bytes) : Bytes := sliceAt sh (65536 * fieldAt e 16 4) (fieldAt e 32 8)

/-- Where the spool begins in a clear record (R328). -/
def spoolAt (rc : Bytes) : Nat := roundUp (288 + fieldAt rc 272 4 + fieldAt rc 276 4) 16

/-- The spool entries of a clear record. -/
def spoolOf (rc : Bytes) : Option (List Bytes) := let b := rc.drop (spoolAt rc); splitSpool (b.length / 16 + 1) b

/-- The status with which a reader rejects a clear record (R6, R79, R174, R180): a reserved field that is not zero, or its spool.
DEDUCED (log 11). -/
def recordFault (rc : Bytes) : Option Status :=
  let req := sliceAt rc 288 (fieldAt rc 272 4)
  if !zeroAt rc 280 8 || !descriptorClean (rc.take 256) || !(req.isEmpty || requestClean req) then some .eRange else
  match spoolOf rc with
  | none => some .eRange
  | some es => spoolFault es

/-- The KV block of a record opened (R328, R339); none where a tag fails. -/
def openKvBlock (key : Bytes) (sh e : Bytes) : Option Bytes :=
  let head := overwrite (sh.take 128) 48 (zeros 48)
  let tagTile := fieldAt sh 100 4
  let first := ((shardDir sh).filter fun d => fieldAt d 24 4 ≠ 0).map (fun d => fieldAt d 24 4) |>.head?.getD 0
  let before := ((shardDir sh).filter fun d => fieldAt d 24 4 ≠ 0 && fieldAt d 24 4 < fieldAt e 24 4).map fun d => fieldAt d 28 4
  let base := if first = 0 then 0 else before.sum
  ((List.range (fieldAt e 28 4)).mapM fun i =>
    let t := fieldAt e 24 4 + i
    Aes.gcmDecrypt key (zeros 4 ++ toLE 8 t) head (sliceAt sh (65536 * t) 65536)
      (sliceAt sh (65536 * tagTile + 16 * (base + i)) 16)).map fun l => l.flatten.take (fieldAt e 40 8)

/-- The state in which a recorded session returns (R338); none is not restored. -/
def restoredState (code : Nat) : Option SessState :=
  match SessState.ofCode code with
  | some .idle => some .idle | some .busy => some .idle | some .parking => some .idle
  | some .parked => some .parked | some .reviving => some .parked
  | some .offered => some .offered | some .gone => some .gone
  | _ => none

/-- The directory entries that a restore brings back, with their shards: every member holds every session's record. -/
def State.restoreList (s : State) (reel : Bytes) : List (Bytes × Bytes) :=
  (List.range (fieldAt reel 6 1)).flatMap fun r => match s.shardOf reel r with
    | none => []
    | some sh => ((shardDir sh).filter fun e => (restoredState (fieldAt e 8 1)).isSome).map fun e => (sh, e)

/-- RESTORE at its accepting commit (R338, R339): each session to come is REVIVING. -/
def State.startRestore (s : State) (cmd : Option Nat) (reel : Bytes) (by_ : Nat) : State :=
  let l := s.restoreList reel
  let n := fieldAt reel 6 1
  let same := decide (n = Nat.max s.grp.n 1) && (List.range n).all fun r =>
    fieldAt reel (128 + 96 * r) 8 = if s.grp.n ≤ 1 then Config.deviceId.toNat else s.grp.members.getD r 0
  let s := l.foldl (fun s (sh, e) =>
    let rc := shardRecord sh e
    let h := fieldAt e 0 8
    let i := h % 2 ^ 24
    let x := { sessionOf (h / 2 ^ 24) (fieldAt e 9 1) .reviving (rc.take 256) (zeros 16) [] with epoch := s.ten.map.epoch }
    { s with ss.sessions := Tb.set s.ss.sessions i x, ss.gens := Tb.set s.ss.gens i (h / 2 ^ 24) }) s
  { s with restore := some { cmd := cmd, reel := reel, step := fieldAt reel 8 8, shard := [], sameMembers := same
                             todo := l.map fun p => fieldAt p.2 0 8 % 2 ^ 24, accepting := by_, reports := [] } }

/-- The shard and directory entry of a session of the restore under way. -/
def State.restoreEntry (s : State) (k : Restore) (idx : Nat) : Option (Bytes × Bytes) :=
  (s.restoreList k.reel).find? fun p => fieldAt p.2 0 8 % 2 ^ 24 = idx

/-- The KV content of a record that R339 places: none where the block is skipped. Without its model in a slot the shape of its parts is
not known, and it is skipped. DEDUCED (log 34). -/
def State.restoredKv (s : State) (k : Restore) (sh e : Bytes) : Option Bytes :=
  if fieldAt e 24 4 = 0 || !k.sameMembers || (s.modelOf (digestOf (sliceAt (shardRecord sh e) 48 48))).isNone then none else
  match Tb.get s.sec.slots (fieldAt e 10 2) with
  | some ks => if ks.gen = fieldAt e 12 4 && ks.tenant = fieldAt e 9 1 && [SlotKind.current, .draining, .kept].contains ks.kind
      then openKvBlock (ckptKey ks.key (fieldAt e 10 2) ks.gen k.step) sh e else none
  | none => none

/-- The spool entries of a session's restoring commit (R338). -/
def State.restoreEntries (s : State) (k : Restore) (sh e : Bytes) (idx : Nat) : List Effect :=
  let rc := shardRecord sh e
  let live := fieldAt rc 24 4
  let flags := fieldAt rc 12 4
  let req := sliceAt rc 288 (fieldAt rc 272 4)
  (if live ≠ 0 && !flags.testBit 1 then [.spool idx 0x07 0 (payEnd live 4 0 (fieldAt rc 16 4) (fieldAt rc (336 + fieldAt rc 272 4) 4))] else []) ++
  (if live ≠ 0 && flags.testBit 1 then [.spool idx 0x09 0 (toLE 4 live)] else []) ++
  (if flags.testBit 0 then [.spool idx 0x14 0 (toLE 4 (fieldAt req 16 4) ++ toLE 4 (fieldAt req 8 4))] else []) ++
  [.spool idx 0x0F 0 (payRevive k.step (if (s.restoredKv k sh e).isSome then 2 else 3) (fieldAt sh 24 8))]

/-- One session's record restored (R338, R339). Of a session whose earlier entries are in its hank the length alone is known: its tokens
come with its revival. DEDUCED (log 34). A session restored as OFFERED gets its source record back, which never
reverts on its own; its `deadlineUs` is the time of its next query to the destination (R192). -/
def State.restoreRecord (s : State) (idx : Nat) : State :=
  match s.restore with
  | none => s
  | some k =>
    let s := { s with restore := some { k with todo := k.todo.filter (· != idx) } }
    match s.restoreEntry k idx with
    | none => s
    | some (sh, e) =>
      let rc := shardRecord sh e
      let st := (restoredState (fieldAt e 8 1)).getD .idle
      let es := (spoolOf rc).getD []
      let h := fieldAt e 0 8
      let kv := s.restoredKv k sh e
      let y := sessionOf (h / 2 ^ 24) (fieldAt e 9 1) st (rc.take 256) (if kv.isSome then sliceAt rc 256 16 else zeros 16) es
      let x := { y with
        epoch := s.ten.map.epoch, spoolLen := fieldAt rc 112 8, spoolSeq := fieldAt rc 120 4, spoolDigest := digestOf (sliceAt rc 128 48)
        hist := if es.length < fieldAt rc 120 4 then List.replicate (fieldAt rc 16 4) 0 else y.hist }
      let x := { x with prior := if es.isEmpty then .parked else .idle }
      let s := { s with ss.sessions := Tb.set s.ss.sessions idx x }
      let src : HandoffSrc := { session := idx, dst := x.peer, timeoutMs := 0, cmd := none, deadlineUs := some s.timeUs
                                accepted := none, aborted := none, restored := true, reverted := false, full := false, was := (0, 0) }
      let s := if st = .offered then { s with ss.srcs := Tb.set s.ss.srcs x.handoffId src } else s
      if st = .parked || st = .gone then s else
      let kvlen := fieldAt rc 20 4
      match kv, s.modelOf x.model with
      | some b, some m =>
        let a := m.2.arch
        let index := readKvIndex a.layers b
        let il := (index.map fun l => 4 + 4 * l.length).sum
        let view := readKv x.psize a.headDim a.kvHeads x.condensed index (b.drop il)
        let pl := (index.map List.length).sum * a.kvHeads * partLen x.psize a.headDim x.condensed
        let rs := b.drop (il + pl)
        let s := s.storeKv idx a.headDim view kvlen
        if rs.isEmpty then s else s.updSess idx fun x => { x with
          residuals := [(kvlen - 1, (List.range (rs.length / 4)).map fun i => BitVec.ofNat 32 (fieldAt rs (4 * i) 4))] }
      | _, _ => if x.hist.length ≤ 1 then s else s.updSess idx fun x => { x with rebuild := true }

/-- A restore ends before its last record (R339): the sessions not yet restored stay FREE. -/
def State.endRestore (s : State) : State :=
  match s.restore with
  | none => s
  | some k => { s with restore := none, ss.sessions := k.todo.foldl (fun t i => Tb.del t i) s.ss.sessions }

/-- The end of a restore, with its status. -/
def Restore.endEffects (k : Restore) (st : Status) : List Effect :=
  .restoreEnd :: (k.cmd.map fun c => (.complete c st (if st == .ok then toLE 8 k.step else []) : Effect)).toList

/-- Every other member has reported its last record (R339). -/
def Restore.reported (k : Restore) (n rank : Nat) : Bool := (List.range n).all fun r => r = rank || k.reports.contains r

/-- What this member's last record brings (R339): the end where all members have reported theirs, else, on a member that did not accept
RESTORE, its report. DESIGN CHOICE (log 138). -/
def Restore.lastEffects (k : Restore) (s : State) : List Effect :=
  if k.accepting ≠ s.glb.rank then [.restoreEnd, .send (.rank k.accepting) (.move (.shard 0 0 0))]
  else if k.reported s.grp.n s.glb.rank then k.endEffects .ok else []

/-- A restore given up by this member, told to the others (R339). -/
def Restore.giveUp (k : Restore) (s : State) (st : Status) : List Effect :=
  k.endEffects st ++ s.failSends k.accepting (chkptDigest k.step) st

/-! ### ONE_SHARD (R340) -/

/-- The session that ONE_SHARD rebuilds from the kept entries. -/
def oneShardSession (sh e : Bytes) (cut : Nat) (epoch : Nat) : Session :=
  let rc := shardRecord sh e
  let es := ((spoolOf rc).getD []).take cut
  { sessionOf (fieldAt e 0 8 / 2 ^ 24) (fieldAt e 9 1) .reviving (rc.take 256) (zeros 16) es with
    condensed := false, epoch := epoch }

end Sys2Proof.Machine
end

