-- ==== Sys2Proof/Machine/Power.lean ====
section
/-! DEFINITION. The energy ledger, operating points, the BIST record, counters, hang dumps, halting (R347 to R380). -/
namespace Sys2Proof.Machine

/-! ### The ledger (R361 to R366) -/

/-- A row's energy sum exceeds a board limit (R361). -/
def SchedTable.overW (t : SchedTable) (w : Nat) : Bool := t.rows.any fun r => w * t.tickUs < rowEnergy r

/-- ENERGY_SET at its commit (R361). -/
def State.setEnergy (s : State) (w : Nat) : State :=
  let above := s.tk.table.overW w || match s.tk.staged with | some g => g.table.overW w | none => false
  let p := s.pwr
  let due := if p.pendingW ≠ 0 ∧ p.pendingTick < s.tk.tick + 1 ∧ (s.tk.tick + 1) % 64 = 0 then p.pendingW else p.dueW
  { s with pwr := { p with pendingW := w, dueW := due, pendingTick := s.tk.tick + 1, tableOver := p.tableOver || above } }

/-- BOARD_W that check 10 of R33 uses (R361). -/
def State.lowerW (s : State) : Nat :=
  [s.pwr.pendingW, s.pwr.dueW].foldl (fun a w => if w = 0 then a else Nat.min a w) s.pwr.boardW

/-- The step that Tally chooses at a boundary (R366): some true is one point down. -/
def PwrSt.choose (p : PwrSt) (a debt run ew : Nat) : Option Bool :=
  if a < debt && p.point < 3 then some true
  else if 4 ≤ run && 8 * ew ≤ 7 * 64 * a && 0 < p.point then some false
  else none

/-- The ledger at a whorl boundary (R361, R363, R364, R366): the ended whorl is settled under its own allowance, a waiting
BOARD_W takes effect, the new whorl's allowance is published. -/
def State.settleWhorl (s : State) (ew : Nat) : State :=
  let p := s.pwr
  let a := p.whorlA
  let debt := p.debt + ew - 64 * a
  let run := if debt = 0 then p.zeroRun + 1 else 0
  let takes := decide (p.pendingW ≠ 0 ∧ p.pendingTick < s.tk.tick)
  let w := if p.dueW ≠ 0 then p.dueW else if takes then p.pendingW else p.boardW
  let a' := w * s.tickUs
  let d := Nat.min (ceilDiv debt 64) (a' / 2)
  let whorl := s.tk.tick / 64
  let allow := if whorl < p.zeroUntil then 0 else a' - d
  let chosen := (p.choose a debt run ew).map fun b => (b, s.tk.tick + 64)
  let s := { s with
    pwr := { p with debt := debt, lastEw := ew, zeroRun := run, boardW := w, pendingW := if takes then 0 else p.pendingW, dueW := 0
                    allow := allow, whorlA := a', settled := whorl, chosen := chosen }
    tk.allowLeft := allow
    tk.table := if s.tk.table.tableId = 0 then defaultTable w else s.tk.table }
  ((if 0 < debt then s.count 7 0 1 else s).count 7 1 (debt - p.debt)).count 7 2 ew

/-- A peak trip (R364). -/
def State.peakTrip (s : State) : State :=
  { s with pwr := { s.pwr with peakTrip := true, allow := 0, zeroUntil := Nat.max s.pwr.zeroUntil (s.tk.tick / 64 + 2) }
           tk.allowLeft := 0 }.count 7 4 1

/-- An operating-point step carried out or cancelled (R367). -/
def State.stepPoint (s : State) (down ok : Bool) : State :=
  let s := { s with pwr.chosen := none }
  if !ok then { s with pwr.vfFault := true } else
  ({ s with pwr.point := if down then s.pwr.point + 1 else s.pwr.point - 1 }.count 7 5 1).count 7 6 14

/-! ### The BIST record (R376, R378) -/

/-- RESULT of a run (R376, R378). -/
def bistResult (bs : List BistBlock) (fs : List BistFault) : Nat :=
  if (bs.any fun b => b.result = 1) || (fs.any fun f => f.repair = 3) then 2 else if fs.isEmpty then 0 else 1

/-- The bytes of the stored record (R378); RESULT 4 where no run was ever made. -/
def State.bistBytes (s : State) : Bytes :=
  let r := s.pwr.record.getD (4, [], [])
  toLE 4 0x54534942 ++ toLE 2 1 ++ toLE 1 r.1 ++ toLE 1 s.pwr.recordLifecycle ++ toLE 4 s.pwr.runs ++
    toLE 2 r.2.1.length ++ toLE 2 r.2.2.length ++ zeros 48 ++
    (r.2.1.flatMap fun b => toLE 2 b.block ++ toLE 1 b.result ++ zeros 5 ++ toLE 8 b.signature.toNat) ++
    r.2.2.flatMap fun f => toLE 2 f.block ++ toLE 1 f.kind ++ toLE 1 f.repair ++ toLE 2 f.bit ++ zeros 2 ++ toLE 8 f.address.toNat

/-- Boot stops on the record (R373): an unrepaired failure, or a signature mismatch of the ERA ROM tables (block 19). -/
def State.bistStops (s : State) : Bool := match s.pwr.record with
  | none => false
  | some r => (r.2.2.any fun f => f.repair = 3) || r.2.1.any fun b => b.block = 19 && b.result = 1

/-! ### Counters (R272, R347, R348) -/

/-- The code of a port's state (R272). -/
def PortState.code : PortState → Nat
  | .down => 0 | .training => 1 | .keying => 2 | .up8 => 3 | .up4 => 4

/-- A port status record (R272). -/
def Port.record (p : Port) : Bytes :=
  toLE 1 p.state.code ++ toLE 1 p.version ++ toLE 1 p.peerRank ++ toLE 1 p.laneMap.toNat ++ toLE 4 (Nat.min p.retries 0xFFFFFFFF) ++
    toLE 8 p.peerId ++ toLE 4 p.latencyNs ++ toLE 4 (Nat.min p.fecUncorr 0xFFFFFFFF) ++ zeros 8

/-- The counters of a group; none for an unknown group or for group 2, whose entries are port records. -/
def DbgSt.group (d : DbgSt) : Nat → Option (List Nat)
  | 1 => some d.units | 3 => some d.memory | 4 => some d.roving | 5 => some d.mailbox | 6 => some d.trace | 7 => some d.power
  | _ => none

/-- BYTES of a group's block (R347). -/
def State.groupLen (s : State) (g : Nat) : Option Nat :=
  if g = 2 then some (16 + 32 * 20) else (s.dbg.group g).map fun l => 16 + 8 * l.length

/-- A group's block (R347); bit 63 of a counter is SAT. DEDUCED (log 98). -/
def State.groupBlock (s : State) (g stamp : Nat) : Bytes :=
  let head (n : Nat) := toLE 2 g ++ toLE 2 n ++ zeros 4 ++ toLE 8 stamp
  if g = 2 then head 20 ++ s.ports.toList.flatMap Port.record else
  match s.dbg.group g with
  | none => []
  | some l => head l.length ++ l.flatMap fun c => toLE 8 (if c = 2 ^ 63 - 1 then 2 ^ 64 - 1 else c)

/-! ### Hangs and dumps (R356 to R359) -/

/-- The dump of a declaration (R359): sections 0 to 8 are free values, since the spec gives their entries no layout.
DESIGN CHOICE (log 31). -/
def State.dumpBytes (s : State) (cause mbox : Nat) : Bytes :=
  let body : List Bytes := (List.range 9).map (fun i => Config.dumpSection s.freeCtr i) ++
    [(s.dbg.ordinary.drop (s.dbg.ordinary.length - 262144)).flatten ++ s.dbg.reserved.flatten]
  let padded := body.map (padTo 64)
  let offs := (List.range 10).map fun i => 128 + ((padded.take i).map List.length).sum
  let total := 128 + (padded.map List.length).sum
  toLE 4 0x504D5548 ++ toLE 2 1 ++ toLE 1 cause ++ toLE 1 mbox ++ toLE 8 Config.deviceId.toNat ++ toLE 6 s.tk.tick ++
    zeros 2 ++ toLE 4 s.cycle ++ zeros 4 ++ toLE 8 (stampOf (s.tk.tick - 1) 0xFFFF) ++ toLE 8 total ++
    ((offs.zip (body.map List.length)).flatMap fun e => toLE 4 e.1 ++ toLE 4 e.2) ++ padded.flatten

/-- A hang declared (R356, R357): event, HANG record, trigger, and a dump unless one is staged. -/
def State.declareHang (s : State) (cause mbox : Nat) : State :=
  let s := s.stage [.event 0xE002 (toLE 1 cause ++ toLE 1 mbox)]
  let d := s.dumpBytes cause mbox
  let s := ((s.traceRec 0x8009 21 (toLE 1 cause ++ toLE 1 mbox)).trigger 21 1 0).count 6 4 1
  if s.dbg.staged.isSome then
    { s with dbg.missed := Nat.min (s.dbg.missed + 1) 0xFFFF }.count 6 5 1
  else { s with dbg.staged := some d, dbg.cause := cause, freeCtr := s.freeCtr + 1 }.setSticky 1

/-! ### TRACE_CFG (R351) -/

/-- The range checks of TRACE_CFG's block (R351). -/
def traceCfgOk (b : Bytes) : Bool :=
  fieldAt b 0 4 = 0x47435254 && fieldAt b 4 2 = 1 && fieldAt b 6 2 ≤ 16384 && fieldAt b 6 2 % 64 = 0 && fieldAt b 8 1 ≤ 1 &&
  1 ≤ fieldAt b 9 1 && fieldAt b 9 1 ≤ 15 && zeroAt b 10 2 && fieldAt b 12 4 < 2 ^ 22 && zeroAt b 32 32

/-- TRACE_CFG at its commit (R351): the buffer is emptied, the configuration takes effect, a CONFIG record is written. -/
def State.setTrace (s : State) (b : Bytes) : State :=
  let s := { s with dbg := { s.dbg with
    capture := fieldAt b 8 1, cfg := b, ordinary := [], reserved := [], atTrigger := (0, 0), lost := 0, lostOrd := 0, lostRes := 0 } }
  (s.traceRec 0x0003 21 (toLE 4 s.tk.table.tableId ++ toLE 2 s.tickUs)).setSticky 0

/-! ### Halting (R367, R370, R390) -/

/-- The device halts with MODE 0b11 (R367, R370, R390). -/
def State.halt (s : State) : State :=
  { s.dropWork with glb := { s.glb with ready := false, mode := .halted, link0 := false, link1 := false } }

end Sys2Proof.Machine
end

