-- ==== Sys2Proof/Machine/Route.lean ====
section
/-! DEFINITION. Route maps, drains, held output and claims (R193 to R199). -/
namespace Sys2Proof.Machine

/-- The tenant entries of a map image (R193). -/
def routeEntries (b : Bytes) : Tbl RouteEntry :=
  (List.range 64).filterMap fun t =>
    let o := 64 + 32 * t
    if fieldAt b o 1 = 1 then some (t, ⟨fieldAt b (o + 1) 1, fieldAt b (o + 2) 1, fieldAt b (o + 8) 8, fieldAt b (o + 16) 8⟩) else none

/-- The park-store entries of a map image (R193). -/
def storeEntries (b : Bytes) : Tbl ParkStore :=
  (List.range 64).filterMap fun k =>
    let o := 2112 + 64 * k
    if fieldAt b o 1 = 1 then some (k, ⟨fieldAt b (o + 1) 1, fieldAt b (o + 2) 1, fieldAt b (o + 4) 4, fieldAt b (o + 8) 8,
      fieldAt b (o + 16) 8, BitVec.ofNat 64 (fieldAt b (o + 24) 8)⟩) else none

/-- The map that an image spells. -/
def routeMapOf (b : Bytes) : RouteMap := ⟨fieldAt b 8 4, fieldAt b 12 4, fieldAt b 16 4, routeEntries b, storeEntries b⟩

/-- The image of a map (R193, R260 item 7). -/
def RouteMap.image (m : RouteMap) : Bytes :=
  toLE 4 0x50545552 ++ toLE 2 1 ++ zeros 2 ++ toLE 4 m.epoch ++ toLE 4 m.drainMs ++ toLE 4 m.holdS ++ zeros 44 ++
    ((List.range 64).flatMap fun t => match Tb.get m.tenants t with
      | some e => [1, BitVec.ofNat 8 e.mailbox, BitVec.ofNat 8 e.store] ++ zeros 5 ++ toLE 8 e.areaOff ++ toLE 8 e.areaLen ++ zeros 8
      | none => zeros 32) ++
    (List.range 64).flatMap fun k => match Tb.get m.stores k with
      | some p => [1, BitVec.ofNat 8 p.kind, BitVec.ofNat 8 p.port, 0] ++ toLE 4 p.rate ++ toLE 8 p.base ++ toLE 8 p.len ++
          toLE 8 p.mask.toNat ++ zeros 32
      | none => zeros 64

/-- A tenant entry keeps R193, and its area lies inside its store (R194). -/
def routeEntryOk (b : Bytes) (stores : Tbl ParkStore) (t : Nat) : Bool :=
  let o := 64 + 32 * t
  let off := fieldAt b (o + 8) 8
  let len := fieldAt b (o + 16) 8
  if fieldAt b o 1 = 0 then zeroAt b o 32 else
  fieldAt b o 1 = 1 && fieldAt b (o + 1) 1 < 64 && zeroAt b (o + 3) 5 && zeroAt b (o + 24) 8 && off % 65536 = 0 && len % 65536 = 0 &&
  if fieldAt b (o + 2) 1 = 0xFF then off = 0 && len = 0 else
  match Tb.get stores (fieldAt b (o + 2) 1) with
  | some p => 65536 ≤ len && off + len ≤ p.len
  | none => false

/-- A park-store entry keeps R193. -/
def storeEntryOk (b : Bytes) (k : Nat) : Bool :=
  let o := 2112 + 64 * k
  if fieldAt b o 1 = 0 then zeroAt b o 64 else
  fieldAt b o 1 = 1 && fieldAt b (o + 1) 1 ≤ 1 && fieldAt b (o + 2) 1 ≤ 1 && zeroAt b (o + 3) 1 && 1 ≤ fieldAt b (o + 4) 4 &&
  fieldAt b (o + 4) 4 ≤ 4096 && fieldAt b (o + 8) 8 % 65536 = 0 && fieldAt b (o + 16) 8 % 65536 = 0 &&
  65536 ≤ fieldAt b (o + 16) 8 && fieldAt b (o + 24) 8 ≠ 0 && zeroAt b (o + 32) 32

/-- No two valid stores of one address space overlap (R194). -/
def storesApart : Tbl ParkStore → Bool
  | [] => true
  | (_, p) :: r => (r.all fun e => !(e.2.kind = p.kind && e.2.port = p.port && e.2.base < p.base + p.len && p.base < e.2.base + e.2.len)) &&
      storesApart r

/-- The range check of R194 on a map image. -/
def routeMapFields (b : Bytes) : Bool :=
  let st := storeEntries b
  fieldAt b 0 4 = 0x50545552 && fieldAt b 4 2 = 1 && zeroAt b 6 2 && fieldAt b 12 4 ≤ 10000 && fieldAt b 16 4 ≤ 86400 &&
  zeroAt b 20 44 && ((List.range 64).all (routeEntryOk b st)) && ((List.range 64).all (storeEntryOk b)) && storesApart st

/-- The mailbox that a map routes a tenant to. -/
def RouteMap.mbox (m : RouteMap) (t : Nat) : Option Nat := (Tb.get m.tenants t).map (·.mailbox)

/-- A new epoch activates (R195): live requests of unchanged routes take it, the others keep theirs until the drain
deadline. -/
def State.activateMap (s : State) (m : RouteMap) : State :=
  let old := s.ten.map
  let same (t : Nat) : Bool := old.mbox t = m.mbox t
  let tenantOf (q : Req) : Nat := ((Tb.get s.ss.sessions q.session).map (·.tenant)).getD 64
  let f (e : Nat × Req) : Nat × Req := if same (tenantOf e.2) then (e.1, { e.2 with epoch := m.epoch }) else e
  let reqs : Tbl Req := s.ss.reqs.map f
  let g (e : Nat × Session) : Nat × Session :=
    if e.2.reqId ≠ 0 && same e.2.tenant then (e.1, { e.2 with epoch := m.epoch, lastCommit := stampOf (s.tk.tick - 1) 0xFFFF }) else e
  let ses : Tbl Session := s.ss.sessions.map g
  let h (e : Nat × Tenant) : Nat × Tenant := if same e.1 then e else (e.1, { e.2 with routeSince := s.tk.tick })
  let tens : Tbl Tenant := s.ten.tenants.map h
  let drain := if m.drainMs = 0 then 50 else m.drainMs
  { s with ss := { s.ss with reqs := reqs, sessions := ses }
           ten := { s.ten with tenants := tens, map := m, old := some (old, s.tk.startUs + 1000 * drain, s.tk.tick), next := none } }

/-- Tile units that run under an entry of the old map that the new one removes or changes (R195). -/
def State.oldTransfers (s : State) : List UnitKind :=
  let all := s.work.queue ++ s.work.running.map (·.2)
  match s.ten.old with
  | none => []
  | some o => (all.filter fun u => match s.storeOf u.kind with
      | some k => u.key.stamp / 65536 < o.2.2 && Tb.get o.1.stores k ≠ Tb.get s.ten.map.stores k
      | none => false).map (·.kind)

/-- A drain under R196 is under way: a request or a transfer still runs under the old map (R194). DEDUCED (log 99). -/
def State.draining (s : State) : Bool :=
  s.ten.old.isSome && (s.ss.reqs.any (fun e => e.2.dci.isNone && e.2.epoch ≠ s.ten.map.epoch) || !s.oldTransfers.isEmpty)

/-- The drain deadline D (R195, R196): requests still under the old epoch stop as under a CANCEL of this tick, STALLED ones
are freed, transfers under old store entries fail with E_EPOCH. A request that a CANCEL stops already is drained at that CANCEL's acting
point. DEDUCED (log 137). -/
def State.drainEpoch (s : State) : State :=
  let f (e : Nat × Req) : Nat × Req :=
    if e.2.epoch ≠ s.ten.map.epoch && e.2.phase != .stalled
    then (e.1, { e.2 with cancel := some (e.2.cancel.getD (s.tk.tick, false)), drained := true }) else e
  let reqs : Tbl Req := s.ss.reqs.map f
  let stalled := s.ss.reqs.filter fun e =>
    e.2.epoch ≠ s.ten.map.epoch && e.2.phase = .stalled && e.2.cancel.isNone && !s.holdEnded e.1
  let old := s.oldTransfers
  let copies := (old.filterMap fun k => match k with | .parkTile c _ => some c | _ => none).dedup
  let revs := (old.filterMap fun k => match k with | .reviveTile r _ => some r | _ => none).dedup
  let s := { s with ss.reqs := reqs, ten.old := none }
  let s := stalled.foldl (fun s e => s.stage [.spool e.2.session 0x09 0 (toLE 4 e.1)] (some e.2.session)) s
  let s := copies.foldl (fun s c => s.stage (s.copyFailEffects c .eEpoch) ((Tb.get s.ss.copies c).map (·.session))) s
  revs.foldl (fun s r => s.stage (s.reviveFailEffects r .eEpoch) ((Tb.get s.ss.revivals r).map (·.session))) s

/-- The lowest place in a tenant's epoch-park area where a hank of a length fits (R196): hanks parked there and copies
ordered into it are taken. -/
def State.areaPlace (s : State) (e : RouteEntry) (len : Nat) : Option Nat :=
  match Tb.get s.ten.map.stores e.store with
  | none => none
  | some p =>
    let parked := s.ss.sessions.filterMap fun x =>
      if x.2.state == .parked && x.2.parkStore = e.store then
        some (x.2.parkOffset, hankLen (((s.readStore p x.2.parkOffset 65536).map fun h => fieldAt h 24 4).getD 0)) else none
    let copies := s.ss.copies.filterMap fun c => match c.2.for_ with
      | .epochPark st off => if st = e.store then some (off, c.2.hankLen) else none
      | .park st off _ _ _ => if st = e.store then some (off, c.2.hankLen) else none
      | _ => none
    let runs := (parked ++ copies).mergeSort fun a b => a.1 ≤ b.1
    let off := lowestGap runs e.areaOff len
    if off + len ≤ e.areaOff + e.areaLen then some off else none

/-- The thin park that an epoch drain orders (R196): none where the new map gives the tenant no area with room, or where PARK
itself would fail (R182, R183).
DEDUCED (log 32). -/
def State.epochPark (s : State) (idx : Nat) : List Effect :=
  match Tb.get s.ss.sessions idx with
  | none => []
  | some x => match Tb.get s.ten.map.tenants x.tenant with
    | none => []
    | some e =>
      let len := s.hankLenOf idx x false 48
      let may := e.store ≠ 0xFF && (s.currentSlot x.tenant).isSome && !s.copying idx && s.copyFits x &&
        ((Tb.get s.ten.map.stores e.store).map fun p => p.mask.getLsbD x.tenant).getD false
      match (if may then s.areaPlace e len else none) with
      | none => []
      | some off =>
        let h := s.ss.nextHank
        [.sessState idx .parking, .spool idx 0x0E 0 (payPark h 0 e.store off),
          .copyStart ⟨idx, .epochPark e.store off, none, false, len, h, len, 0, [], 0, none, [], 0, [], [], false⟩]

/-- CLAIM's blocks of a commit point (R198): at most 254 held records; the last block brings the held completion, the CLAIM
entry and CLAIM's own completion. DEDUCED (log 69). -/
def State.claimItems (s : State) : List Item :=
  s.ss.claims.filterMap fun (idx, j) =>
    match (Tb.get s.ss.sessions idx).bind (·.held) with
    | none => none
    | some h =>
      let n := Nat.min 254 (h.records.length - j.written)
      let last := decide (j.written + n = h.records.length)
      some ⟨none, 16, some idx, (List.range n).map (fun i => .heldRing idx (j.written + i)) ++
        (if last then (if h.completion.isSome then [.heldDone idx] else []) ++
            [.spool idx 0x13 0 (payClaim h.epoch j.mbox h.records.length), .complete j.cmd .ok (toLE 4 h.records.length)] else []) ++
        [.claimed idx n]⟩

/-- A held record written into the claimed ring, the producer index after it (R198, R262); it waits where some page of the ring or of its
index block has no translation, and behind records that wait so (R220). -/
def State.postHeld (s : State) (idx k stamp : Nat) : State :=
  match Tb.get s.ss.claims idx, (Tb.get s.ss.sessions idx).bind (·.held) with
  | some j, some h =>
    let b := toLE 8 stamp ++ (h.records.getD k []).drop 8
    let late (l : LateRing) : Bool := l.ringAddr = j.ring && l.indexAddr = j.indexAddr
    if s.ss.lateRings.any late || s.rangeAbsent .port0 j.ring (32 * j.count) || s.hostAbsent .port0 j.indexAddr then
      let first := !(s.ss.lateRings.any late)
      let s := { s with ss.lateRings := s.ss.lateRings ++ [⟨j.mbox, j.gen, j.ring, j.count, j.indexAddr, k, [b]⟩] }
      if first then (s.count 3 7 1).traceRec 0x8002 19 (toLE 1 j.mbox ++ zeros 7) else s
    else
    (s.writeHost .port0 (j.ring + 32 * (k % j.count)) b).writeHost .port0 j.indexAddr (toLE 4 ((k + 1) % 2 ^ 32))
  | _, _ => s

/-- The held completion published on the claiming mailbox (R198); discarded if the mailbox was reset since it accepted the command
(R241). -/
def State.postHeldDone (s : State) (idx stamp : Nat) : State :=
  match Tb.get s.ss.claims idx, ((Tb.get s.ss.sessions idx).bind (·.held)).bind (·.completion) with
  | some j, some c => s.postOwed j.mbox j.gen stamp c
  | _, _ => s

/-- CLAIM goes on, or is over: HELD is cleared (R198). -/
def State.advanceClaim (s : State) (idx n : Nat) : State :=
  match Tb.get s.ss.claims idx, (Tb.get s.ss.sessions idx).bind (·.held) with
  | some j, some h =>
    if j.written + n < h.records.length then { s with ss.claims := Tb.set s.ss.claims idx { j with written := j.written + n } }
    else { s with ss.claims := Tb.del s.ss.claims idx }.updSess idx fun x => { x with held := none }
  | _, _ => { s with ss.claims := Tb.del s.ss.claims idx }

end Sys2Proof.Machine
end

