-- ==== Sys2Proof/Machine/Apply.lean ====
section
/-! DEFINITION. What each staged effect does at its commit point, and the commit of one item (R45, R50). -/
namespace Sys2Proof.Machine

/-- The number that stands for no command: no accepted command ever has it. -/
def noCmd : Nat := 2 ^ 64

/-! ### Small changes that effects name -/

/-- SESSION_DESTROY at its commit (R167, R172): everything of the session is released, its index is FREE, its generation
rises, or the index is retired. DESIGN CHOICE (log 128). -/
def State.destroySession (s : State) (idx : Nat) : State :=
  match Tb.get s.ss.sessions idx with
  | none => s
  | some x =>
    let kept := (s.chkpt.bind fun k => Tb.get k.ends idx).map fun n => (x.tenant, s.segmentCharge idx * x.segments, n)
    let s := { s with chkpt := s.chkpt.map fun (k : Checkpoint) => { k with kept := k.kept ++ kept.toList } }
    let s := (s.releaseKv idx).dropSessionUnits idx
    let last := decide (x.gen = 2 ^ 40 - 1)
    { s with ss := { s.ss with
        sessions := Tb.del s.ss.sessions idx, rebuilds := Tb.del s.ss.rebuilds idx, reqs := Tb.del s.ss.reqs x.reqId
        gens := if last then s.ss.gens else Tb.set s.ss.gens idx (x.gen + 1)
        retired := if last then s.ss.retired ++ [idx] else s.ss.retired }
             grp.mirrors := Tb.del s.grp.mirrors idx }

/-- A session's state set; a park or an offer keeps the state before it and suspends a STALLED request's hold (R183). -/
def State.setSessState (s : State) (idx : Nat) (st : SessState) : State :=
  let s := if st = .parking then s.suspendStall idx else s
  s.updSess idx fun x => { x with state := st, prior := if st = .parking then x.state else x.prior }

/-- PURGE's deletes and its sweep (R129), which comes too where a prune of the same commit has taken the nodes already. -/
def State.startPurge (s : State) (k : RootKey) (node : Option Nat) (cmd : Nat) : State :=
  let top := match node with
    | some n => s.node k.tenant n
    | none => s.rootOf k
  let r := match top with
    | some n => s.purgeNodes k.tenant n.id
    | none => ([], s)
  let p := r.2.kv.nextPurge
  let s := { r.2 with kv.nextPurge := p + 1, kv.purges := Tb.set r.2.kv.purges p ⟨k.tenant, r.1, s.timeUs + 10000000, some cmd⟩ }
  s.addUnit (.sweep p) (some k.tenant) none (Nat.max 1 r.1.length) (stampOf s.tk.tick 0xFFFF) false

/-- RESUME at its commit (R154): the request goes on with the grammar's start configuration, or with none, and k = 0.
DEDUCED (log 48). -/
def State.resumeReq (s : State) (r m gen : Nat) (gid : Option Nat) (g : Option Grammar) (stamp : Nat) : State :=
  match Tb.get s.ss.reqs r with
  | none => s
  | some q =>
    let st := g.map (·.start)
    let s := s.updReq r fun q => { q with
      mbox := m, mboxGen := gen, grammarId := gid, grammar := g, gstate := st, phase := .decode, firstStep := true, heldReason := none
      stallUntilUs := none, stallLeftUs := none, unitStamp := stamp }
    s.updSess q.session fun x => { x with guesses := [], marks := [(x.hist.length, st)] }

/-- COMPACT at its commit (R228): CSEQ is fixed, and the shard's build is queued. DESIGN CHOICE (log 36). -/
def State.startCompact (s : State) (k cmd : Nat) (stamp : Nat) : State :=
  match Tb.get s.st.stores k with
  | none => s
  | some st =>
    let s := s.updStore k fun st => { st with compact := some (st.seq, some cmd, []) }
    s.addUnit (.compact k) (some st.tenant) none 1 stamp true

/-- A store and all that hangs on it freed (R221). -/
def State.dropStore (s : State) (k : Nat) : State :=
  let gs := s.st.groups.filter fun g => g.2.store != k
  let qs := s.st.queries.filter fun q => q.2.store != k
  let u : List UnitRec := s.work.queue.filter fun u => match u.kind with
    | .compact j => j != k
    | .searchPass g _ => Tb.has gs g
    | _ => true
  { s with st := { s.st with stores := Tb.del s.st.stores k, groups := gs, queries := qs }, work.queue := u }

/-- The group's or the device's SHRINK announced (R296, R300): survivors and C = L + 2. -/
def State.announceShrink (s : State) (surv : Word64) : State :=
  let c := s.tk.tick + 2
  let s := { s with grp.shrink := some (surv, c) }
  s.sendAll 0 (.shrink surv c)

/-- All ranks but one. -/
def maskWithout (n r : Nat) : Word64 := BitVec.ofNat 64 (2 ^ n - 1 - if r < n then 2 ^ r else 0)

/-- The effect of finished vault writes (R311): TENANT_CREATE and KEY_ROTATE complete. -/
def State.finishVault (s : State) (stamp : Nat) : State :=
  let done := s.sec.vaultJobs.filter (·.finished)
  let s := { s with sec.vaultJobs := s.sec.vaultJobs.filter fun j => !j.finished }
  done.foldl (fun s j =>
    let s := s.applyVault j.work
    match j.work, j.cmd with
    | .rotate t _ _, _ | .erase t _, _ =>
      (s.tenantSlots t).foldl (fun s e => if e.2.kind == .draining && !s.hasUnit (· == .reencrypt t e.1)
        then s.addUnit (.reencrypt t e.1) (some t) none 1 stamp false else s) s
    | _, _ => s) s

/-- SHUTDOWN at its commit (R374): mailboxes stop, copies drop their references, READY falls; SHUT is 3 without the BIST
flag, else the self-test runs. -/
def State.shutDown (s : State) (bist : Bool) : State :=
  let s := s.ss.copies.foldl (fun s c => s.dropCopy c.1) s
  let f (b : Mailbox) : Mailbox := { b with sqHead := b.sqTail, shadowDue := true, wdogFrom := none }
  { s with mbx := s.mbx.map f, glb.ready := false, pwr.shut := if bist then 2 else 3, tk.noUnits := true
           ss := { s.ss with sessions := [], reqs := [], copies := [], revivals := [], rebuilds := [], srcs := [], dsts := [], claims := [] }
           kv := { s.kv with pages := [], nodes := [], edges := [], purges := [] }
           ten := { s.ten with tenants := [], grants := [] }
           img := { s.img with models := [], adapters := [], adapterCurrent := [], grammars := [], vocabs := [], exchanges := [] }
           st := { s.st with stores := [], queries := [], groups := [] }
           sec := { s.sec with slots := [] } }

/-- BYTES of the staged dump (R358). -/
def State.dumpLen (s : State) : Nat := (s.dbg.staged.map List.length).getD 0

/-- Repair entries of the BIST record marked as applied (R376). -/
def State.markRepairs (s : State) : State :=
  let f (e : BistFault) : BistFault := if e.repair = 0 then { e with repair := 1 } else e
  { s with pwr.record := s.pwr.record.map fun r => (r.1, r.2.1, r.2.2.map f) }

/-! ### DCI work (R268, R269) -/

/-- The number of a session's DCI turn in the request table: never a REQ_ID, which is 32 bits. -/
def dciReq (idx : Nat) : Nat := 2 ^ 32 * (idx + 1)

/-- The page indices that a DCI turn of so many more positions reserves (R130). -/
def State.dciPages (s : State) (idx more : Nat) : List (List Nat) :=
  match Tb.get s.ss.sessions idx with
  | none => []
  | some x => match s.modelOf x.model with
    | none => []
    | some m => reserveIndices m.2.layers x.psize x.hist.length (Nat.min (x.hist.length + more) m.2.arch.maxPos) 0

/-- A DCI turn: INPUT with no token to make, or STEP with one. -/
def dciTurn (s : State) (tag idx count steps : Nat) (p : Sampling.Params) : Req :=
  { mbox := 0, mboxGen := 2 ^ 64, tag := tag, session := idx, maxNew := steps, specWidth := 0, stops := [], params := p
    adapter := none, grammarId := none, grammar := none, gstate := none, slice := 64, stallHoldMs := 0, condenseAt := 0
    noTree := false, ringAddr := 0, ringCount := 64, indexAddr := 0, producer := 0, consumer := 0, epoch := s.ten.map.epoch
    phase := .text, text := [], textTokens := [], inputGlobals := [], startLen := 0, inputEnd := 0, nextSlice := 64
    firstStep := true, out := [], heldReason := none, cancel := none, drained := false, stallUntilUs := none, stallLeftUs := none
    ringWaitUs := none, condensedRun := false, replayed := false, hostProducer := 0, stateOf := none, resPages := s.dciPages idx (count + steps)
    resSpool := 4096 + 8 * (count + steps), treeLive := false, unitStamp := 0, dci := some tag, delayed := [] }

/-- A DCI completion written at the tail of its queue (R269). -/
def State.writeDci (s : State) (b : Bytes) : State :=
  let d := s.dci
  let s := s.writeHost .port0 (d.cqBase.toNat + 32 * d.cqTail) b
  { s with dci.cqTail := (d.cqTail + 1) % 2 ^ d.cqLog2.toNat }

/-- The DCI completion queue waits for its translation (R220). -/
def State.dciWaits (s : State) : Bool := s.rangeAbsent .port0 s.dci.cqBase.toNat (32 * 2 ^ s.dci.cqLog2.toNat)

/-- A DCI completion written to the DCI completion queue (R269), or kept for its translation (R220). -/
def State.postDci (s : State) (stamp tag op : Nat) (st : Status) (res : Bytes) : State :=
  let b := toLE 4 tag ++ toLE 1 op ++ toLE 1 st.code ++ zeros 2 ++ toLE 8 stamp ++ fitTo 16 res
  if s.dci.delayed.isEmpty && !s.dciWaits then s.writeDci b else
  let first := s.dci.delayed.isEmpty
  let s := { s with dci.delayed := s.dci.delayed ++ [b] }
  if first then (s.count 3 7 1).traceRec 0x8002 19 (zeros 8) else s

/-! ### Effects -/

/-- The image tables' changes (R89 to R102, R141 to R149). -/
def State.applyImage (s : State) (e : Effect) : State :=
  match e with
  | .modelLoad k m => s.startLoad k m
  | .modelRetire k ms cmd => s.retireModel k ms cmd
  | .modelActive k => s.activateModel k
  | .modelFree k => s.freeModel k
  | .exchange x =>
    let s := s.putNewExchange x
    (match x.what with | .model _ => s | _ => s.reportLoadedOf x.digest)
  | .adapterAdd a => s.addAdapter a
  | .adapterRetire i v => s.retireAdapterVer i v
  | .adapterFree i v => s.freeAdapterVer i v
  | .grammarSet i (some g) => { s with img.grammars := Tb.set s.img.grammars i g }
  | .grammarSet i none => { s with img.grammars := Tb.del s.img.grammars i }
  | .vocabSet i (some v) => { s with img.vocabs := Tb.set s.img.vocabs i v }
  | .vocabSet i none => { s with img.vocabs := Tb.del s.img.vocabs i }
  | _ => s

/-- The session table's changes (R167 to R192, R198, R199). -/
def State.applySession (s : State) (e : Effect) (stamp : Nat) : State :=
  match e with
  | .sessCreate i x => { s with ss.sessions := Tb.set s.ss.sessions i x, ss.gens := Tb.set s.ss.gens i x.gen }
  | .sessDestroy i => s.destroySession i
  | .sessState i st => s.setSessState i st
  | .copyStart c => s.startCopy c stamp
  | .copyTile c => s.copyTileDone c
  | .copyFail c _ => s.copyFailed c
  | .reviveStart r => s.startRevival r stamp
  | .reviveTile r t d => s.revivalTile r t d stamp
  | .reviveFail r _ => s.revivalFailed r
  | .rebuildFail i g => s.rebuildFailed i g
  | .handoffOffer i h => s.startOffer i h
  | .handoffAccept i t r => s.acceptHandoff i t r
  | .handoffRefuse i _ _ => s.freeAccepting i
  | .ownerQuery i c => s.updDst i fun d => { d with ask := some (c, s.timeUs + 100000) }
  | .relinquish i h => s.giveAway i h
  | .revert h => s.revertOffer h
  | .ownNow h => s.ownSession h
  | .freeDst h => s.freeAccepting h
  | .claimStart i c m g r n x => { s with ss.claims := Tb.set s.ss.claims i ⟨c, m, g, r, n, x, 0⟩ }
  | .claimed i n => s.advanceClaim i n
  | .heldDrop i => s.updSess i fun x => { x with held := none }
  | .retract i n => s.cutOrRelease i n
  | .sessionMove i => s.moveSession i
  | .oneShard c i g x rb =>
    let s := { s with ss.sessions := Tb.set s.ss.sessions i x, ss.gens := Tb.set s.ss.gens i g }
    s.startRebuild i { rb with cmd := some c } stamp
  | _ => s

/-- The request table's and the units' changes (R126, R133 to R154). -/
def State.applyRequest (s : State) (e : Effect) (stamp : Nat) : State :=
  match e with
  | .submit i q t => s.applySubmit i q t stamp
  | .resume r m n gid g => s.resumeReq r m n gid g stamp
  | .tokenized r n t => s.applyTokenized r n t stamp
  | .lookedUp i ns ps u => s.applyLookedUp i ns ps u stamp
  | .prefilled i u kv => s.applyPrefilled i u kv stamp
  | .decoded r a kv n rs g gs => s.applyDecoded r a kv n rs g gs stamp
  | .stalled r => s.applyStalled r
  | .dciInput tag i ts => s.applySubmit (dciReq i) (dciTurn s tag i ts.length 0 ⟨0, none, none, none⟩) ts stamp
  | .dciStep tag i p => s.applySubmit (dciReq i) (dciTurn s tag i 0 1 p) [] stamp
  | _ => s

/-- The retrieval stores' changes (R221 to R235). -/
def State.applyStore (s : State) (e : Effect) (stamp : Nat) : State :=
  match e with
  | .storeCreate k st => { s with st.stores := Tb.set s.st.stores k st }
  | .storeDestroy k => s.dropStore k
  | .storeAppend k es => s.appendSide k es
  | .queryStart k q => s.startQuery k q stamp
  | .queryEnd k => s.endQuery k
  | .compactStart k c => s.startCompact k c stamp
  | .compactDone k => s.finishCompact k
  | .passDone g p tops => s.commitPass g p tops
  | _ => s

/-- Tenants, keys, schedules, shapers, the ledger and trace (R33, R193, R204, R282 to R286, R311 to R318, R351, R361). -/
def State.applyConfig (s : State) (e : Effect) (stamp : Nat) : State :=
  match e with
  | .grant m g => { s with ten.grants := Tb.set s.ten.grants m g }
  | .vaultStart j =>
    let gone : Tbl Grant := match j.work, (j.cmd.bind fun c => Tb.get s.cmds c) with
      | .create _ _, some c => if c.mbox = 0 then s.ten.grants else Tb.del s.ten.grants c.mbox
      | _, _ => s.ten.grants
    { s.holdSlot j.work with sec.vaultJobs := s.sec.vaultJobs ++ [j], ten.grants := gone }
  | .vaultDone => s.finishVault stamp
  | .installKey k ks used =>
    { s with sec.slots := Tb.set s.sec.slots k ks, sec.releases := s.sec.releases.filter fun r => r.id ≠ used }
  | .releaseKey k => { s with sec.releases := keepReleases (s.sec.releases ++ [k]) }
  | .schedStage t d => { s with tk.staged := some ⟨t, d, none⟩ }
  | .gateStage p g => { s with ports := s.ports.set (Fin.ofNat 20 p) { s.ports[Fin.ofNat 20 p] with stagedGates := some g } }
  | .tenantShaper t r b full => { s with ten.tenants := Tb.upd s.ten.tenants t fun x =>
      { x with rate := r, burst := b, bucket := if full then (b : Int) * 1000000 else 0 } }
  | .linkShaper p tc r b =>
    let f (x : LinkShaper) : LinkShaper := { x with rate := r, burst := b, bucket := Nat.min x.bucket (b * 256) }
    { s with ports := s.ports.set (Fin.ofNat 20 p) { s.ports[Fin.ofNat 20 p] with shapers := (s.ports[Fin.ofNat 20 p]).shapers.modify tc f } }
  | .energySet w => s.setEnergy w
  | .traceCfg b => s.setTrace b
  | .traceTrigger c => s.trigger 17 0 c
  | .routeMap m => { s with ten.next := some (m, s.tk.tick + 1) }
  | .purge k n c => s.startPurge k n c
  | .prune t => s.prune t
  | .sweep p => s.sweepPurge p
  | .reencrypt t k => s.reencrypt t k
  | .reshard k c d => s.reshardChunk k c d
  | .bistUpkeep => s.markRepairs
  | .joinStart d c => s.startJoin d c
  | .shrinkStart r c =>
    { s with grp.shrinkCmd := some (c, r, s.timeUs + 60000000), grp.shrinkUntilUs := s.timeUs + 60000000 }.announceShrink
      (maskWithout s.grp.n r)
  | _ => s

/-- Checkpoints, restores, and what is written to host memory in the commit window (R324, R334, R347, R358). -/
def State.applyOutput (s : State) (e : Effect) (stamp : Nat) : State :=
  match e with
  | .hostWrite sp a d => s.writeHost sp a d
  | .devWrite a d => { s with dev := Memory.writeN s.dev a d }
  | .chan m c v => s.updMbx (mboxFin m) fun b => { b with chan := c, nci := v }
  | .attest sp a k n rid priv subj _ =>
    let r := s.report k rid stamp n subj (if priv = 0 then [] else Ecc.pubBytes priv)
    r.2.writeHost sp a r.1
  | .countersRead g sp a => s.writeHost sp a (s.groupBlock g stamp)
  | .hangDump _ a _ c => { s with dbg.dumpCmd := some (c, s.timeUs + 10000000, a) }
  | .checkpointStart c st o l ra rl =>
    s.startCheckpoint (some c) st o l ra rl (if s.grp.n ≤ 1 then s.tk.tick else s.tk.tick + 2)
  | .chkptTile _ => s.chkptTileDone
  | .chkptOrder => s.orderCheckpoint stamp
  | .chkptFail _ => s.failCheckpoint
  | .reelWrite => s.writeReel stamp
  | .restoreStart c r by_ => s.startRestore (if c = noCmd then none else some c) r by_
  | .restoreRecord i => s.restoreRecord i
  | .restoreEnd => s.endRestore
  | .shutdown b _ => s.shutDown b
  | _ => s

/-- The part of an effect's meaning that is no event: each constructor has its place in one of the tables above. -/
def State.applyPlain (s : State) (e : Effect) (stamp : Nat) : State :=
  (((((s.applyImage e).applySession e stamp).applyRequest e stamp).applyStore e stamp).applyConfig e stamp).applyOutput e stamp

/-- The class of an effect in the order of R45 and R50: events in their order (0 to 3), other changes before them (4) or
after them (5). DEDUCED (log 16). -/
def Effect.rank : Effect → Nat
  | .ring .. => 0 | .heldRing .. => 0
  | .complete .. => 1 | .reqDone .. => 1 | .event .. => 1 | .heldDone .. => 1 | .dciComplete .. => 1
  | .spool .. => 2
  | .send .. => 3
  | .copyStart .. => 5 | .relinquish .. => 5 | .claimed .. => 5 | .shutdown .. => 5
  | _ => 4

/-- The effect is an externally visible event (R50). -/
def Effect.isEvent (e : Effect) : Bool := e.rank < 4

/-- The event is this device's own: in a group the sampling device alone publishes what a session's units make (R104).
DESIGN CHOICE (log 20). -/
def State.ownEvent (s : State) (session : Option Nat) (e : Effect) : Bool :=
  let mine (i : Option Nat) : Bool := match i with | some i => s.samples i | none => true
  match e with
  | .ring r .. => mine ((Tb.get s.ss.reqs r).map (·.session))
  | .reqDone r .. => mine ((Tb.get s.ss.reqs r).map (·.session))
  | .spool i .. => s.samples i
  | .complete c .. => Tb.has s.cmds c
  | .heldRing i _ => ((Tb.get s.ss.claims i).map fun j => j.cmd != noCmd).getD false
  | .heldDone i => ((Tb.get s.ss.claims i).map fun j => j.cmd != noCmd).getD false
  | .send _ (.handoff _) => mine session
  | .send _ b => b.committed
  | _ => true

/-- An entry of a spool at its commit (R174): a request's END ends it, a STALL_FREE frees a STALLED
request, a DISCARD cuts the history (R165). -/
def State.applySpool (s : State) (idx ty fl : Nat) (pay : Bytes) (stamp : Nat) : State :=
  if ty = 0x07 && pay.length = 5 then s.endReq (fieldAt pay 0 4) (fieldAt pay 4 1) stamp else
  let s := s.appendSpool idx ty fl stamp pay
  if ty = 0x0A then s.cutOrRelease idx (fieldAt pay 0 4) else
  if ty = 0x09 then
    (match Tb.get s.ss.reqs (fieldAt pay 0 4) with
      | some q => if q.phase = .stalled && q.session = idx then s.freeReq (fieldAt pay 0 4) else s
      | none => s)
  else s

/-- An event published with its stamp (R45, R50); one that is another device's leaves its trace in the state alone. -/
def State.publish (s : State) (e : Effect) (stamp : Nat) (own : Bool) : State :=
  match e with
  | .ring r p t i => s.postRing r stamp p t i
  | .reqDone r st w => s.postReqDone r stamp st w
  | .spool i ty fl pay => s.applySpool i ty fl pay stamp
  | .complete c st res => s.finishCmd c stamp st res
  | .event c res => s.postEvent stamp c res
  | .send d b => if !b.committed then s.sendMsg d 0 b else if own then s.sendMsg d stamp ((s.verdictNow d b).stamped stamp) else s
  | .heldRing i k => if own then s.postHeld i k stamp else s
  | .heldDone i => if own then s.postHeldDone i stamp else s
  | .dciComplete t op st res => s.postDci stamp t op st res
  | _ => s

/-- A unit's completion of a request whose accepted CANCEL carries DISCARD_TURN brings the entries of R165 too; FIRST_SEQ is the
store's next sequence at the commit (R225); SHUTDOWN ends every other command (R374). DEDUCED (log 22). -/
def State.withDiscard (s : State) (effs : List Effect) : List Effect :=
  if effs.any fun e => match e with | .spool _ ty .. => ty = 0x0A | _ => false then effs else
  effs.flatMap fun e => match e with
    | .reqDone r st w => .reqDone r st w :: ((Tb.get s.ss.reqs r).map fun q =>
        if w = 5 && !q.cancelActs s.tk.tick then [] else s.discardEntries q).getD []
    | .complete c .ok res => match effs.findSome? fun e => match e with | .storeAppend k _ => some k | _ => none with
      | some k => [.complete c .ok (toLE 8 (((Tb.get s.st.stores k).map (·.seq)).getD 0 + 1))]
      | none => [.complete c .ok res]
    | .shutdown b i => (s.cmds.filter fun c => c.1 ≠ i).map (fun c => (.complete c.1 .eState [] : Effect)) ++ [.shutdown b i]
    | e => [e]

/-- Checks of a command that are made at its commit (R183 steps 5 and 6, R358): an item whose check fails becomes the failing
completion alone. -/
def State.recheck (s : State) (effs : List Effect) : List Effect :=
  let bad : Option (Option Nat × Status) := effs.findSome? fun e => match e with
    | .copyStart c => match c.for_, Tb.get s.ss.sessions c.session with
      | .park .., some x =>
        if c.limit < s.hankLenOf c.session x c.full 48 then some (c.cmd, .eLength)
        else if !s.copyFits x || !s.spoolOpens c.session x 48 then some (c.cmd, .eQuota) else none
      | _, _ => none
    | .hangDump _ _ l c => if l < s.dumpLen then some (some c, .eLength) else none
    | _ => none
  match bad with
  | some (some c, st) => [.complete c st []]
  | some (none, _) => []
  | none => s.withDiscard effs

/-- The last record of a step carries LAST where the request's CANCEL acts at this commit point (R164). -/
def State.withLast (s : State) (effs : List Effect) : List Effect :=
  let rings := effs.filterMap fun e => match e with | .ring r p .. => some (r, p) | _ => none
  match rings.getLast? with
  | none => effs
  | some (r, p) => match Tb.get s.ss.reqs r with
    | none => effs
    | some q =>
      if !q.cancelActs s.tk.tick || effs.any (fun e => match e with | .reqDone .. => true | _ => false) then effs else
      effs.map fun e => match e with
        | .ring r' p' t i => if r' = r ∧ p' = p then (.ring r' p' t (i ||| 2 ^ 28) : Effect) else e
        | e => e

/-- What an item comes to at its commit. -/
def State.finalEffs (s : State) (i : Item) : List Effect := s.withLast (s.recheck i.effs)

/-- Own events of an item (R51). -/
def State.eventCount (s : State) (i : Item) : Nat := ((s.finalEffs i).filter fun e => e.isEvent && s.ownEvent i.session e).length

/-- One event published; its seq is counted if it is this device's. DESIGN CHOICE (log 20). -/
def publishStep (session : Option Nat) (p : State × Nat) (e : Effect) : State × Nat :=
  let own := p.1.ownEvent session e
  (p.1.publish e (if own then stampOf p.1.tk.tick p.2 else stampOf p.1.tk.tick 0) own, if own then p.2 + 1 else p.2)

/-- LAST_COMMIT of the session that an item changes (R169). -/
def State.touch (s : State) (idx : Option Nat) (stamp : Nat) : State :=
  match idx with
  | some i => s.updSess i fun x => { x with lastCommit := stamp }
  | none => s

/-- One item committed with the seq values from `seq` on (R45, R50): changes that are no events first, then its events in
the order of R45, then what follows them. The answer is the next seq. DEDUCED (log 16). -/
def State.applyItem (s : State) (seq : Nat) (i : Item) : State × Nat :=
  let effs := s.finalEffs i
  let own := effs.any fun e => e.isEvent && s.ownEvent i.session e
  let stamp := stampOf s.tk.tick (if own then seq else 0xFFFF)
  let plain := effs.filter fun e => e.rank = 4
  let events := (effs.filter (·.isEvent)).mergeSort fun a b => a.rank ≤ b.rank
  let late := effs.filter fun e => e.rank = 5
  let s := plain.foldl (fun s e => s.applyPlain e stamp) s
  let s := if plain.isEmpty then s else s.touch i.session stamp
  let p := events.foldl (publishStep i.session) (s, seq)
  (late.foldl (fun s e => s.applyPlain e stamp) p.1, p.2)

/-- What Steward's checks see (R247): the last commit point's state with the effects of the commands accepted in this tick. -/
def State.view (s : State) : State :=
  ((s.work.steward.flatMap (·.effs)).filter fun e => !e.isEvent && match e with
    | .hostWrite .. => false | .attest .. => false | .countersRead .. => false | .reelWrite => false | .accepted .. => false
    | .joinStart .. => false | _ => true).foldl (fun s e => s.applyPlain e (stampOf s.tk.tick 0xFFFF)) s

end Sys2Proof.Machine
end

