-- ==== Sys2Proof/Machine/Operands.lean ====
section
/-! DEFINITION. The operand forms of host commands: fields of the 64 bytes, the command table of R258 as far as R255
needs it, the checks that are common to all commands, and what a command's own checks are given. -/
namespace Sys2Proof.Machine

/-- The "Mailbox" column of R258: a routed command's mailbox is one of its own checks (R197). -/
inductive MboxCol where
  | any | zero | route | granted
  deriving DecidableEq, Repr

/-- What R255 needs of a command's row in R258 and R253: opcode, FLAGS bits, listed bytes, first NCI version, mailbox. -/
structure CmdSpec where
  op : Nat
  flags : Nat
  used : List (Nat × Nat)
  since : Nat
  mbox : MboxCol

/-- The rows of R258 for groups 0x01 and 0x02. -/
def specs12 : List CmdSpec := [
  ⟨0x0101, 0, [(8, 1), (9, 1)], 0x10, .any⟩, ⟨0x0102, 0, [], 0x10, .any⟩, ⟨0x0103, 0, [], 0x10, .any⟩,
  ⟨0x0104, 0, [(8, 2), (16, 8), (24, 8), (32, 4)], 0x10, .any⟩,
  ⟨0x0201, 7, [(8, 1), (10, 2), (16, 8), (24, 8), (32, 8)], 0x10, .zero⟩,
  ⟨0x0202, 0, [(8, 1), (12, 4)], 0x10, .zero⟩,
  ⟨0x0203, 4, [(8, 2), (10, 2), (16, 8), (24, 8)], 0x10, .zero⟩,
  ⟨0x0204, 0, [(8, 2), (10, 2)], 0x10, .zero⟩,
  ⟨0x0205, 4, [(8, 2), (10, 2), (16, 8), (24, 8)], 0x10, .zero⟩,
  ⟨0x0206, 4, [(8, 1), (10, 2), (16, 8), (24, 8)], 0x10, .zero⟩]

/-- The rows of R258 for group 0x03. -/
def specs3 : List CmdSpec := [
  ⟨0x0301, 1, [(8, 1), (9, 1), (16, 8)], 0x10, .route⟩, ⟨0x0302, 0, [(8, 8)], 0x10, .route⟩,
  ⟨0x0303, 1, [(8, 8), (16, 1), (17, 1), (24, 8), (32, 8), (40, 8)], 0x10, .route⟩,
  ⟨0x0304, 0, [(8, 8), (16, 1), (17, 1), (18, 1), (20, 2), (24, 8), (32, 8)], 0x10, .route⟩,
  ⟨0x0305, 0, [(8, 8), (16, 8), (24, 1), (28, 4)], 0x10, .route⟩,
  ⟨0x0306, 0, [(8, 8), (16, 1), (17, 1)], 0x10, .zero⟩, ⟨0x0307, 0, [(8, 8)], 0x13, .zero⟩,
  ⟨0x0308, 0, [(8, 8), (16, 8), (24, 1), (32, 8), (40, 8)], 0x13, .zero⟩,
  ⟨0x0309, 0, [(8, 8), (16, 8), (24, 4), (32, 8)], 0x12, .route⟩,
  ⟨0x030A, 1, [(8, 1), (12, 4), (16, 4), (24, 8)], 0x13, .route⟩]

/-- The rows of R258 for groups 0x04 and 0x05. -/
def specs45 : List CmdSpec := [
  ⟨0x0401, 0, [(8, 8), (16, 8), (24, 4)], 0x10, .route⟩, ⟨0x0402, 1, [(8, 4)], 0x10, .route⟩,
  ⟨0x0403, 1, [(8, 4), (12, 2)], 0x10, .route⟩, ⟨0x0404, 0, [(8, 8), (16, 4)], 0x13, .route⟩,
  ⟨0x0501, 1, [(8, 1), (9, 1), (10, 1), (12, 2), (14, 2), (16, 8), (24, 8), (32, 8)], 0x11, .route⟩,
  ⟨0x0502, 0, [(8, 1), (12, 4), (16, 8), (24, 8)], 0x11, .route⟩,
  ⟨0x0503, 0, [(8, 1), (12, 4), (16, 8), (24, 8)], 0x11, .route⟩,
  ⟨0x0504, 0, [(8, 1), (12, 4), (16, 8), (24, 8), (32, 8), (40, 8), (48, 4)], 0x11, .route⟩,
  ⟨0x0505, 0, [(8, 1)], 0x11, .route⟩]

/-- The rows of R258 for groups 0x06 to 0x08. -/
def specs68 : List CmdSpec := [
  ⟨0x0601, 0, [(8, 1), (16, 8), (24, 8), (32, 8), (40, 8)], 0x11, .zero⟩,
  ⟨0x0602, 1, [(8, 1), (12, 4), (16, 8), (24, 8), (32, 8)], 0x11, .zero⟩,
  ⟨0x0603, 0, [(16, 8), (24, 8)], 0x11, .zero⟩, ⟨0x0701, 3, [(8, 1), (9, 1), (16, 32)], 0x10, .granted⟩,
  ⟨0x0702, 0, [(8, 8), (16, 32), (48, 4)], 0x10, .any⟩, ⟨0x0703, 0, [(8, 1), (9, 1)], 0x10, .route⟩,
  ⟨0x0801, 0, [(16, 8), (24, 8)], 0x10, .zero⟩, ⟨0x0802, 0, [(8, 1), (16, 8), (24, 8)], 0x10, .zero⟩,
  ⟨0x0803, 1, [(8, 1), (9, 1), (10, 1), (12, 4), (16, 4)], 0x10, .zero⟩, ⟨0x0804, 0, [(8, 4)], 0x10, .zero⟩]

/-- The rows of R258 for groups 0x09 to 0x0F. -/
def specs9F : List CmdSpec := [
  ⟨0x0901, 0, [(16, 8), (24, 8)], 0x12, .zero⟩, ⟨0x0902, 0, [(8, 4)], 0x12, .zero⟩,
  ⟨0x0903, 0, [(16, 8), (24, 8)], 0x12, .zero⟩, ⟨0x0904, 0, [(8, 2), (16, 8), (24, 8)], 0x12, .zero⟩,
  ⟨0x0A01, 0, [(16, 8), (24, 8)], 0x12, .zero⟩, ⟨0x0A02, 0, [(8, 1)], 0x12, .zero⟩,
  ⟨0x0A03, 0, [(16, 8), (24, 8)], 0x12, .zero⟩, ⟨0x0F01, 1, [], 0x10, .zero⟩,
  ⟨0x0F02, 0, [(16, 8), (24, 8)], 0x10, .zero⟩]

/-- The command table (R253, R258). -/
def specs : List CmdSpec := specs12 ++ specs3 ++ specs45 ++ specs68 ++ specs9F

/-- The row of an opcode; none is an unknown opcode (R255 step 1). -/
def specOf (op : Nat) : Option CmdSpec := specs.find? fun k => k.op = op

/-- No byte of PARAMS that the row does not list is set, and no FLAGS bit (R255 step 6). -/
def CmdSpec.clean (k : CmdSpec) (c : Cmd) : Bool :=
  (Cmd.fl c) &&& (0xFFFF - k.flags) = 0 &&
    (List.range 56).all fun i => fld c (8 + i) 1 = 0 || k.used.any fun u => u.1 ≤ 8 + i && 8 + i < u.1 + u.2

/-- The lifecycle table's "Commands" column (R307). -/
def admits (l : Lifecycle) (op flags : Nat) : Bool :=
  let g := op / 256
  let mfg := !([0x0703, 0x0305, 0x0306, 0x0307, 0x0308].contains op) && g ≠ 0x06 && g ≠ 0x0A &&
    !(op = 0x0701 && flags.testBit 1)
  match l with
  | .blank => false | .scrapped => false | .field => true
  | .provisioned => g = 0x01 || op = 0x0702 || g = 0x09 || g = 0x0F
  | .manufacture => mfg && op ≠ 0x0702
  | .rma => mfg

/-- The answer of a check: effects, or the status and RESULT of the failing completion. -/
abbrev Checked := Except (Status × Bytes)

/-- A check: fail with a status where the condition does not hold. -/
def must (st : Status) (b : Bool) : Checked Unit := if b then .ok () else .error (st, [])

/-- A value that must exist. -/
def want (st : Status) (o : Option α) : Checked α := match o with | some a => .ok a | none => .error (st, [])

/-- A check that answers with the status it found, if any. -/
def refuse (o : Option Status) : Checked Unit := match o with | some st => .error (st, []) | none => .ok ()

/-- A check that answers a status alone. -/
def lift (e : Except Status α) : Checked α := match e with | .ok a => .ok a | .error st => .error (st, [])

/-- Steps 1 to 5 of R255 and the reserved part of step 6, on what Steward sees (R247), for a command that is looked up
under the row `k`. -/
def State.common (v : State) (m : Fin 64) (k : CmdSpec) (c : Cmd) : Checked Unit := do
  let b := v.mbx[m]
  must .eRange (Cmd.op c = k.op)
  must .eState (b.chan == .opened || k.op = 0x0101 || k.op = 0x0102 || k.op = 0x0104)
  must .eVersion (k.since ≤ b.nci || k.op = 0x0101 || k.op = 0x0102 || k.op = 0x0104)
  must .eLifecycle (admits v.glb.lifecycle k.op (Cmd.fl c))
  must .eAuth (match k.mbox with
    | .any => true | .route => true | .zero => m.val = 0
    | .granted => m.val = 0 || (!(Cmd.fl c).testBit 0 &&
        ((Tb.get v.ten.grants m.val).map fun g => decide (g.tenant = fld c 8 1)).getD false))
  must .eRange (k.clean c)

/-- What a command's own checks are given: its mailbox, its number (`noCmd` on a member that did not accept it), the
number that the accepting member gives a query, a free value, the command, the adapter versions that are current as of
the start of the tick (R100), and a reader of the memories outside the device. -/
structure Ctx where
  m : Nat
  id : Nat
  num : Nat
  draw : BitVec 512
  c : Cmd
  cur : Tbl Nat
  vers : List (Nat × Nat)
  err : Status
  rd : HostSpace → Nat → Nat → Option Bytes

/-- The command was accepted by another member (R168, R292). -/
def Ctx.remote (x : Ctx) : Bool := x.id = noCmd

/-- A field of the command. -/
def Ctx.f (x : Ctx) (o k : Nat) : Nat := fld x.c o k

/-- A FLAGS bit. -/
def Ctx.flag (x : Ctx) (i : Nat) : Bool := (Cmd.fl x.c).testBit i

/-- A buffer of the issuing function (R255 step 7). DEDUCED (log 105). -/
def Ctx.read (x : Ctx) (a n : Nat) : Checked Bytes := want x.err (x.rd .port0 a n)

/-- The session that a handle names (R167): E_NOENT where it is not current. -/
def State.handle (v : State) (h : Nat) : Checked (Nat × Session) := want .eNoent (v.sessOf h)

/-- Tenant routing (R197): E_EPOCH where the current map does not route the tenant to the issuing mailbox. -/
def State.routed (v : State) (x : Ctx) (t : Nat) : Checked Unit :=
  must .eEpoch (x.remote || v.routeOf t = some x.m)

/-- The completion of the command itself at its accepting commit (R247). -/
def Ctx.done (x : Ctx) (res : Bytes) : Effect := .complete x.id .ok res

/-- The reader of the accepting device. -/
def State.reader (s : State) (sp : HostSpace) (a n : Nat) : Option Bytes :=
  if n = 0 then some [] else if s.rangeAbsent sp a n then none else s.readHost sp a n

end Sys2Proof.Machine
end

