-- ==== Sys2Proof/Machine/Nci.lean ====
section
/-! DEFINITION. How Steward serves a mailbox: fetching a command, its checks, its acceptance and what a group is told of
it (R168, R244 to R247, R255, R292). -/
namespace Sys2Proof.Machine

/-! ### What goes to the other members -/

/-- Commands whose state is held group-wide and that go by the exchange of R92 (R292), and RESTORE (R336). -/
def exchangeOp (c : Cmd) : Bool :=
  let op := Cmd.op c
  op = 0x0701 || op = 0x0A03 || op = 0x0602 || (op = 0x0803 && fld c 8 1 = 0) || op = 0x0202 || op = 0x0204 || op = 0x0804 ||
    ((op = 0x0205 || op = 0x0206) && fld c 24 8 = 0)

/-- Commands on sessions and stores, which commit on every member in one commit (R102, R168). -/
def memberOp (c : Cmd) : Bool :=
  let g := Cmd.op c / 256
  g = 3 || g = 4 || g = 5

/-- The buffers that such a command reads, with the memory that each lies in: what the accepting member carries to the
others (R102). -/
def Ctx.pieces (v : State) (x : Ctx) : List (HostSpace × Nat × Nat) :=
  match Cmd.op x.c with
  | 0x0301 => [(.port0, x.f 16 8, 64)]
  | 0x0304 => match Tb.get v.ten.map.stores (x.f 16 1) with
    | none => []
    | some p =>
      let a := p.base + x.f 24 8
      let n := ((x.rd p.space a 65536).map fun h => fieldAt h 24 4).getD 0
      [(p.space, a, 65536), (p.space, a + 65536 * (1 + n), 65536 * ceilDiv (16 * n) 65536)]
  | 0x0308 => [(.port0, x.f 32 8, x.f 40 8)]
  | 0x030A => [(.port0, x.f 24 8, 128)]
  | 0x0401 =>
    let d := (x.rd .port0 (x.f 16 8) (x.f 24 4)).getD []
    let n := fieldAt d 8 4
    [(.port0, x.f 16 8, x.f 24 4), (.port0, fieldAt d 48 8, if (fieldAt d 0 4).testBit 0 then n else 4 * n),
     (.port0, fieldAt d 88 8, 4 * fieldAt d 38 2)]
  | 0x0501 => [(.port0, x.f 24 8, x.f 32 8)]
  | 0x0502 => [(.port0, x.f 16 8, x.f 24 8)]
  | 0x0503 => [(.port0, x.f 16 8, x.f 24 8)]
  | 0x0504 => [(.port0, x.f 16 8, x.f 24 8)]
  | 0x0602 => [(.port0, x.f 16 8, x.f 24 8)]
  | _ => []

/-- The code of a memory in a FORWARD body. -/
def HostSpace.code : HostSpace → Nat
  | .port0 => 0 | .port1 => 1 | .cxl0 => 2 | .cxl1 => 3

/-- The body of a FORWARD, which the spec gives no layout: mailbox, free value, query number, then the
buffers.
DESIGN CHOICE (log 39). -/
def forwardBody (x : Ctx) (ps : List (HostSpace × Nat × Nat)) : Bytes :=
  toLE 1 x.m ++ toLE 64 x.draw.toNat ++ toLE 8 x.num ++ ps.flatMap fun p => match x.rd p.1 p.2.1 p.2.2 with
    | some b => toLE 1 p.1.code ++ toLE 8 p.2.1 ++ toLE 8 p.2.2 ++ b
    | none => []

/-- The buffers of a FORWARD body, found by memory and address. DESIGN CHOICE (log 39). -/
def forwardRead : Nat → Bytes → HostSpace → Nat → Nat → Option Bytes
  | 0, _, _, _, _ => none
  | fuel + 1, b, sp, a, n =>
    if n = 0 then some [] else
    if b.length < 17 then none else
    let len := fieldAt b 9 8
    if fieldAt b 0 1 = sp.code && fieldAt b 1 8 ≤ a && a + n ≤ fieldAt b 1 8 + len then
      some (sliceAt b (17 + (a - fieldAt b 1 8)) n)
    else forwardRead fuel (b.drop (17 + len)) sp a n

/-- What a forwarded command's checks are given on a member that did not accept it: the query number names the accepting
rank too. -/
def State.forwardCtx (s : State) (rank : Nat) (c : Cmd) (body : Bytes) : Ctx :=
  { m := fieldAt body 0 1, id := noCmd, num := fieldAt body 65 8 + 2 ^ 32 * (rank + 1), draw := BitVec.ofNat 512 (fieldAt body 1 64), c := c, cur := s.img.adapterCurrent, vers := s.img.adapters.map fun a => (a.id, a.ver)
    err := .eTimeout, rd := forwardRead 8 (body.drop 73) }

/-! ### Fetching (R244, R246) -/

/-- Completions that a fetched command owes (R246). -/
def owedBy (op : Nat) : Nat := if op = 0x0401 || op = 0x0403 || op = 0x0309 then 2 else 1

/-- A mailbox is served, a command waits in it, and its queue has room for what the command owes (R246). -/
def State.ready (s : State) (m : Fin 64) (owed : Nat) : Bool :=
  let b := s.mbx[m]
  s.serving && b.enabled && !b.stopped && b.sqHead != b.sqTail &&
    owed + b.reserved + (if m.val = 0 then 16 else 0) ≤ b.cqFree

/-- The host address of the command that a mailbox's SQ_HEAD names (R244). -/
def State.sqSlot (s : State) (m : Fin 64) : Nat := (s.mbx[m]).sqBase.toNat + 64 * (s.mbx[m]).sqHead

/-- A mailbox whose next command, as it stands in the ring, could be fetched. -/
def State.couldServe (s : State) (m : Fin 64) : Bool :=
  match s.readHost .port0 (s.sqSlot m) 64 with
  | some b => s.ready m (owedBy (Cmd.op (BitVec.ofNat 512 (leNat b))))
  | none => false

/-- Steward goes round-robin from the mailbox after the one it served last (R247); it may go on with that one's commands.
DEDUCED (log 114). -/
def State.hasTurn (s : State) (m : Fin 64) : Bool :=
  m.val = s.served ||
    match ((List.range 64).map fun k => mboxFin (s.served + 1 + k)).find? fun k => k = m || s.couldServe k with
    | some k => k = m
    | none => false

/-- Steward can fetch a command that owes so many completions from a mailbox (R246, R247). -/
def State.canFetch (s : State) (m : Fin 64) (owed : Nat) : Bool := s.ready m owed && s.hasTurn m

/-- An error bit of a mailbox rises: vector 1 is raised if it was 0 (R240). DESIGN CHOICE (log 110). -/
def Mailbox.raise (b : Mailbox) (was : Bool) : Mailbox := if was then b else { b with irq1 := b.irq1 + 1 }

/-- A fetch that failed (R243): SQ_ERR, fetching stops. -/
def State.fetchFailed (s : State) (m : Fin 64) : State := s.updMbx m fun b => { b.raise b.sqErr with sqErr := true, stopped := true }

/-- A command fetched: SQ_HEAD moves on, the completions are owed, the watchdog times a new period (R246).
DESIGN CHOICE (log 47). -/
def State.fetched (s : State) (m : Fin 64) (c : Cmd) : State :=
  let b := s.mbx[m]
  let p : PendCmd := ⟨m.val, b.gen, Cmd.tg c, Cmd.op c⟩
  let s := s.updMbx m fun b => { b with
    sqHead := (b.sqHead + 1) % b.sqSize, debts := b.debts + owedBy (Cmd.op c), shadowDue := true, shadowStamp := stampOf s.tk.tick 0
    wdogFired := false, wdogFrom := if (b.sqHead + 1) % b.sqSize = b.sqTail then none else some s.timeUs }
  { s with cmds := Tb.set s.cmds s.nextCmd p, nextCmd := s.nextCmd + 1, served := m.val }

/-! ### Checking and accepting (R247, R255) -/

/-- A command is rejected: its completion is staged (R348 group 5); a completion owed beyond it is owed no more. -/
def State.reject (s : State) (m : Fin 64) (id op : Nat) (st : Status) (res : Bytes) : State :=
  let s := s.updMbx m fun b => { b with debts := b.debts - (owedBy op - 1) }
  (s.count 5 (2 * m.val + 1) 1).stage [.complete id st res]

/-- A command's own check failed with effects of its own (R190): it counts as rejected (R348). -/
def Ctx.failedIn (x : Ctx) (effs : List Effect) : Bool :=
  effs.any fun e => match e with | .complete i st _ => i = x.id && st != .ok | _ => false

/-- The session that staged effects are about, which a deferral holds (R51). -/
def effectSession (effs : List Effect) : Option Nat :=
  effs.findSome? fun e => match e with
    | .spool i .. => some i | .sessState i _ => some i | .sessDestroy i => some i | .sessCreate i _ => some i | .retract i _ => some i
    | _ => none

/-- The mark of a command on stores that is a group unit (R102, R225), with the rank of the member that accepted it. -/
def groupVoteOf (rank : Nat) (c : Cmd) : List Effect :=
  if ([0x0501, 0x0502, 0x0503, 0x0505] : List Nat).contains (Cmd.op c) then [.groupVote rank c] else []

/-- A command is accepted (R247, R348): its effects are staged; in a group the other members are told (R168, R292). -/
def State.acceptCmd (s : State) (x : Ctx) (effs : List Effect) : State :=
  let s := { s.count 5 (2 * x.m + if x.failedIn effs then 1 else 0) 1 with freeCtr := s.freeCtr + 1 }
  if s.grp.n ≤ 1 then s.stage (.accepted x.id x.m x.c :: effs) (effectSession effs) else
  let body := forwardBody x (x.pieces s.view)
  let others := (List.range s.grp.n).filter (· ≠ s.glb.rank)
  if exchangeOp x.c then
    let ex : Exchange := { what := .forward (Cmd.op x.c) x.c body, digest := forwardDigest x.c body, cmd := some x.id
                           startUs := s.timeUs, waitUs := s.timeUs + 3600000000, loadedHere := false, loadedRanks := [], applyTick := none, version := 0, accepting := s.glb.rank }
    s.stage ([.accepted x.id x.m x.c, .exchange ex] ++ others.map fun r => .send (.rank r) (.forward x.c body))
  else
    let s := s.stage (.accepted x.id x.m x.c :: groupVoteOf s.glb.rank x.c ++ effs) (effectSession effs)
    if memberOp x.c then others.foldl (fun s r => s.sendMsg (.rank r) 0 (.forward x.c body)) s else s

/-- What a command's own checks are given on the device that fetched it. -/
def State.ctx (s : State) (m : Fin 64) (id : Nat) (c : Cmd) : Ctx :=
  { m := m.val, id := id, num := s.view.st.nextQuery, draw := Config.freeValue s.freeCtr, c := c, cur := s.img.adapterCurrent, vers := s.img.adapters.map fun a => (a.id, a.ver)
    err := (s.waitFailed m.val).getD .eTimeout, rd := s.reader }

/-- The opcodes that load an image (R90, R99, R142, R149). -/
def loadOp (op : Nat) : Bool := ([0x0201, 0x0203, 0x0205, 0x0206] : List Nat).contains op

/-- GROUP_WAIT_S is 1 to 3,600 under GROUP and zero otherwise, and the address is a multiple of 16 (R257, R258). -/
def Ctx.loadFields (x : Ctx) : Bool :=
  (if x.flag 2 then 1 ≤ x.f 10 2 && x.f 10 2 ≤ 3600 else x.f 10 2 = 0) && x.f 16 8 % 16 = 0

/-- The first page known not present of what a load reads while it is checked: of a model image the parts before chunk 1, of any other
the whole. -/
def State.loadPage (s : State) (x : Ctx) : Option Nat :=
  let a := x.f 16 8
  let len := x.f 24 8
  if len = 0 || Cmd.op x.c ≠ 0x0201 then (if len = 0 then none else s.absentPage .port0 a len) else
  match s.absentPage .port0 a (Nat.min len 512) with
  | some p => some p
  | none => s.absentPage .port0 a (Nat.min len (chunkOffset (imageHdr ((s.readHost .port0 a 512).getD [])) 1))

/-- The page for which a load pauses, with its mailbox (R217): it has passed the common checks and its field checks, and no page request
of its has failed. DESIGN CHOICE (log 91). -/
def State.loadPause (s : State) (m : Fin 64) (c : Cmd) : Option Nat :=
  if !loadOp (Cmd.op c) || (s.waitFailed m.val).isSome then none else
  let x := s.ctx m s.nextCmd c
  if ((specOf (Cmd.op c)).map fun k => (s.view.common m k c).isOk).getD false && x.loadFields then s.loadPage x else none

/-- The digest of the image that a group load names, where its header can be read. -/
def Ctx.loadDigest (x : Ctx) : Option Digest :=
  let o := if Cmd.op x.c = 0x0205 then 16 else 64
  if !x.flag 2 || x.f 24 8 < o + 48 then none else (x.rd .port0 (x.f 16 8) (o + 48)).map fun b => digestOf (sliceAt b o 48)

/-- A load that fails its checks waits for no page. In a group (R92, R102): the member sends FAILED to the lowest rank, or, being it, ABORT to the others.
One that names an image which is loaded here, or loading, fails alone. DEDUCED (log 65). -/
def State.loadRejected (s : State) (x : Ctx) (st : Status) : State :=
  if !loadOp (Cmd.op x.c) then s else
  let s := s.waitOver x.m
  if !s.glb.inGroup then s else
  match x.loadDigest with
  | none => s
  | some d =>
    let own := match s.exchangeBy d with | some (_, e) => e.what != .others | none => false
    if own || (s.modelOf d).isSome then s else
    if s.glb.rank ≠ 0 then s.stage [.send (.rank 0) (.failed d st.code)]
    else
      let s := match s.exchangeBy d with | some (k, _) => { s with img.exchanges := Tb.del s.img.exchanges k } | none => s
      s.stage (((List.range s.grp.n).filter (· ≠ 0)).map fun r => .send (.rank r) (.abort d))

/-- A fetched command checked and accepted or rejected; `now` is what its acceptance changes at once. -/
def State.runCommand (s : State) (m : Fin 64) (id op : Nat) (c : Cmd) (own : State → Ctx → Checked (List Effect))
    (now : State → Ctx → State) : State :=
  let x := s.ctx m id c
  let v := s.view
  let r : Checked (List Effect) := do
    let k ← want .eRange (specOf op)
    v.common m k c
    own v x
  match r with
  | .error e => (s.reject m id (Cmd.op c) e.1 e.2).loadRejected x e.1
  | .ok effs => now (s.acceptCmd x effs) x

/-- A host command of opcode `op` (R246, R247, R255). Where Steward cannot fetch one, none is fetched.
DESIGN CHOICE (log 47). -/
def State.hostCommand (s : State) (m : Fin 64) (c : Cmd) (op : Nat) (own : State → Ctx → Checked (List Effect))
    (now : State → Ctx → State := fun s _ => s) : Res :=
  if !s.canFetch m (owedBy (Cmd.op c)) then .next s
  else if s.hostAbsent .port0 (s.sqSlot m) then .next (s.fetchFailed m)
  else match s.loadPause m c with
    | some p => .next (s.waitOn m.val .port0 p)
    | none => .next ((s.fetched m c).runCommand m s.nextCmd op c own now)

end Sys2Proof.Machine
end

