-- ==== Sys2Proof/Machine/Channel.lean ====
section
/-! DEFINITION. Host commands of group 0x01: NEGOTIATE, OPEN, CLOSE and QUERY (R252 to R254, R260). -/
namespace Sys2Proof.Machine

/-- NEGOTIATE (R252). -/
def checkNegotiate (v : State) (x : Ctx) : Checked (List Effect) := do
  let lo := x.f 8 1
  let hi := x.f 9 1
  must .eState ((v.mbx[mboxFin x.m]).chan != .opened)
  must .eRange (lo ≤ hi && 0x10 ≤ lo && hi ≤ 0x1F)
  must .eVersion (lo ≤ 0x13)
  let n := Nat.min hi 0x13
  return [.chan x.m .negotiated n, x.done (toLE 1 n ++ toLE 1 3 ++ toLE 1 2 ++ toLE 1 1 ++ toLE 2 0x0100 ++ toLE 1 0x22 ++ zeros 1 ++
    toLE 8 Config.deviceId.toNat)]

/-- OPEN (R254). -/
def checkOpen (v : State) (x : Ctx) : Checked (List Effect) := do
  let b := v.mbx[mboxFin x.m]
  must .eState (b.chan == .negotiated)
  return [.chan x.m .opened b.nci, x.done (toLE 1 x.m ++ zeros 3 ++ toLE 4 v.ten.map.epoch ++ toLE 8 v.tk.tick)]

/-- CLOSE (R254): every completion that the mailbox is owed beyond CLOSE's own is a debt (R246). DEDUCED (log 40). -/
def checkClose (v : State) (x : Ctx) : Checked (List Effect) := do
  must .eBusy ((v.mbx[mboxFin x.m]).debts ≤ 1)
  return [.chan x.m .idle 0, x.done []]

/-- A tenant's quota block (R204). -/
def Tenant.quota (t : Tenant) : Bytes :=
  toLE 4 t.stackMib ++ toLE 4 t.treeMib ++ toLE 2 t.bobbins ++ zeros 2 ++ toLE 4 t.sessions ++ toLE 4 t.parkTiles ++ zeros 12

/-- A model slot entry of QUERY item 2 (R260). -/
def State.slotEntry (v : State) (k : Nat) : Bytes :=
  match Tb.get v.img.models k with
  | none => zeros 64
  | some m => toLE 1 (v.slotState k) ++ toLE 1 (if m.pin then 1 else 0) ++ zeros 6 ++ toLE 8 m.tenantMask.toNat ++ digestBytes m.digest

/-- A request entry of QUERY item 4 (R260). -/
def State.reqEntry (v : State) (q : Req) : Bytes :=
  let h := ((Tb.get v.ss.sessions q.session).map fun x => handleOf q.session x.gen).getD 0
  toLE 8 h ++ toLE 1 (if q.phase = .stalled then 1 else 0) ++ toLE 1 q.specWidth ++ zeros 2 ++ toLE 4 q.epoch ++ toLE 4 q.tokens ++
    toLE 4 q.producer ++ zeros 8

/-- Sessions in use of a tenant (R204). -/
def State.sessionsOf (v : State) (t : Nat) : Nat :=
  (v.ss.sessions.filter fun e => e.2.tenant = t && e.2.state != .free).length

/-- The route map in force as QUERY item 7 shows it (R260): epoch 0 names each tenant's first mailbox. -/
def State.mapImage (v : State) : Bytes :=
  if v.ten.map.epoch ≠ 0 then v.ten.map.image else
    ({ v.ten.map with tenants := v.ten.tenants.map fun e => (e.1, (⟨e.2.mailbox, 0xFF, 0, 0⟩ : RouteEntry)) } : RouteMap).image

/-- The content of a QUERY item and the tenant whose object it is (R260). -/
def State.queryItem (v : State) (item key : Nat) : Checked (Bytes × Option (Option Nat)) :=
  match item with
  | 1 => .ok (((List.range 8).map fun i => toLE 4 (v.readGlb (4 * i))).flatten ++ toLE 4 v.glbStatus ++ toLE 4 (v.readGlb 0x28), none)
  | 2 => .ok ((List.range 8).flatMap v.slotEntry, none)
  | 3 => do
    let e ← v.handle key
    return (descriptorBytes e.1 e.2 (v.stalledReq e.2).isSome, some (some e.2.tenant))
  | 4 => do
    let q ← want .eNoent (Tb.get v.ss.reqs key)
    must .eNoent q.dci.isNone
    return (v.reqEntry q, some ((Tb.get v.ss.sessions q.session).map (·.tenant)))
  | 5 => do
    let b ← want .eNoent (Tb.get v.ss.lastMsg key)
    let i := (((Tb.get v.ss.srcs key).map (·.session)) <|> ((Tb.get v.ss.dsts key).bind (·.session)))
    return (b, some (i.bind fun i => (Tb.get v.ss.sessions i).map (·.tenant)))
  | 6 => do
    let t ← want .eNoent (Tb.get v.ten.tenants key)
    return (t.quota ++ toLE 8 (v.tenantUse key) ++ toLE 4 (v.sessionsOf key), some (some key))
  | _ => .ok (v.mapImage, none)

/-- QUERY (R260). -/
def checkQuery (v : State) (x : Ctx) : Checked (List Effect) := do
  let item := x.f 8 2
  let key := x.f 16 8
  must .eRange (1 ≤ item && item ≤ 7 && x.f 24 8 % 16 = 0 && (key = 0 || !(item = 1 || item = 2 || item = 7)))
  let r ← v.queryItem item key
  must .eAuth (match r.2 with
    | none => true
    | some t => x.m = 0 || (t.bind v.routeOf) = some x.m)
  must .eLength (r.1.length ≤ x.f 32 4)
  return [.hostWrite .port0 (x.f 24 8) r.1, x.done (toLE 4 r.1.length)]

/-- NEGOTIATE (R252). -/
def execNegotiate (m : Fin 64) (c : Cmd) (s : State) : Res := s.hostCommand m c 0x0101 checkNegotiate

/-- OPEN (R254). -/
def execOpenChannel (m : Fin 64) (c : Cmd) (s : State) : Res := s.hostCommand m c 0x0102 checkOpen

/-- CLOSE (R254). -/
def execCloseChannel (m : Fin 64) (c : Cmd) (s : State) : Res := s.hostCommand m c 0x0103 checkClose

/-- QUERY 0x0104 (R260). -/
def execQuery (m : Fin 64) (c : Cmd) (s : State) : Res := s.hostCommand m c 0x0104 checkQuery

end Sys2Proof.Machine
end

