-- ==== Sys2Proof/Machine/ImageCmds.lean ====
section
/-! DEFINITION. Host commands of group 0x02: models, adapters, grammars and vocabularies (R89 to R102, R142, R149). -/
namespace Sys2Proof.Machine

/-- The command that completes later, none on a member that did not accept it. -/
def Ctx.cmd (x : Ctx) : Option Nat := if x.remote then none else some x.id

/-- A load without GROUP on a group member (R102). R102 gives this check no place among the others: it is made after the reads of
step 7 and before check 1. DESIGN CHOICE (log 38). -/
def State.loadGroup (v : State) (x : Ctx) : Checked Unit := must .eState (!v.glb.inGroup || x.flag 2)

/-- The exchange that a group load starts (R92). DEDUCED (log 65); DESIGN CHOICE (log 77). -/
def State.loadExchange (v : State) (x : Ctx) (what : GroupWhat) (d : Digest) : Effect :=
  .exchange { what := what, digest := d, cmd := x.cmd, startUs := v.timeUs
              waitUs := v.timeUs + 1000000 * x.f 10 2, loadedHere := false
              loadedRanks := [], applyTick := none, version := 0 }

/-- The header of an image container, its chunk digest table and the gap up to BODY_OFFSET, as far as the command's length
lets them be read (R90). -/
def Ctx.imageHead (x : Ctx) : Checked Bytes := do
  let a := x.f 16 8
  let len := x.f 24 8
  if len < 512 then return []
  let h ← x.read a 512
  let table := roundUp (512 + 48 * fieldAt h 16 4) 4096
  x.read a (Nat.min len (Nat.min table (Nat.max 512 (fieldAt h 24 8))))

/-- One body chunk of an image read, opened and compared with its digest (R81, R91): E_TIMEOUT, E_AUTH, E_DIGEST. -/
def State.imageChunk (v : State) (rd : Nat → Nat → Option Bytes) (err : Status) (addr : Nat) (head : Bytes) (i : Nat) : Checked Bytes := do
  let h := imageHdr head
  let raw ← want err (rd (addr + chunkOffset h i) (chunkLen h i + if h.sealed_ then 16 else 0))
  let b ← want .eAuth (openChunk ((v.modelKey h.keyRef h.digest).getD 0) head i raw)
  must .eDigest (Sha.sha384 b = chunkDigest head i)
  return b

/-- The chunks from `i` on, in order: those that the device needs are read (R102), and what the image shows of those that other members
hold. DESIGN CHOICE (log 20). -/
def State.imageBody (v : State) (rd : Nat → Nat → Option Bytes) (err : Status) (addr : Nat) (head : Bytes) (needs : Nat → Bool) :
    Nat → Nat → Checked Bytes
  | _, 0 => .ok []
  | i, n + 1 => do
    let c := v.imageChunk rd err addr head i
    let b ← if needs i then c else .ok (match c with | .ok b => b | .error _ => unheldChunk (imageHdr head).digest (imageHdr head) i)
    let r ← v.imageBody rd err addr head needs (i + 1) n
    return b ++ r

/-- A sealed image needs its released key (R90 check 6, R318). -/
def State.keyHeld (v : State) (h : ImageHdr) : Bool := !h.sealed_ || (v.modelKey h.keyRef h.digest).isSome

/-- The slot that a LOAD_MODEL takes (R90 check 9, R95). -/
def State.loadSlot (v : State) (x : Ctx) : Option Nat :=
  if x.flag 0 then v.autoSlot else if Tb.has v.img.models (x.f 8 1) then none else some (x.f 8 1)

/-- LOAD_MODEL (R90, R91). DEDUCED (log 65). -/
def checkLoadModel (v : State) (x : Ctx) : Checked (List Effect) := do
  must .eRange (x.loadFields && x.f 8 1 ≤ 7 && (!x.flag 0 || x.f 8 1 = 0))
  let head ← x.imageHead
  v.loadGroup x
  lift (modelChecks (x.f 24 8) head)
  let h := imageHdr head
  let a := archOf head
  must .eAuth (v.keyHeld h)
  let body ← v.imageChunk (x.rd .port0) x.err (x.f 16 8) head 0
  lift (layerChecks a h.bodyLen body)
  must .eRange (x.f 32 8 ≠ 0)
  match v.img.models.find? fun e => e.2.digest = h.digest with
  | some e => .error (.eState, toLE 1 e.1)
  | none =>
    let slot ← want .eBusy (v.loadSlot x)
    let ls := layerTable a body
    let pages := shardPages v.grp.n v.glb.rank a ls
    let freed := ((Tb.get v.img.models slot).map (·.pages)).getD 0
    must .eQuota (v.regionUsed - freed + pages ≤ regionPages)
    let m : Model := { state := .loading, pin := x.flag 1, tenantMask := BitVec.ofNat 64 (x.f 32 8), digest := h.digest, head := head
                       hdr := h, arch := a, layers := ls, addr := x.f 16 8, len := x.f 24 8, group := v.glb.inGroup
                       need := shardChunks v.grp.n v.glb.rank a ls h.bodyLen, chunks := [], others := [], loaded := false, cmd := x.cmd
                       lastBind := 0, drainUs := 0, drainDue := false, pages := pages }
    return .modelLoad slot m :: (if v.glb.inGroup then [v.loadExchange x (.model slot) h.digest] else [])

/-- EVICT_MODEL (R96). -/
def checkEvictModel (v : State) (x : Ctx) : Checked (List Effect) := do
  must .eRange (x.f 8 1 ≤ 7 && 1 ≤ x.f 12 4 && x.f 12 4 ≤ 60000)
  must .eState (((Tb.get v.img.models (x.f 8 1)).map fun m => m.state == .active).getD false)
  return [.modelRetire (x.f 8 1) (x.f 12 4) x.cmd]

/-- LOAD_ADAPTER (R99, R202). -/
def checkLoadAdapter (v : State) (x : Ctx) : Checked (List Effect) := do
  let id := x.f 8 2
  must .eRange (x.loadFields && id ≤ 4095)
  let head ← x.imageHead
  v.loadGroup x
  lift (adapterChecks (x.f 24 8) head)
  let h := imageHdr head
  must .eAuth (v.keyHeld h)
  must .eBusy (v.img.adapters.length < 4096)
  let last := (Tb.get v.img.adapterLast id).getD 0
  must .eRange (last < 0xFFFF)
  let ah := adapterOf head
  let pages := adapterPages v.grp.n v.glb.rank ah
  let body ← v.imageBody (x.rd .port0) x.err (x.f 16 8) head (adapterChunk v.grp.n v.glb.rank ah) 0 h.nChunks
  must .eQuota (v.regionUsed + pages ≤ regionPages)
  let a : AdapterVer := { id := id, ver := last + 1, digest := h.digest, hdr := ah, body := body, retiring := false, pages := pages
                          keyRef := if h.sealed_ then some h.keyRef else none }
  return if v.glb.inGroup then [v.loadExchange x (.adapter id a) h.digest] else [.adapterAdd a, x.done (toLE 2 (last + 1))]

/-- RETIRE_ADAPTER (R101, R258). -/
def checkRetireAdapter (v : State) (x : Ctx) : Checked (List Effect) := do
  must .eRange (x.f 8 2 ≤ 4095)
  let a ← want .eNoent (v.img.adapters.find? fun a => a.id = x.f 8 2 && a.ver = x.f 10 2)
  must .eState (!a.retiring)
  return [.adapterRetire a.id a.ver, x.done []]

/-- A live request uses the grammar of an ID (R149 check 6): a STALLED one does not count. -/
def State.grammarUsed (v : State) (id : Nat) : Bool :=
  v.ss.reqs.any fun e => e.2.grammarId = some id && e.2.phase != .stalled && e.2.phase != .done

/-- Bytes of the grammar region in use (R202): the images loaded, and those that an exchange is still to apply. -/
def State.grammarUse (v : State) : Nat :=
  (v.img.grammars.map (·.2.imageLen)).sum +
    (v.img.exchanges.map fun e => match e.2.what with | .grammar _ g => g.imageLen | _ => 0).sum

/-- LOAD_GRAMMAR (R149, R202). -/
def checkLoadGrammar (v : State) (x : Ctx) : Checked (List Effect) := do
  let id := x.f 8 2
  must .eRange (x.loadFields && id ≤ 1023)
  if x.f 24 8 = 0 then
    must .eNoent (Tb.has v.img.grammars id)
    must .eBusy (!v.grammarUsed id)
    return [.grammarSet id none, x.done []]
  else
    let im ← x.read (x.f 16 8) (x.f 24 8)
    v.loadGroup x
    let g ← lift (grammarChecks (x.f 24 8) im)
    must .eNoent (v.img.vocabs.any fun e => e.2.digest = g.vocabDigest && e.2.entries.length = g.vocab)
    must .eBusy (!v.grammarUsed id)
    must .eQuota (v.grammarUse + g.imageLen ≤ 8192 * 2 ^ 20)
    return if v.glb.inGroup then [v.loadExchange x (.grammar id g) g.digest] else [.grammarSet id (some g), x.done []]

/-- A loaded model, a loaded grammar or a request uses a vocabulary (R142). -/
def State.vocabUsed (v : State) (d : Digest) : Bool :=
  v.img.models.any (fun e => e.2.hdr.vocabDigest = d) || v.img.grammars.any (fun e => e.2.vocabDigest = d) ||
    v.ss.reqs.any fun e => (e.2.grammar.map (·.vocabDigest)) = some d

/-- LOAD_VOCAB (R142). -/
def checkLoadVocab (v : State) (x : Ctx) : Checked (List Effect) := do
  let k := x.f 8 1
  must .eRange (x.loadFields && k ≤ 15)
  if x.f 24 8 = 0 then
    let w ← want .eNoent (Tb.get v.img.vocabs k)
    must .eState (!v.vocabUsed w.digest)
    return [.vocabSet k none, x.done []]
  else
    let im ← x.read (x.f 16 8) (x.f 24 8)
    v.loadGroup x
    let w ← lift (vocabChecks (x.f 24 8) im)
    must .eState (!(v.img.vocabs.any fun e => e.1 ≠ k && e.2.digest = w.digest))
    must .eBusy (!Tb.has v.img.vocabs k)
    return if v.glb.inGroup then [v.loadExchange x (.vocab k w) w.digest] else [.vocabSet k (some w), x.done []]

/-- LOAD_MODEL (R90, R91). -/
def execLoadModel (m : Fin 64) (c : Cmd) (s : State) : Res := s.hostCommand m c 0x0201 checkLoadModel

/-- EVICT_MODEL (R96). -/
def execEvictModel (m : Fin 64) (c : Cmd) (s : State) : Res := s.hostCommand m c 0x0202 checkEvictModel

/-- LOAD_ADAPTER (R99). -/
def execLoadAdapter (m : Fin 64) (c : Cmd) (s : State) : Res := s.hostCommand m c 0x0203 checkLoadAdapter

/-- RETIRE_ADAPTER (R101). -/
def execRetireAdapter (m : Fin 64) (c : Cmd) (s : State) : Res := s.hostCommand m c 0x0204 checkRetireAdapter

/-- LOAD_GRAMMAR (R149). -/
def execLoadGrammar (m : Fin 64) (c : Cmd) (s : State) : Res := s.hostCommand m c 0x0205 checkLoadGrammar

/-- LOAD_VOCAB (R142). -/
def execLoadVocab (m : Fin 64) (c : Cmd) (s : State) : Res := s.hostCommand m c 0x0206 checkLoadVocab

end Sys2Proof.Machine
end

