-- ==== Sys2Proof/Machine/SessionCmds.lean ====
section
/-! DEFINITION. Host commands of group 0x03: sessions, parking, revival, handoffs, held output, purging (R129, R167 to
R198). -/
namespace Sys2Proof.Machine

/-! ### Creating and destroying -/

/-- The lowest index from `n` on that is neither in use nor retired, at most `fuel` away (R167). -/
def State.indexFrom (v : State) (n : Nat) : Nat → Nat
  | 0 => n
  | fuel + 1 => if Tb.has v.ss.sessions n || v.ss.retired.contains n then v.indexFrom (n + 1) fuel else n

/-- The lowest free, unretired index, if one remains (R167). -/
def State.freeIndex (v : State) : Option Nat :=
  let i := v.indexFrom 0 (v.ss.sessions.length + v.ss.retired.length)
  if i < 2 ^ 24 then some i else none

/-- The generation of an index (R167). -/
def State.genOf (v : State) (i : Nat) : Nat := (Tb.get v.ss.gens i).getD 0

/-- The ACTIVE model of a digest that a tenant may use: E_NOENT, E_AUTH (R171, R185). -/
def State.activeModel (v : State) (d : Digest) (t : Nat) : Checked (Nat × Model) := do
  let m ← want .eNoent (v.modelOf d)
  must .eNoent (m.2.state == .active)
  must .eAuth (m.2.tenantMask.getLsbD t)
  return m

/-- SESSION_CREATE's own part (R171), with the charge of its first spool segment last (R205, R206; DEDUCED, log 21), which DCI's CREATE shares (R268): the new session and its OPEN entry. -/
def State.createSession (v : State) (tenant psize : Nat) (model : Digest) (seed : BitVec 128) : Checked (Nat × List Effect) := do
  let t ← want .eNoent (Tb.get v.ten.tenants tenant)
  must .eRange ([16, 32, 64, 128].contains psize)
  let m ← v.activeModel model tenant
  must .eQuota (v.sessionsOf tenant < t.sessions)
  let i ← want .eBusy v.freeIndex
  must .eQuota (v.grants tenant (v.segmentCharge i))
  let x := freshSession (v.genOf i) tenant psize v.ten.map.epoch model seed
  let h := handleOf i x.gen
  return (h, [.sessCreate i x, .spool i 0x01 0 (payOpen h tenant psize 0 seed model m.2.hdr.vocabDigest)])

/-- SESSION_CREATE (R171). -/
def checkSessionCreate (v : State) (x : Ctx) : Checked (List Effect) := do
  must .eRange (x.f 8 1 ≤ 63 && x.f 16 8 % 16 = 0)
  let b ← x.read (x.f 16 8) 64
  must .eRange (x.flag 0 || zeroAt b 48 16)
  must .eNoent (Tb.has v.ten.tenants (x.f 8 1))
  v.routed x (x.f 8 1)
  let seed : BitVec 128 := if x.flag 0 then BitVec.ofNat 128 (beNat (sliceAt b 48 16)) else x.draw.truncate 128
  let r ← v.createSession (x.f 8 1) (x.f 9 1) (digestOf (b.take 48)) seed
  return r.2 ++ [x.done (toLE 8 r.1)]

/-- The states that SESSION_DESTROY admits (R170). -/
def destroyable (st : SessState) : Checked Unit :=
  match st with
  | .idle => .ok () | .parked => .ok () | .gone => .ok ()
  | .parking => .error (.eBusy, []) | .reviving => .error (.eBusy, []) | .offered => .error (.eBusy, [])
  | _ => .error (.eState, [])

/-- SESSION_DESTROY (R172). -/
def checkSessionDestroy (v : State) (x : Ctx) : Checked (List Effect) := do
  let e ← v.handle (x.f 8 8)
  v.routed x e.2.tenant
  destroyable e.2.state
  return [.sessDestroy e.1, x.done []]

/-! ### Background copies (R181 to R184) -/

/-- The states in which PARK and HANDOFF_OFFER find a session (R170): IDLE, or BUSY with a STALLED request. -/
def State.copyState (v : State) (x : Session) : Bool :=
  x.state == .idle || (x.state == .busy && (v.stalledReq x).isSome)

/-- A copy that is ordered (R181). -/
def newCopy (i : Nat) (f : CopyFor) (cmd : Option Nat) (full : Bool) (limit hankId : Nat) : Copy :=
  { session := i, for_ := f, cmd := cmd, full := full, limit := limit, hankId := hankId, hankLen := 0, digest := 0, tiles := []
    written := 0, snap := none, sections := [], stamp := 0, pages := [], resPages := [], condensed := false }

/-- PARK (R183). A second copy command fails with E_BUSY (R182) whatever the session's state: R170 lets a rule name another
status than E_STATE (DEDUCED, log 21). -/
def checkPark (v : State) (x : Ctx) : Checked (List Effect) := do
  must .eRange (x.f 16 1 ≤ 1 && x.f 40 8 % 16 = 0 && x.f 32 8 ≠ 0)
  let e ← v.handle (x.f 8 8)
  v.routed x e.2.tenant
  let st ← want .eNoent (Tb.get v.ten.map.stores (x.f 17 1))
  must .eAuth (st.mask.getLsbD e.2.tenant)
  must .eRange (x.f 24 8 % 65536 = 0 && x.f 24 8 + x.f 32 8 ≤ st.len)
  must .eBusy (e.2.state != .parking && !v.copying e.1)
  must .eState (v.copyState e.2)
  must .eEnergy (v.energyOk (.parkTile 0 0) 65536 (some e.2.tenant))
  let id := v.ss.nextHank
  return [.spool e.1 0x0E 0 (payPark id (x.f 16 1) (x.f 17 1) (x.f 24 8))] ++
    (if x.flag 0 then [] else [.sessState e.1 .parking]) ++
    [.copyStart (newCopy e.1 (.park (x.f 17 1) (x.f 24 8) (x.f 40 8) .port0 (x.flag 0)) x.cmd (x.f 16 1 = 1) (x.f 32 8) id)]

/-! ### Revival (R185 to R187) -/

/-- The checks of R185 that a hank itself answers, up to its key: `len` is the length given, `tenant` the one whose key
opens it. -/
def State.verifyHank (v : State) (h : Bytes) (tags : Checked Bytes) (len tenant : Nat) (transport : Bool) :
    Checked (Bytes × Bytes) := do
  must .eLength (len = fieldAt h 8 8)
  must .eRange (hankLayoutOk h)
  must .eVersion (fieldAt h 4 2 = 3 && fieldAt h 38 2 = 0x0100)
  let t ← tags
  must .eDigest (hankDigestOf h t = digestOf (sliceAt h 48 48))
  must .eAuth (fieldAt h 7 1 = if transport then 1 else 0)
  let k ← want .eAuth (v.hankKeyOf h tenant)
  return (k, t)

/-- Every adapter that the TURN entries of a spool name is loaded (R185, R340). DEDUCED (log 24). -/
def State.adaptersHeld (v : State) (es : List Bytes) : Bool :=
  es.all fun e => entryType e ≠ 2 || (let d := digestOf (sliceAt e 48 48); d = 0 || v.img.adapters.any fun a => a.digest = d)

/-- The spool of a hank whose data tiles can be read and opened. -/
def hankSpool (key h tags : Bytes) (tile : Nat → Option Bytes) : Option (List Bytes) :=
  let plain : Tbl Bytes := (revivalTiles h true).filterMap fun i => (tile i).bind fun d => (openTile key h tags i d).map fun b => (i, b)
  (sectionOf h plain 2).bind fun b => splitSpool (b.length / 16 + 1) b

/-- The checks of R185 on the model, the adapters and the reservation, the spool's segments with the REVIVE or ACQUIRE entry that follows
among it; the answer is the pages reserved. -/
def State.reviveFits (v : State) (h : Bytes) (idx tenant : Nat) (recompute : Bool) (spool : Option (List Bytes)) :
    Checked (List (List Nat)) := do
  let m ← v.activeModel (digestOf (sliceAt h 96 48)) tenant
  must .eNoent (!recompute || (spool.map v.adaptersHeld).getD true)
  let res := reserveIndices m.2.layers (fieldAt h 208 1) 0 (fieldAt h 200 4) 0
  must .eQuota (v.reserveOk idx tenant m.2.arch.shape (fieldAt h 208 1) (!recompute && fieldAt h 209 1 = 1) res
    (65536 * ((spool.map fun es => packSpool (es ++ [zeros 48])).getD (0, 0)).1))
  return res

/-- The index that a revival uses: the PARKED session's own, or a new one (R185). -/
def State.reviveIndex (v : State) (x : Ctx) (h : Bytes) (own : Option (Nat × Session)) : Checked Nat :=
  match own with
  | some e => do
    must .eBusy (e.2.state != .reviving)
    must .eState (e.2.state == .parked && e.2.hankId = fieldAt h 16 8)
    return e.1
  | none => do
    must .eAuth (fieldAt h 36 1 = x.f 18 1)
    must .eQuota (((Tb.get v.ten.tenants (x.f 18 1)).map fun t => decide (v.sessionsOf (x.f 18 1) < t.sessions)).getD false)
    want .eBusy v.freeIndex

/-- REVIVE (R185). DEDUCED (log 24, 43). -/
def checkRevive (v : State) (x : Ctx) : Checked (List Effect) := do
  let hd := x.f 8 8
  let slice := x.f 20 2
  must .eRange (x.f 17 1 ≤ 1 && 64 ≤ slice && slice ≤ 8192 && slice % 64 = 0 && (hd = 0 || x.f 18 1 = 0) && x.f 18 1 ≤ 63)
  let own ← if hd = 0 then Except.ok none else (v.handle hd).map some
  let tenant := (own.map (·.2.tenant)).getD (x.f 18 1)
  must .eNoent (Tb.has v.ten.tenants tenant)
  v.routed x tenant
  let st ← want .eNoent (Tb.get v.ten.map.stores (x.f 16 1))
  must .eAuth (st.mask.getLsbD tenant)
  let off := x.f 24 8
  let len := x.f 32 8
  must .eLength (off + len ≤ st.len)
  let h ← want .eTimeout (x.rd st.space (st.base + off) 65536)
  let n := fieldAt h 24 4
  let tags := want .eTimeout (x.rd st.space (st.base + off + 65536 * (1 + n)) (65536 * ceilDiv (16 * n) 65536))
  let k ← v.verifyHank h tags len (fieldAt h 36 1) false
  let idx ← v.reviveIndex x h own
  let re := x.f 17 1 = 1 || fieldAt h 6 1 = 0
  let res ← v.reviveFits h idx tenant re (hankSpool k.1 h k.2 fun i => x.rd st.space (st.base + off + 65536 * (1 + i)) 65536)
  must .eEnergy (v.energyOk (.reviveTile 0 0) 65536 (some tenant))
  return [.reviveStart { session := idx, fresh := own.isNone, cmd := x.cmd, header := h, tags := k.2, key := k.1, store := x.f 16 1
                         offset := off, recompute := re, slice := slice, nData := n, plain := [], resPages := res
                         before := own.map (·.2) }]

/-! ### Handoffs (R189 to R192) -/

/-- HANDOFF_OFFER (R189). DEDUCED (log 21, 107). -/
def checkHandoffOffer (v : State) (x : Ctx) : Checked (List Effect) := do
  let ms := x.f 28 4
  must .eRange (x.f 24 1 ≤ 1 && 10 ≤ ms && ms ≤ 60000)
  let e ← v.handle (x.f 8 8)
  v.routed x e.2.tenant
  must .eBusy (e.2.state != .offered && !v.copying e.1)
  must .eState (v.copyState e.2 || e.2.state == .parked)
  must .eQuota (v.copyFits e.2)
  must .eEnergy (v.energyOk (.parkTile 0 0) 65536 (some e.2.tenant))
  must .eBusy v.slotRoom
  let id := v.ss.nextHandoff
  let full := decide (x.f 24 1 = 1)
  return [.handoffOffer id { session := e.1, dst := x.f 16 8, timeoutMs := ms, cmd := x.cmd, deadlineUs := none, accepted := none
                             aborted := none, restored := false, reverted := false, full := full, was := (0, 0) },
    .copyStart (newCopy e.1 (.handoff id) none full 0 v.ss.nextHank)]

/-- An ABORT from the destination of a handoff (R188, R190). DESIGN CHOICE (log 108). -/
def HandoffDst.abortMsg (d : HandoffDst) (id st : Nat) : Effect :=
  .send (.device d.src) (.handoff (handoffMsg 4 st id (fieldAt d.offer 16 8) 0 0 0 0))

/-- The verification that HANDOFF_COMMIT ACCEPT makes of the tiles received (R190): the answer is the revival.
DEDUCED (log 42). -/
def State.verifyOffer (v : State) (x : Ctx) (id : Nat) (d : HandoffDst) : Checked Revival := do
  let t := x.f 16 1
  must .eNoent (Tb.has v.ten.tenants t)
  let h ← want .eTimeout (Tb.get d.tiles 0)
  let n := fieldAt h 24 4
  let tag (k : Nat) : Option Bytes := Tb.get d.tiles (1 + n + k)
  let tags := want .eTimeout (((List.range (ceilDiv (16 * n) 65536)).mapM tag).map List.flatten)
  let k ← v.verifyHank h tags (fieldAt d.offer 40 8) t true
  must .eDigest (sliceAt h 48 48 == sliceAt d.offer 48 48)
  must .eAuth (fieldAt h 224 8 = id)
  must .eQuota (((Tb.get v.ten.tenants t).map fun y => decide (v.sessionsOf t < y.sessions)).getD false)
  let idx ← want .eBusy v.freeIndex
  let re := decide (fieldAt h 6 1 = 0)
  let res ← v.reviveFits h idx t re (hankSpool k.1 h k.2 fun i => Tb.get d.tiles (1 + i))
  let plain ← (List.range n).mapM fun i => do
    let b ← want .eTimeout (Tb.get d.tiles (1 + i))
    let p ← want .eAuth (openTile k.1 h k.2 i b)
    return (i, p)
  let r : Revival := { session := idx, fresh := true, cmd := x.cmd, header := h, tags := k.2, key := k.1, store := 0xFF, offset := 0
                       recompute := re, slice := 2048, nData := n, plain := plain, resPages := res, before := none }
  let a := (v.modelOf (digestOf (sliceAt h 96 48))).map (·.2.arch)
  let y ← want .eDigest (r.read ((a.map (·.headDim)).getD 128) ((a.map (·.kvHeads)).getD 1))
  must .eDigest (chainDigest y.entries = digestOf (sliceAt h 144 48))
  refuse y.fault
  return r

/-- HANDOFF_COMMIT (R190). The status that an ABORT after REFUSE carries is left open: it is a free value.
DESIGN CHOICE (log 108). -/
def checkHandoffCommit (v : State) (x : Ctx) : Checked (List Effect) := do
  let id := x.f 8 8
  must .eRange (x.f 16 1 ≤ 63 && x.f 17 1 ≤ 1)
  let d ← want .eNoent (Tb.get v.ss.dsts id)
  must .eNoent (!d.offer.isEmpty)
  must .eState (d.session.isNone && !d.owned)
  if x.f 17 1 = 1 then return [d.abortMsg id (x.draw.toNat % 16), .handoffRefuse id x.id .ok, x.done []]
  match v.verifyOffer x id d with
  | .error e => return [d.abortMsg id e.1.code, .handoffRefuse id x.id e.1, .complete x.id e.1 []]
  | .ok r => return [.handoffAccept id (x.f 16 1) r,
      .send (.device d.src) (.handoff (handoffMsg 2 0 id (fieldAt d.offer 16 8) (handleOf r.session (v.genOf r.session)) 0 0 0))]

/-- QUERY_OWNER (R191). -/
def checkQueryOwner (v : State) (x : Ctx) : Checked (List Effect) := do
  let id := x.f 8 8
  let d ← want .eNoent (Tb.get v.ss.dsts id)
  let i ← want .eNoent d.session
  must .eNoent (((Tb.get v.ss.sessions i).map fun y => y.state == .accepting).getD false)
  return [.ownerQuery id x.id, v.ownerAsk id]

/-- A reel's handoff entries (R330). -/
def reelEntries (r : Bytes) : List Bytes :=
  (List.range (fieldAt r 36 4)).map fun k => sliceAt r (128 + 96 * fieldAt r 6 1 + 32 * k) 32

/-- The handoff entry of a reel for a handoff whose source is a device of which `src` says so (R192, R330). -/
def reelHandoff (r : Bytes) (id : Nat) (src : Nat → Bool) : Option Bytes :=
  (reelEntries r).find? fun e => fieldAt e 16 8 = id && src (fieldAt r (128 + 96 * fieldAt e 0 1) 8)

/-- ADOPT (R192). DEDUCED (log 42). -/
def checkAdopt (v : State) (x : Ctx) : Checked (List Effect) := do
  let id := x.f 16 8
  must .eRange (x.f 24 1 ≤ 1 && x.f 32 8 % 16 = 0)
  let r ← x.read (x.f 32 8) (x.f 40 8)
  let e ← v.handle (x.f 8 8)
  lift (reelChecks (x.f 40 8) r)
  let pay := payAdopt id (x.f 24 1) (Sha.sha384 r)
  let fin (c : Option Nat) (st : Status) (res : Bytes) : List Effect := (c.map fun c => .complete c st res).toList
  if x.f 24 1 = 0 then
    let d ← want .eState (Tb.get v.ss.dsts id)
    must .eState (e.2.state == .accepting && d.session = some e.1)
    let h ← want .eState (reelHandoff r id (· == d.src))
    must .eState (fieldAt h 1 1 = 6 || fieldAt h 1 1 = 8)
    must .eQuota (v.spoolOpens e.1 e.2 128)
    return [.ownNow id, .spool e.1 0x11 0 (payAcquire id d.src (fieldAt d.offer 16 8) 2), .spool e.1 0x15 0 pay] ++
      fin d.cmd .ok (toLE 8 (v.handleAt e.1)) ++ [x.done []]
  else
    let s ← want .eState (Tb.get v.ss.srcs id)
    must .eState (e.2.state == .offered && e.2.handoffId = id)
    let h ← want .eState (reelHandoff r id fun d => s.restored || d = Config.deviceId.toNat || v.grp.members.contains d)
    must .eState (fieldAt h 1 1 = 6 && fieldAt h 8 8 = x.f 8 8)
    must .eQuota (v.spoolOpens e.1 e.2 80)
    return [.revert id, .spool e.1 0x15 0 pay] ++ fin s.cmd .eTimeout [] ++ [x.done []]

/-! ### Held output and trees -/

/-- Ring counts are powers of two from 64 to 65,536 (R257). -/
def ringCountOk (n : Nat) : Bool := [64, 128, 256, 512, 1024, 2048, 4096, 8192, 16384, 32768, 65536].contains n

/-- CLAIM (R198). DEDUCED (log 41). -/
def checkClaim (v : State) (x : Ctx) : Checked (List Effect) := do
  must .eRange (x.f 16 8 % 64 = 0 && ringCountOk (x.f 24 4) && x.f 32 8 % 16 = 0)
  let e ← v.handle (x.f 8 8)
  v.routed x e.2.tenant
  let h ← want .eState e.2.held
  must .eLength (h.records.length ≤ x.f 24 4)
  must .eBusy (!Tb.has v.ss.claims e.1)
  must .eQuota (v.spoolOpens e.1 e.2 32)
  return [.claimStart e.1 x.id x.m (v.mbx[mboxFin x.m]).gen (x.f 16 8) (x.f 24 4) (x.f 32 8)]

/-- PURGE (R129). -/
def checkPurge (v : State) (x : Ctx) : Checked (List Effect) := do
  must .eRange (x.f 8 1 ≤ 63 && x.f 24 8 % 16 = 0 && (x.flag 0 || (x.f 12 4 = 0 && x.f 16 4 = 0)))
  let b ← x.read (x.f 24 8) 128
  must .eRange (zeroAt b 98 30 && [16, 32, 64, 128].contains (fieldAt b 96 1) && fieldAt b 97 1 ≤ 1)
  must .eNoent (Tb.has v.ten.tenants (x.f 8 1))
  v.routed x (x.f 8 1)
  let k : RootKey := ⟨x.f 8 1, digestOf (b.take 48), digestOf (sliceAt b 48 48), fieldAt b 96 1, fieldAt b 97 1 = 1⟩
  let n ← want .eNoent (v.purgeTop k (if x.flag 0 then some (x.f 12 4, x.f 16 4) else none))
  must .eEnergy (v.energyOk (.sweep 0) 1 (some (x.f 8 1)))
  return [.purge k (if x.flag 0 then some n.id else none) x.id]

/-- SESSION_CREATE (R171). -/
def execSessionCreate (m : Fin 64) (c : Cmd) (s : State) : Res := s.hostCommand m c 0x0301 checkSessionCreate

/-- SESSION_DESTROY (R172). -/
def execSessionDestroy (m : Fin 64) (c : Cmd) (s : State) : Res := s.hostCommand m c 0x0302 checkSessionDestroy

/-- PARK (R183). A second copy command fails with E_BUSY (R182) whatever the session's state: R170 lets a rule name another
status than E_STATE (DEDUCED, log 21). -/
def execPark (m : Fin 64) (c : Cmd) (s : State) : Res := s.hostCommand m c 0x0303 checkPark

/-- REVIVE (R185). -/
def execRevive (m : Fin 64) (c : Cmd) (s : State) : Res := s.hostCommand m c 0x0304 checkRevive

/-- HANDOFF_OFFER (R189). -/
def execHandoffOffer (m : Fin 64) (c : Cmd) (s : State) : Res := s.hostCommand m c 0x0305 checkHandoffOffer

/-- HANDOFF_COMMIT (R190). -/
def execHandoffCommit (m : Fin 64) (c : Cmd) (s : State) : Res := s.hostCommand m c 0x0306 checkHandoffCommit

/-- QUERY_OWNER (R191). -/
def execQueryOwner (m : Fin 64) (c : Cmd) (s : State) : Res := s.hostCommand m c 0x0307 checkQueryOwner

/-- ADOPT (R192). -/
def execAdopt (m : Fin 64) (c : Cmd) (s : State) : Res := s.hostCommand m c 0x0308 checkAdopt

/-- CLAIM (R198). -/
def execClaim (m : Fin 64) (c : Cmd) (s : State) : Res := s.hostCommand m c 0x0309 checkClaim

/-- PURGE (R129). -/
def execPurge (m : Fin 64) (c : Cmd) (s : State) : Res := s.hostCommand m c 0x030A checkPurge

end Sys2Proof.Machine
end

