-- ==== Sys2Proof/Machine/RequestCmds.lean ====
section
/-! DEFINITION. Host commands of group 0x04: SUBMIT, CANCEL, RESUME and RETRACT (R154, R163, R166, R261 to R263). -/
namespace Sys2Proof.Machine

/-- The FLAGS bits of a request descriptor (R261). -/
def descFlag (d : Bytes) (i : Nat) : Bool := (fieldAt d 0 4).testBit i

/-- Bytes of a descriptor's input (R261). -/
def descInput (d : Bytes) : Nat := if descFlag d 0 then fieldAt d 8 4 else 4 * fieldAt d 8 4

/-- Entry i of a descriptor's stop strings (R261). -/
def descStop (d : Bytes) (i : Nat) : Bytes := sliceAt d (128 + 80 * i) 80

/-- Step 2 of R263. -/
def descLengths (len : Nat) (d : Bytes) : Bool :=
  len = 128 + 80 * fieldAt d 13 1 && ((List.range (fieldAt d 13 1)).all fun i => fieldAt (descStop d i) 0 1 ≤ 64) &&
  descInput d ≤ fieldAt d 56 8 && 4 * fieldAt d 38 2 ≤ fieldAt d 96 4

/-- The fields of a descriptor that R261 and R106 bound by themselves. DEDUCED (log 49). -/
def descRanges (d : Bytes) : Bool :=
  let fl := descFlag d
  fieldAt d 0 4 < 256 && zeroAt d 76 4 && zeroAt d 100 28 &&
  1 ≤ fieldAt d 4 4 && fieldAt d 4 4 ≤ 1048576 && fieldAt d 8 4 ≤ (if fl 0 then 16777216 else 1048576) &&
  fieldAt d 14 2 ≤ 1023 && (fl 4 || fieldAt d 14 2 = 0) &&
  (if fl 5 then fieldAt d 20 4 ≠ 0 else fieldAt d 20 4 = 0) && (fl 6 || fieldAt d 24 4 = 0) && (fl 7 || fieldAt d 28 4 = 0) &&
  (if fl 2 then (if fl 3 then fieldAt d 34 2 = 0 else fieldAt d 34 2 ≠ 0) && fieldAt d 32 2 ≤ 4095
    else !fl 3 && fieldAt d 32 2 = 0 && fieldAt d 34 2 = 0) &&
  64 ≤ fieldAt d 36 2 && fieldAt d 36 2 ≤ 8192 && fieldAt d 36 2 % 64 = 0 && fieldAt d 38 2 ≤ 512 && fieldAt d 40 4 ≤ 60000 &&
  fieldAt d 12 1 ≤ 3 && fieldAt d 48 8 % 16 = 0 && fieldAt d 64 8 % 64 = 0 && ringCountOk (fieldAt d 72 4) &&
  fieldAt d 80 8 % 16 = 0 && fieldAt d 88 8 % 16 = 0 &&
  (List.range (fieldAt d 13 1)).all fun i =>
    let e := descStop d i
    fieldAt e 0 1 ≠ 0 && zeroAt e 1 15 && zeroAt e (16 + fieldAt e 0 1) (64 - fieldAt e 0 1)

/-- A descriptor's sampling parameters, each read under R56 where it is compared (R75). -/
def descParams (d : Bytes) : Sampling.Params :=
  { temperature := BitVec.ofNat 32 (fieldAt d 16 4)
    topK := if descFlag d 5 then some (fieldAt d 20 4) else none
    topP := if descFlag d 6 then some (BitVec.ofNat 32 (fieldAt d 24 4)) else none
    minP := if descFlag d 7 then some (BitVec.ofNat 32 (fieldAt d 28 4)) else none }

/-- Numbers in strictly ascending order. -/
def ascending : List Nat → Bool
  | a :: b :: r => a < b && ascending (b :: r)
  | _ => true

/-- The checks of step 3 of R263 that need the session or its model (R109, R138, R140); they are left out where the handle
or the model is not current, since step 4 or 7 then fails the command. -/
def State.descFits (v : State) (h : Nat) (d : Bytes) (toks globals : List Nat) : Bool :=
  match v.sessOf h with
  | none => true
  | some (_, x) =>
    let len := x.hist.length
    let top := len + fieldAt d 8 4
    let at_ := fieldAt d 44 4
    (fieldAt d 8 4 ≠ 0 || len ≠ 0) && (globals.all fun g => len ≤ g && g < top) && x.globals.length + globals.length ≤ 512 &&
    (at_ = 0 || x.kvlen < at_) &&
    match v.modelOf x.model with
    | none => true
    | some (_, m) =>
      fieldAt d 12 1 ≤ m.arch.draftHeads && (at_ = 0 || at_ < m.arch.maxPos) && (toks.all fun t => t < m.arch.vocab) &&
      (globals.isEmpty || m.layers.any fun l => l.window.isSome)

/-- The adapter that a request binds (R97, R98, R100), as of the start of the tick: what a LOAD_ADAPTER of the tick adds, and the
retiring of the version before it, are not seen. An ID of which no version is loaded gives R97's E_NOENT; an explicit version that is
not loaded, of an ID that has another, gives R100's E_STATE. DESIGN CHOICE (log 50). -/
def State.bindAdapter (v : State) (x : Ctx) (d : Bytes) (m : Model) : Checked (Option AdapterVer) :=
  if !descFlag d 2 then .ok none else do
    let id := fieldAt d 32 2
    let ver ← if descFlag d 3 then want .eNoent (Tb.get x.cur id) else Except.ok (fieldAt d 34 2)
    must .eNoent (x.vers.any fun k => k.1 = id)
    must .eState (x.vers.contains (id, ver))
    let a ← want .eState (v.img.adapters.find? fun a => a.id = id && a.ver = ver)
    let superseded := Tb.get x.cur id = some ver && ((Tb.get v.img.adapterCurrent id).map fun k => decide (ver < k)).getD false
    must .eState (descFlag d 3 || superseded || !a.retiring)
    must .eRange (adapterFits a.hdr m.arch && a.hdr.baseDigest = m.digest)
    return some a

/-- The grammar of a request (R138). -/
def State.grammarFor (v : State) (id : Nat) (vocab : Digest) : Checked Grammar := do
  let g ← want .eNoent (Tb.get v.img.grammars id)
  must .eDigest (g.vocabDigest = vocab)
  return g

/-- REQ_ID from the group-wide counter, which skips 0 and every ID in use (R263). -/
def State.freeReqId (v : State) (n : Nat) : Nat → Nat
  | 0 => n
  | fuel + 1 => if n = 0 || Tb.has v.ss.reqs n then v.freeReqId ((n + 1) % 2 ^ 32) fuel else n

/-- The bobbins of a slice at the submitted slice length, on this device's two Carding dies (R207). -/
def State.sliceBobbins (v : State) (a : Arch) (slice : Nat) : Nat × Nat :=
  let n := Nat.max v.grp.n 1
  let on (k : Nat) := ((List.range a.kvHeads).filter fun h => h % n = v.glb.rank && h / n % 2 = k).length
  let need (k : Nat) := if k = 0 then 0 else ceilDiv (2 * slice * a.headDim * a.layers * k) 1048576 + 2
  (need (on 0), need (on 1))

/-- The 1 GiB limit of a spool with a new reservation (R175). -/
def State.spoolRoom (v : State) (i : Nat) (x : Session) (res : Nat) : Bool :=
  x.segments * 65536 + ((v.ss.reqs.filter fun q => q.2.session = i).map (·.2.resSpool)).sum + res ≤ 2 ^ 30

/-- The request that a SUBMIT makes (R261, R263). -/
def newReq (x : Ctx) (gen idx epoch : Nat) (d : Bytes) (text : Bytes) (globals : List Nat) (ad : Option AdapterVer)
    (g : Option Grammar) (resPages : List (List Nat)) (resSpool : Nat) : Req :=
  { mbox := x.m, mboxGen := gen, tag := Cmd.tg x.c, session := idx, maxNew := fieldAt d 4 4, specWidth := fieldAt d 12 1
    stops := (List.range (fieldAt d 13 1)).map fun i => sliceAt (descStop d i) 16 (fieldAt (descStop d i) 0 1)
    params := descParams d, adapter := ad.map fun a => (a.id, a.ver), grammarId := g.map fun _ => fieldAt d 14 2, grammar := g
    gstate := g.map (·.start), slice := fieldAt d 36 2, stallHoldMs := fieldAt d 40 4, condenseAt := fieldAt d 44 4
    noTree := descFlag d 1, ringAddr := fieldAt d 64 8, ringCount := fieldAt d 72 4, indexAddr := fieldAt d 80 8, producer := 0
    consumer := 0, epoch := epoch, phase := .text, text := text, textTokens := [], inputGlobals := globals, startLen := 0
    inputEnd := 0, nextSlice := fieldAt d 36 2, firstStep := true, out := [], heldReason := none, cancel := none
    drained := false, stallUntilUs := none, stallLeftUs := none, ringWaitUs := none, condensedRun := false, replayed := false
    hostProducer := 0, stateOf := none, resPages := resPages, resSpool := resSpool, treeLive := !descFlag d 1, unitStamp := 0, dci := none, delayed := [] }

/-- Steps 7 to 11 of R263, for a session that may take the request, and the effects. DEDUCED (log 49). -/
def State.submitTo (v : State) (x : Ctx) (d buf : Bytes) (toks globals : List Nat) (i : Nat) (y : Session) :
    Checked (List Effect) := do
  let text := descFlag d 0
  let count := fieldAt d 8 4
  let maxNew := fieldAt d 4 4
  let len := y.hist.length
  let m ← want .eNoent (v.modelOf y.model)
  must .eState (m.2.state != .retiring)
  must .eNoent (m.2.state == .active && (v.vocabFor y.model).isSome)
  let ad ← v.bindAdapter x d m.2
  must .eAuth (m.2.tenantMask.getLsbD y.tenant)
  must .eLength (text || len + count + 1 ≤ m.2.arch.maxPos)
  let g ← if descFlag d 4 then (v.grammarFor (fieldAt d 14 2) m.2.hdr.vocabDigest).map some else Except.ok none
  let upto := Nat.min (len + count + maxNew) (Nat.max len m.2.arch.maxPos)
  must .eEnergy (v.energyOk (.decode 0) upto (some y.tenant) && v.energyOk (.prefill 0) (fieldAt d 36 2) (some y.tenant))
  let resSpool := 4096 + 8 * (count + maxNew)
  must .eLength (v.spoolRoom i y resSpool)
  let res := reserveIndices m.2.layers y.psize len (len + count + maxNew) globals.length
  must .eQuota (v.reserveOk i y.tenant m.2.arch.shape y.psize y.condensed res resSpool)
  let b := v.sliceBobbins m.2.arch (fieldAt d 36 2)
  must .eQuota (decide (b.1 + b.2 ≤ ((Tb.get v.ten.tenants y.tenant).map (·.bobbins)).getD 0) && b.1 ≤ 256 && b.2 ≤ 256)
  must .eBusy ((v.ss.reqs.filter fun q => q.2.dci.isNone).length < 65536)
  let id := v.freeReqId v.ss.nextReq (v.ss.reqs.length + 1)
  let q := newReq x (v.mbx[mboxFin x.m]).gen i v.ten.map.epoch d (if text then buf else []) globals ad g res resSpool
  let turn := payTurn id q.epoch maxNew q.specWidth q.params ((ad.map (·.digest)).getD 0) ((g.map (·.digest)).getD 0) q.stops
  let input : List Effect := (if text then [] else inputEntries len toks).map fun p => .spool i 0x03 0 p
  let glob : List Effect := if text || globals.isEmpty then [] else [.spool i 0x04 0 (payGlobal globals)]
  return [.submit id q toks, .spool i 0x02 0 turn] ++ input ++ glob ++ [x.done (toLE 4 id)]

/-- SUBMIT (R263). DEDUCED (log 49). -/
def checkSubmit (v : State) (x : Ctx) : Checked (List Effect) := do
  let len := x.f 24 4
  must .eRange (x.f 16 8 % 16 = 0)
  let d ← x.read (x.f 16 8) (Nat.min len 768)
  let n := descInput d
  let buf ← x.read (fieldAt d 48 8) (Nat.min n (fieldAt d 56 8))
  let gb ← x.read (fieldAt d 88 8) (Nat.min (4 * fieldAt d 38 2) (fieldAt d 96 4))
  let _ ← if x.remote then Except.ok [] else x.read (fieldAt d 80 8) 16
  must .eRange (fieldAt d 13 1 ≤ 8)
  must .eLength (descLengths len d)
  let toks := if descFlag d 0 then [] else words4 (fieldAt d 8 4) buf
  let globals := words4 (fieldAt d 38 2) gb
  must .eRange (descRanges d && (descParams d).inRange && ascending globals && v.descFits (x.f 8 8) d toks globals)
  let e ← v.handle (x.f 8 8)
  v.routed x e.2.tenant
  must .eState (e.2.state == .idle && (fieldAt d 44 4 = 0 || !e.2.condensed))
  v.submitTo x d buf toks globals e.1 e.2

/-- The request that REQ_ID names, with its session. DESIGN CHOICE (log 140). -/
def State.request (v : State) (r : Nat) : Checked (Req × Session) := do
  let q ← want .eNoent (Tb.get v.ss.reqs r)
  let y ← want .eNoent (Tb.get v.ss.sessions q.session)
  return (q, y)

/-- CANCEL (R163). Its mark on the request is set at once (`markCancel`). DEDUCED (log 59). -/
def checkCancel (v : State) (x : Ctx) : Checked (List Effect) := do
  let r ← v.request (x.f 8 4)
  v.routed x r.2.tenant
  must .eState (r.2.state == .busy)
  return [x.done []]

/-- The tick and DISCARD_TURN of an accepted CANCEL: from here on no unit of the request starts (R163). A request whose SUBMIT this
tick has accepted carries the mark into the table. It takes the place of the end of a hold that the tick has brought (R153). -/
def State.markCancel (s : State) (x : Ctx) : State :=
  let s := s.updReq (x.f 8 4) fun q => q.marked s.tk.tick (x.flag 0)
  let f (e : Effect) : Option Effect := match e with
    | .submit i q t => if i = x.f 8 4 then some (.submit i (q.marked s.tk.tick (x.flag 0)) t) else some e
    | .spool _ 0x09 _ p => if p = toLE 4 (x.f 8 4) then none else some e
    | e => some e
  { s with work.steward := s.work.steward.map fun i => { i with effs := i.effs.filterMap f } }

/-- RESUME (R154). DEDUCED (log 48). DESIGN CHOICE (log 140). -/
def checkResume (v : State) (x : Ctx) : Checked (List Effect) := do
  let gid := x.f 12 2
  must .eRange (gid ≤ 1023 && (!x.flag 0 || gid = 0))
  let r ← v.request (x.f 8 4)
  v.routed x r.2.tenant
  must .eState (r.1.phase = .stalled && r.2.state == .busy && r.1.cancel.isNone && !v.holdEnded (x.f 8 4))
  let g ← if x.flag 0 then Except.ok none else do
    let g ← want .eNoent (Tb.get v.img.grammars gid)
    must .eDigest (((v.modelOf r.2.model).map fun m => decide (m.2.hdr.vocabDigest = g.vocabDigest)).getD false)
    pure (some g)
  return [.resume (x.f 8 4) x.m (v.mbx[mboxFin x.m]).gen (g.map fun _ => gid) g,
    .spool r.1.session 0x08 0 (digestBytes ((g.map (·.digest)).getD 0)), x.done []]

/-- RETRACT (R166). -/
def checkRetract (v : State) (x : Ctx) : Checked (List Effect) := do
  let n := x.f 16 4
  must .eRange (n ≠ 0)
  let e ← v.handle (x.f 8 8)
  v.routed x e.2.tenant
  must .eState (e.2.state == .idle)
  must .eLength (n ≤ e.2.hist.length)
  must .eQuota (v.spoolOpens e.1 e.2 32)
  let l := e.2.hist.length - n
  let release : List Effect := if l < e.2.kvlen && v.reachesDropped e.2 l then [.spool e.1 0x0D 0 (toLE 4 l)] else []
  return [.retract e.1 l, .spool e.1 0x0B 0 (toLE 4 n ++ toLE 4 l)] ++ release ++ [x.done []]

/-- SUBMIT (R263). -/
def execSubmit (m : Fin 64) (c : Cmd) (s : State) : Res := s.hostCommand m c 0x0401 checkSubmit

/-- CANCEL (R163). -/
def execCancel (m : Fin 64) (c : Cmd) (s : State) : Res := s.hostCommand m c 0x0402 checkCancel State.markCancel

/-- RESUME (R154). -/
def execResume (m : Fin 64) (c : Cmd) (s : State) : Res := s.hostCommand m c 0x0403 checkResume

/-- RETRACT (R166). -/
def execRetract (m : Fin 64) (c : Cmd) (s : State) : Res := s.hostCommand m c 0x0404 checkRetract

end Sys2Proof.Machine
end

