-- ==== Sys2Proof/Machine/StoreCmds.lean ====
section
/-! DEFINITION. Host commands of group 0x05: retrieval stores (R221 to R231, R236, R237). -/
namespace Sys2Proof.Machine

/-- A change of a store's charge is granted on every device of a SHARDS mask (R236). -/
def State.storeFits (v : State) (t : Nat) (shards : Word64) (more : Nat → Nat) : Bool :=
  (maskRanks shards).all fun r => ({ v with glb.rank := r } : State).grants t (more r)

/-- Bytes 2k and 2k + 1 of a codebook are a finite BF16 value. -/
def finite16 (b : Bytes) (k : Nat) : Bool := fieldAt b (2 * k) 2 / 128 % 256 ≠ 255

/-- STORE_CREATE with DESTROY (R221). DESIGN CHOICE (log 140). -/
def checkStoreDestroy (v : State) (x : Ctx) : Checked (List Effect) := do
  must .eRange ((List.range 55).all fun i => x.f (9 + i) 1 = 0)
  let st ← want .eNoent (Tb.get v.st.stores (x.f 8 1))
  v.routed x st.tenant
  must .eBusy (st.compact.isNone && !(v.st.queries.any fun q => q.2.store = x.f 8 1))
  return [.storeDestroy (x.f 8 1), x.done []]

/-- STORE_CREATE (R221). DEDUCED (log 52). -/
def checkStoreCreate (v : State) (x : Ctx) : Checked (List Effect) :=
  if x.flag 0 then checkStoreDestroy v x else do
    let d := x.f 12 2
    let m := x.f 14 2
    let len := x.f 32 8
    must .eRange (x.f 24 8 % 16 = 0)
    let cb ← x.read (x.f 24 8) (Nat.min len (512 * d))
    must .eLength (len = 512 * d)
    must .eRange (64 ≤ d && d ≤ 4096 && 16 ≤ m && m ≤ 256 && d % m = 0 && x.f 10 1 ≤ 1 && x.f 16 8 ≠ 0 &&
      x.f 16 8 < 2 ^ Nat.max v.grp.n 1 && (List.range (256 * d)).all (finite16 cb))
    must .eNoent (Tb.has v.ten.tenants (x.f 9 1))
    v.routed x (x.f 9 1)
    must .eState (!Tb.has v.st.stores (x.f 8 1))
    let st : Store := { tenant := x.f 9 1, d := d, m := m, metric := x.f 10 1, shards := BitVec.ofNat 64 (x.f 16 8)
                        codebook := cb, seq := 0, degraded := false, mains := [⟨0, 0, []⟩], side := [], compact := none }
    must .eQuota (v.storeFits st.tenant st.shards fun r => st.charge r 0)
    return [.storeCreate (x.f 8 1) st, x.done []]

/-- The ID stands at most once in a list. -/
def distinct : List Nat → Bool
  | [] => true
  | a :: r => !r.contains a && distinct r

/-- The checks that INSERT and DELETE share (R225, R226): `w` bytes for each item, read as ID, tombstone flag and code.
DESIGN CHOICE (log 143). -/
def State.changeStore (v : State) (x : Ctx) (tomb : Bool) (w : Store → Nat) : Checked (List Effect) := do
  let n := x.f 12 4
  must .eRange (1 ≤ n && n ≤ 65536 && x.f 16 8 % 16 = 0)
  let k := x.f 8 1
  let st ← want .eNoent (Tb.get v.st.stores k)
  v.routed x st.tenant
  let b ← x.read (x.f 16 8) (Nat.min (n * w st) (x.f 24 8))
  must .eLength (n * w st ≤ x.f 24 8)
  must .eState (!st.degraded)
  let items : List Bytes := chunksOf (w st) b
  let ids := items.map fun e => fieldAt e 0 8
  must .eRange (distinct ids && (tomb || items.all fun e => zeroAt e 8 8 && zeroAt e (16 + st.m) (w st - 16 - st.m)))
  must (if tomb then .eNoent else .eState) (ids.all fun i => st.live i st.seq = tomb)
  let es : List (Nat × Bool × Bytes) := items.map fun e =>
    (fieldAt e 0 8, tomb, if tomb then zeros st.m else sliceAt e 16 st.m)
  let st' : Store := { st with seq := st.seq + n, side := st.side ++ es.map fun e => ⟨e.1, st.seq + 1, tomb, e.2.2⟩ }
  must .eBusy ((maskRanks st.shards).all fun r => (st'.sideAt r).length ≤ 16777216)
  let q := (v.st.queries.filter fun q => q.2.store = k).length
  must .eQuota (v.storeFits st.tenant st.shards fun r => st'.charge r q - st.charge r q)
  must .eRange (st.seq + n < 2 ^ 48)
  return [.storeAppend k es, x.done (toLE 8 (st.seq + 1))]

/-- INSERT (R226). DESIGN CHOICE (log 140). -/
def checkInsert (v : State) (x : Ctx) : Checked (List Effect) := v.changeStore x false Store.sideLen

/-- DELETE (R226). DESIGN CHOICE (log 140). -/
def checkDelete (v : State) (x : Ctx) : Checked (List Effect) := v.changeStore x true fun _ => 8

/-- QUERY (0x0504) may name the store (R197, R231): another tenant's mailbox is refused with E_AUTH, a mailbox that routes
no tenant with E_EPOCH. DEDUCED (log 51). -/
def State.queryAllowed (v : State) (x : Ctx) (t : Nat) : Checked Unit :=
  if x.remote || v.routeOf t = some x.m then .ok ()
  else must .eEpoch (v.ten.map.tenants.any fun e => e.2.mailbox = x.m) >>= fun _ => must .eAuth false

/-- QUERY (0x0504) (R227, R229, R231, R236). DESIGN CHOICE (log 143). -/
def checkStoreQuery (v : State) (x : Ctx) : Checked (List Effect) := do
  let k := x.f 12 4
  let len := x.f 24 8
  must .eRange (1 ≤ k && k ≤ 1024 && 1 ≤ x.f 48 4 && x.f 48 4 ≤ 600000 && x.f 16 8 % 16 = 0 && x.f 32 8 % 16 = 0)
  let b ← x.read (x.f 16 8) (Nat.min len 16384)
  let id := x.f 8 1
  let st ← want .eNoent (Tb.get v.st.stores id)
  v.queryAllowed x st.tenant
  must .eState (!st.degraded)
  must .eLength (4 * st.d ≤ len)
  let vec : List F32 := (words4 st.d b).map (BitVec.ofNat 32)
  must .eRange (vec.all Era.isFinite)
  must .eLength (16 * k ≤ x.f 40 8)
  let q := (v.st.queries.filter fun q => q.2.store = id).length
  must .eQuota (v.storeFits st.tenant st.shards fun r => st.charge r (q + 1) - st.charge r q)
  must .eEnergy (v.energyOk (.searchPass 0 0) 1 (some st.tenant))
  return [.queryStart x.num { store := id, cmd := x.cmd, mbox := x.m, snap := st.seq
                              ver := (st.mains.head?.map (·.ver)).getD 0, vec := vec, k := k, resAddr := x.f 32 8
                              deadlineUs := v.tk.startUs + v.tickUs + 1000 * x.f 48 4, stamp := 0, group := none, top := []
                              lists := [], origin := if x.remote then some (x.num / 2 ^ 32 - 1) else none }]

/-- COMPACT (R228). DESIGN CHOICE (log 140, 143). -/
def checkCompact (v : State) (x : Ctx) : Checked (List Effect) := do
  let id := x.f 8 1
  let st ← want .eNoent (Tb.get v.st.stores id)
  v.routed x st.tenant
  must .eState (!st.degraded)
  must .eBusy st.compact.isNone
  let st' : Store := { st with compact := some (st.seq, none, []) }
  must .eQuota ((maskRanks st.shards).all fun r => (st.itemsAt r (st.liveItems st.seq)).length ≤ 4294967295)
  must .eQuota (v.storeFits st.tenant st.shards fun r => st'.charge r 0 - st.charge r 0)
  must .eEnergy (v.energyOk (.compact 0) 1 (some st.tenant))
  return [.compactStart id x.id]

/-- STORE_CREATE (R221). -/
def execStoreCreate (m : Fin 64) (c : Cmd) (s : State) : Res := s.hostCommand m c 0x0501 checkStoreCreate

/-- INSERT (R226). -/
def execInsert (m : Fin 64) (c : Cmd) (s : State) : Res := s.hostCommand m c 0x0502 checkInsert

/-- DELETE (R226). -/
def execDelete (m : Fin 64) (c : Cmd) (s : State) : Res := s.hostCommand m c 0x0503 checkDelete

/-- QUERY 0x0504 (R231). -/
def execStoreQuery (m : Fin 64) (c : Cmd) (s : State) : Res := s.hostCommand m c 0x0504 checkStoreQuery

/-- COMPACT (R228). -/
def execCompact (m : Fin 64) (c : Cmd) (s : State) : Res := s.hostCommand m c 0x0505 checkCompact

end Sys2Proof.Machine
end

