-- ==== Sys2Proof/Machine/AdminCmds.lean ====
section
/-! DEFINITION. Host commands of groups 0x06 to 0x0F: checkpoints, tenants and keys, schedules, shapers, power, trace,
groups, route maps, shutdown and self-test (R33, R194, R204, R259, R282 to R285, R290, R300, R319, R323, R331 to R340, R347,
R351, R353, R358, R361, R374, R378). -/
namespace Sys2Proof.Machine

/-! ### Checkpoint, restore -/

/-- A RESTORE is under way on this member (R332, R336, R340): its records are being read, its exchange runs, or ONE_SHARD rebuilds. -/
def State.restoring (v : State) : Bool :=
  v.restore.isSome || (v.img.exchanges.any fun e => match e.2.what with | .forward op _ _ => op = 0x0602 | _ => false) ||
    v.ss.rebuilds.any fun e => match e.2.cmd.bind (Tb.get v.cmds) with | some p => p.opcode = 0x0602 | none => false

/-- CHECKPOINT (R332). In a group the other members learn of it with the commit (R333). -/
def checkCheckpoint (v : State) (x : Ctx) : Checked (List Effect) := do
  let n := Nat.max v.grp.n 1
  must .eRange (x.f 32 8 % 16 = 0)
  must .eLength (reelLenOf n 0 ≤ x.f 40 8)
  let st ← want .eNoent (Tb.get v.ten.map.stores (x.f 8 1))
  must .eRange (x.f 16 8 % 65536 = 0 && x.f 24 8 % 65536 = 0 && x.f 24 8 ≠ 0 && x.f 16 8 + n * x.f 24 8 ≤ st.len)
  must .eBusy (v.chkpt.isNone && !v.restoring && v.grp.moves.isEmpty && v.grp.shrink.isNone)
  must .eEnergy (v.energyOk (.chkptTile 0) 65536 none)
  let sends : List Effect := if v.grp.n ≤ 1 then [] else
    ((List.range v.grp.n).filter (· ≠ v.glb.rank)).map fun r => .send (.rank r) (.forward x.c (toLE 1 x.m))
  return [.checkpointStart x.id (x.f 8 1) (x.f 16 8) (x.f 24 8) (x.f 32 8) (x.f 40 8)] ++ sends

/-- What a tenant is charged once a reel's sessions are restored (R336 check 8). -/
def State.withRestored (v : State) (reel : Bytes) : State :=
  (v.restoreList reel).foldl (fun z p =>
    let rc := shardRecord p.1 p.2
    let h := fieldAt p.2 0 8
    let y := sessionOf (h / 2 ^ 24) (fieldAt p.2 9 1) .reviving (rc.take 256) (zeros 16) ((spoolOf rc).getD [])
    { z with ss.sessions := Tb.set z.ss.sessions (h % 2 ^ 24) y }) v

/-- Tenants that a mask names. -/
def maskTenants (k : Nat) : List Nat := (List.range 64).filter k.testBit

/-- The list of reels that RESTORE reads, with checks 1 to 4 of R336. -/
def Ctx.reels (x : Ctx) : Checked (List Bytes) := do
  let b ← x.read (x.f 16 8) (x.f 24 8)
  lift (reelListChecks b)

/-- The rank of the member that accepted a command. -/
def Ctx.acceptor (x : Ctx) (v : State) : Nat := if x.num < 2 ^ 32 then v.glb.rank else x.num / 2 ^ 32 - 1

/-- RESTORE without ONE_SHARD (R336). A record that its reader rejects (R6, R174) is met when the shards are read for check 6.
DEDUCED (log 11). -/
def checkRestoreAll (v : State) (x : Ctx) : Checked (List Effect) := do
  must .eRange (x.f 8 1 = 0 && x.f 12 4 = 0 && x.f 32 8 = 0 && x.f 16 8 % 16 = 0)
  let rs ← x.reels
  must .eState (v.ss.sessions.isEmpty && v.chkpt.isNone && !v.restoring)
  let r ← want .eMixedStep (v.selectReel rs)
  refuse ((v.restoreList r).findSome? fun p => recordFault (shardRecord p.1 p.2))
  let ts := maskTenants (fieldAt r 64 8)
  must .eNoent (ts.all fun t => Tb.has v.ten.tenants t)
  let z := v.withRestored r
  must .eQuota (ts.all fun t => z.grants t 0)
  return [.restoreStart x.id r (x.acceptor v)] ++ if (v.restoreList r).isEmpty then [.restoreEnd, x.done (toLE 8 (fieldAt r 8 8))] else []

/-- RESTORE with ONE_SHARD (R340). -/
def checkOneShard (v : State) (x : Ctx) : Checked (List Effect) := do
  must .eRange (x.f 16 8 % 16 = 0)
  let rs ← x.reels
  let r ← want .eRange rs.head?
  must .eRange (rs.length = 1 && x.f 8 1 < fieldAt r 6 1 && x.f 12 4 ≠ 0)
  must .eState (!v.glb.inGroup && v.chkpt.isNone && !v.restoring)
  let sh ← want .eMixedStep (v.shardOf r (x.f 8 1))
  let e ← want .eNoent ((shardDir sh).find? fun e => fieldAt e 0 8 = x.f 32 8)
  must .eState ([1, 2, 3].contains (fieldAt e 8 1))
  let es := (spoolOf (shardRecord sh e)).getD []
  must .eRange (x.f 12 4 ≤ es.length)
  must .eDigest (chainDigest es = digestOf (sliceAt (shardRecord sh e) 128 48))
  refuse (recordFault (shardRecord sh e))
  let i := x.f 32 8 % 2 ^ 24
  must .eState (!Tb.has v.ss.sessions i)
  must .eNoent (Tb.has v.ten.tenants (fieldAt e 9 1))
  let y := oneShardSession sh e (x.f 12 4) v.ten.map.epoch
  let m ← want .eNoent (v.modelOf y.model)
  must .eNoent (m.2.state == .active && v.adaptersHeld y.spool)
  let res := reserveIndices m.2.layers y.psize 0 y.hist.length 0
  must .eQuota (v.reserveOk i y.tenant m.2.arch.shape y.psize y.condensed res 0)
  must .eEnergy (v.energyOk (.prefill 0) 64 (some y.tenant))
  return [.oneShard x.id i (x.f 32 8 / 2 ^ 24) y { target := y.hist.length - 1, slice := 64, nextSlice := 64, formats := y.formats
                                                   cmd := x.cmd, entry := some (fieldAt r 8 8, 3, fieldAt sh 24 8), gone := []
                                                   resPages := res, lookedUp := false, step := fieldAt r 8 8 }]

/-- RESTORE (R336, R340). -/
def checkRestore (v : State) (x : Ctx) : Checked (List Effect) := if x.flag 0 then checkOneShard v x else checkRestoreAll v x

/-- VERIFY_REEL (R331). -/
def checkVerifyReel (_ : State) (x : Ctx) : Checked (List Effect) := do
  must .eRange (x.f 16 8 % 16 = 0)
  let b ← x.read (x.f 16 8) (x.f 24 8)
  lift (reelChecks (x.f 24 8) b)
  return [x.done (toLE 8 (fieldAt b 8 8))]

/-! ### Tenants and keys -/

/-- The ranges of a quota block (R204). -/
def quotaOk (q : Bytes) : Bool :=
  1 ≤ fieldAt q 0 4 && fieldAt q 0 4 ≤ 503808 && 1 ≤ fieldAt q 4 4 && fieldAt q 4 4 ≤ fieldAt q 0 4 &&
  1 ≤ fieldAt q 8 2 && fieldAt q 8 2 ≤ 896 && zeroAt q 10 2 && 1 ≤ fieldAt q 12 4 && fieldAt q 12 4 ≤ 16777216 &&
  1 ≤ fieldAt q 16 4 && fieldAt q 16 4 ≤ 4096 && zeroAt q 20 12

/-- A tenant as TENANT_CREATE makes it (R204, R284). -/
def newTenant (q : Bytes) (prot : Bool) (mailbox : Nat) : Tenant :=
  { stackMib := fieldAt q 0 4, treeMib := fieldAt q 4 4, bobbins := fieldAt q 8 2, sessions := fieldAt q 12 4
    parkTiles := fieldAt q 16 4, isProtected := prot, mailbox := mailbox, rate := 2147483647, burst := 2147483647
    bucket := 2147483647000000, decodeSeen := false, routeSince := 0 }

/-- Tenants whose creation waits for the vault (R311). DEDUCED (log 54). -/
def State.coming (v : State) : List (Nat × Tenant) :=
  v.sec.vaultJobs.filterMap fun j => match j.work with | .create t x => some (t, x) | _ => none

/-- TENANT_CREATE (R204, R259); its mailbox admission is R255's step 5. DEDUCED (log 55). -/
def checkTenantCreate (v : State) (x : Ctx) : Checked (List Effect) := do
  let t := x.f 8 1
  let mb := x.f 9 1
  let own := if x.m = 0 then none else Tb.get v.ten.grants x.m
  let given := toLE 32 (x.f 16 32)
  must .eRange (t ≤ 63 && (if x.flag 0 then 1 ≤ mb && mb ≤ 63 else mb = 0) &&
    (if x.m = 0 then quotaOk given else x.f 16 32 = 0))
  must .eState (!Tb.has v.ten.tenants t && !(v.coming.any fun e => e.1 = t))
  let q := (own.map (·.quota)).getD given
  must .eQuota ((v.ten.tenants.map (·.2.stackMib)).sum + (v.coming.map (·.2.stackMib)).sum + fieldAt q 0 4 ≤ 503808)
  if x.flag 0 then return [.grant mb ⟨t, q, x.flag 1⟩, x.done []]
  let prot := x.flag 1 || (own.map (·.isProtected)).getD false
  return [.vaultStart ⟨.create t (newTenant q prot x.m), x.cmd, false⟩]

/-- KEY_ROTATE (R319, R320). -/
def checkKeyRotate (v : State) (x : Ctx) : Checked (List Effect) := do
  let t := x.f 8 1
  let k := x.f 9 1
  must .eRange (k ≤ 3 && t ≤ 63)
  must .eNoent (Tb.has v.ten.tenants t)
  v.routed x t
  must .eRange (1 < k || v.tenantGen t < 0xFFFFFFFF)
  must .eState (k ≠ 3 || !(v.ss.sessions.any fun e => e.2.tenant = t) && !(v.kv.pages.any fun e => e.2.tenant = t) &&
    !(v.st.stores.any fun e => e.2.tenant = t))
  if k = 2 then return [.vaultStart ⟨.dropKept t, x.cmd, false⟩]
  must .eEnergy (k = 3 || v.energyOk (.reencrypt t 0) 1 (some t))
  must .eBusy v.slotRoom
  let i ← want .eBusy v.freeSlot
  return [.vaultStart ⟨if k = 3 then .erase t i else .rotate t i (k = 1), x.cmd, false⟩]

/-- ATTEST of KIND 2: a release blob installed (R317, R318, R323); the answer is the slot, the key and SUBJECT. -/
def State.installBlob (v : State) (b : Bytes) : Checked (Nat × KeySlot × Bytes) := do
  must .eLifecycle (v.glb.lifecycle = .field)
  let r ← want .eNoent (v.sec.releases.find? fun r => r.id = fieldAt b 8 8 && v.timeUs < r.expiryUs)
  let k ← want .eAuth (openRelease r.priv b)
  let ref := BitVec.ofNat 128 (fieldAt b 16 16)
  let d := digestOf (sliceAt b 32 48)
  let old := v.sec.slots.find? fun e => e.2.kind == .model && e.2.keyRef = ref
  must .eState ((old.map fun e => decide (e.2.modelDigest = d)).getD true)
  let i ← match old with
    | some e => Except.ok e.1
    | none => do
      must .eBusy v.slotRoom
      want .eBusy v.freeSlot
  return (i, ⟨.model, 0, 0, k, false, ref, d, 0, 0⟩, sliceAt b 16 64 ++ toLE 2 i)

/-- ATTEST (R323). -/
def checkAttest (v : State) (x : Ctx) : Checked (List Effect) := do
  let a := x.f 8 8
  must .eRange (a % 16 = 0)
  let h ← x.read a 64
  let kind := fieldAt h 4 1
  let b ← if kind = 2 then x.read (a + 64) 256 else Except.ok []
  must .eLength (1632 ≤ x.f 48 4)
  must .eRange (fieldAt h 0 4 = 0x51525441 && kind ≤ 2 && zeroAt h 5 3 && zeroAt h 16 48 && (kind = 1 || fieldAt h 8 8 = 0) &&
    (kind ≠ 2 || (fieldAt b 0 4 = 0x4C45524B && fieldAt b 4 2 = 1 && zeroAt b 6 2 && zeroAt b 177 15 && zeroAt b 240 16)))
  let nonce := toLE 32 (x.f 16 32)
  let rid := x.draw.toNat % 2 ^ 64
  let priv := x.draw.toNat / 2 ^ 64 % (Ecc.n - 1) + 1
  let release : Effect := .releaseKey ⟨rid, priv, v.tk.startUs + v.tickUs + 600000000⟩
  if kind = 2 then
    let r ← v.installBlob b
    return [.attest .port0 a 2 nonce rid 0 r.2.2 x.id, .installKey r.1 r.2.1 (fieldAt b 8 8), x.done (toLE 4 1632)]
  if kind = 1 then
    let e ← v.handle (fieldAt h 8 8)
    must .eAuth (v.routeOf e.2.tenant = some x.m)
    return [.attest .port0 a 1 nonce rid priv (v.subjectOf e.1 e.2) x.id, release, x.done (toLE 4 1632)]
  return [.attest .port0 a 0 nonce rid priv [] x.id, release, x.done (toLE 4 1632)]

/-! ### Schedules, gates, shapers, power -/

/-- SCHED_LOAD (R33, R34). -/
def checkSchedLoad (v : State) (x : Ctx) : Checked (List Effect) := do
  must .eRange (x.f 16 8 % 16 = 0)
  must .eBusy v.tk.staged.isNone
  let b ← x.read (x.f 16 8) (Nat.min (x.f 24 8) 32832)
  must .eLength (x.f 24 8 = 32832)
  let t ← lift (schedChecks v.tk.tick (fun us => v.lowerW * us) b)
  return [.schedStage t (Sha.sha384 b), x.done []]

/-- The list that a gate list image spells (R282). -/
def gateListOf (b : Bytes) : GateList :=
  ⟨fieldAt b 8 6, (List.range (fieldAt b 6 2)).map fun i => (fieldAt b (32 + 8 * i) 2, BitVec.ofNat 8 (fieldAt b (34 + 8 * i) 1))⟩

/-- The range check of R282. -/
def gateFields (b : Bytes) : Bool :=
  let n := fieldAt b 6 2
  let l := (gateListOf b).entries
  fieldAt b 0 4 = 0x45544147 && fieldAt b 4 2 = 1 && 1 ≤ n && n ≤ 32 && zeroAt b 14 2 && zeroAt b 16 16 &&
  ((List.range n).all fun i => zeroAt b (35 + 8 * i) 5) && (l.head?.map (·.1)) = some 0 && ascending (l.map (·.1)) &&
  l.all fun e => e.1 ≤ 3999 && e.2.getLsbD 7

/-- GATE_LIST_LOAD (R282, R283). -/
def checkGateListLoad (v : State) (x : Ctx) : Checked (List Effect) := do
  let p := x.f 8 1
  must .eRange (p ≤ 19 && x.f 16 8 % 16 = 0)
  let b ← x.read (x.f 16 8) (Nat.min (x.f 24 8) 288)
  must .eLength (x.f 24 8 = 32 + 8 * fieldAt b 6 2)
  must .eRange (gateFields b)
  let g := gateListOf b
  must .eRange (v.tk.tick + 16 ≤ g.takeover && g.takeover ≤ v.tk.tick + 2 ^ 32)
  must .eBusy (v.ports[Fin.ofNat 20 p]).stagedGates.isNone
  return [.gateStage p g, x.done []]

/-- SHAPER_SET (R284, R285). -/
def checkShaperSet (v : State) (x : Ctx) : Checked (List Effect) := do
  let rate := x.f 12 4
  let burst := x.f 16 4
  must .eRange (x.f 8 1 ≤ 1 && 1 ≤ rate && 1 ≤ burst &&
    if x.f 8 1 = 0 then x.f 10 1 = 0 && x.f 9 1 ≤ 63 && rate ≤ 2147483647 && burst ≤ 2147483647
    else x.f 10 1 ≤ 6 && x.f 9 1 ≤ 19 && rate ≤ 200000 && burst ≤ 4096 && !x.flag 0)
  if x.f 8 1 = 1 then return [.linkShaper (x.f 9 1) (x.f 10 1) rate burst, x.done []]
  must .eNoent (Tb.has v.ten.tenants (x.f 9 1))
  return [.tenantShaper (x.f 9 1) rate burst (x.flag 0), x.done []]

/-- ENERGY_SET (R361). -/
def checkEnergySet (_ : State) (x : Ctx) : Checked (List Effect) := do
  must .eRange (1 ≤ x.f 8 4 && x.f 8 4 ≤ 2400)
  return [.energySet (x.f 8 4), x.done []]

/-! ### Trace and counters -/

/-- TRACE_CFG (R351). -/
def checkTraceCfg (_ : State) (x : Ctx) : Checked (List Effect) := do
  must .eRange (x.f 16 8 % 16 = 0)
  let b ← x.read (x.f 16 8) (Nat.min (x.f 24 8) 64)
  must .eLength (x.f 24 8 = 64)
  must .eRange (traceCfgOk b)
  return [.traceCfg b, x.done []]

/-- TRACE_TRIGGER (R353). -/
def checkTraceTrigger (_ : State) (x : Ctx) : Checked (List Effect) := return [.traceTrigger (x.f 8 4), x.done []]

/-- HANG_DUMP (R358): where no dump is staged its acceptance declares a hang of cause 2 (R356), which captures one, so
BYTES is compared at the commit. DEDUCED (log 53). -/
def checkHangDump (v : State) (x : Ctx) : Checked (List Effect) := do
  must .eRange (x.f 16 8 % 16 = 0)
  must .eBusy v.dbg.dumpCmd.isNone
  return [.hangDump .port0 (x.f 16 8) (x.f 24 8) x.id]

/-- The declaration that HANG_DUMP's acceptance makes (R356). -/
def State.hangNow (s : State) (_ : Ctx) : State := if s.dbg.staged.isSome then s else s.declareHang 2 0

/-- COUNTERS_READ (R347). -/
def checkCountersRead (v : State) (x : Ctx) : Checked (List Effect) := do
  must .eRange (x.f 16 8 % 16 = 0)
  let n ← want .eRange (v.groupLen (x.f 8 2))
  must .eLength (n ≤ x.f 24 8)
  return [.countersRead (x.f 8 2) .port0 (x.f 16 8), x.done (toLE 4 n)]

/-! ### Groups, route maps, shutdown -/

/-- A GROUP_JOIN is staged in this tick. -/
def State.joinStaged (v : State) : Bool :=
  v.work.steward.any fun i => i.effs.any fun e => match e with | .joinStart _ _ => true | _ => false

/-- The state check of R290. -/
def State.joinState (v : State) (d : Bytes) : Bool :=
  let own := (descOwn d).getD 0
  let n := descN d
  if descMode d = 0 || own = n - 1 then !v.glb.inGroup && v.ten.tenants.isEmpty
  else v.glb.inGroup && v.grp.members = (List.range (n - 1)).map (descId d)

/-- The HELLO that a trained port has received names the peer of the descriptor (R290). -/
def State.joinPorts (v : State) (d : Bytes) (p : Port → Nat → Bool) : Bool :=
  let own := (descOwn d).getD 0
  (List.finRange 20).all fun k =>
    let q := descPeer d own k.val
    !(v.ports[k].state == .up8 || v.ports[k].state == .up4) || descN d ≤ q || p v.ports[k] (descId d q)

/-- GROUP_JOIN (R289, R290): its later checks belong to the join itself (R291). DEDUCED (log 53). -/
def checkGroupJoin (v : State) (x : Ctx) : Checked (List Effect) := do
  must .eRange (x.f 16 8 % 16 = 0)
  let d ← x.read (x.f 16 8) (Nat.min (x.f 24 8) 4160)
  must .eLength (x.f 24 8 = 64 + 64 * descN d)
  must .eRange (descFields d)
  must .eNoent (descOwn d).isSome
  must .eState (v.joinState d)
  must .eRange (v.joinPorts d fun p id => p.peerId = id)
  must .eVersion (v.joinPorts d fun p _ => 0x22 ≤ p.version)
  must .eBusy (v.grp.join.isNone && !v.joinStaged)
  return [.joinStart d x.id]

/-- GROUP_SHRINK (R300). DEDUCED (log 53). -/
def checkGroupShrink (v : State) (x : Ctx) : Checked (List Effect) := do
  must .eState (v.glb.inGroup && 1 < v.grp.n)
  must .eNoent (x.f 8 1 < v.grp.n)
  must .eBusy (v.grp.shrink.isNone && v.grp.shrinkCmd.isNone)
  return [.shrinkStart (x.f 8 1) x.id]

/-- ROUTE_MAP_SET (R194). -/
def checkRouteMapSet (v : State) (x : Ctx) : Checked (List Effect) := do
  must .eRange (x.f 16 8 % 16 = 0)
  let b ← x.read (x.f 16 8) (Nat.min (x.f 24 8) 6208)
  must .eLength (x.f 24 8 = 6208)
  must .eRange (routeMapFields b)
  let m := routeMapOf b
  must .eEpoch (m.epoch = v.ten.map.epoch + 1)
  let going := v.img.exchanges.any fun e => match e.2.what with | .forward op _ _ => op = Cmd.op x.c | _ => false
  must .eBusy (v.ten.next.isNone && !v.draining && !going)
  return [.routeMap m, x.done (toLE 4 m.epoch)]

/-- SHUTDOWN (R374). -/
def checkShutdown (v : State) (x : Ctx) : Checked (List Effect) := do
  must .eState (!v.glb.inGroup && v.ss.reqs.isEmpty)
  return [x.done [], .shutdown (x.flag 0) x.id]

/-- BIST_RESULTS (R378). -/
def checkBistResults (v : State) (x : Ctx) : Checked (List Effect) := do
  must .eRange (x.f 16 8 % 16 = 0)
  let b := v.bistBytes
  must .eLength (b.length ≤ x.f 24 8)
  return [.hostWrite .port0 (x.f 16 8) b, x.done (toLE 4 b.length)]

/-- CHECKPOINT (R332). -/
def execCheckpoint (m : Fin 64) (c : Cmd) (s : State) : Res := s.hostCommand m c 0x0601 checkCheckpoint

/-- RESTORE (R336, R340). -/
def execRestore (m : Fin 64) (c : Cmd) (s : State) : Res := s.hostCommand m c 0x0602 checkRestore

/-- VERIFY_REEL (R331). -/
def execVerifyReel (m : Fin 64) (c : Cmd) (s : State) : Res := s.hostCommand m c 0x0603 checkVerifyReel

/-- TENANT_CREATE (R259). -/
def execTenantCreate (m : Fin 64) (c : Cmd) (s : State) : Res := s.hostCommand m c 0x0701 checkTenantCreate

/-- ATTEST (R323). -/
def execAttest (m : Fin 64) (c : Cmd) (s : State) : Res := s.hostCommand m c 0x0702 checkAttest

/-- KEY_ROTATE (R319, R320). -/
def execKeyRotate (m : Fin 64) (c : Cmd) (s : State) : Res := s.hostCommand m c 0x0703 checkKeyRotate

/-- SCHED_LOAD (R33). -/
def execSchedLoad (m : Fin 64) (c : Cmd) (s : State) : Res := s.hostCommand m c 0x0801 checkSchedLoad

/-- GATE_LIST_LOAD (R282). -/
def execGateListLoad (m : Fin 64) (c : Cmd) (s : State) : Res := s.hostCommand m c 0x0802 checkGateListLoad

/-- SHAPER_SET (R284, R285). -/
def execShaperSet (m : Fin 64) (c : Cmd) (s : State) : Res := s.hostCommand m c 0x0803 checkShaperSet

/-- ENERGY_SET (R361). -/
def execEnergySet (m : Fin 64) (c : Cmd) (s : State) : Res := s.hostCommand m c 0x0804 checkEnergySet

/-- TRACE_CFG (R351). -/
def execTraceCfg (m : Fin 64) (c : Cmd) (s : State) : Res := s.hostCommand m c 0x0901 checkTraceCfg

/-- TRACE_TRIGGER (R353). -/
def execTraceTrigger (m : Fin 64) (c : Cmd) (s : State) : Res := s.hostCommand m c 0x0902 checkTraceTrigger

/-- HANG_DUMP (R358). -/
def execHangDump (m : Fin 64) (c : Cmd) (s : State) : Res := s.hostCommand m c 0x0903 checkHangDump State.hangNow

/-- COUNTERS_READ (R347). -/
def execCountersRead (m : Fin 64) (c : Cmd) (s : State) : Res := s.hostCommand m c 0x0904 checkCountersRead

/-- GROUP_JOIN (R290). -/
def execGroupJoin (m : Fin 64) (c : Cmd) (s : State) : Res := s.hostCommand m c 0x0A01 checkGroupJoin

/-- GROUP_SHRINK (R300). -/
def execGroupShrink (m : Fin 64) (c : Cmd) (s : State) : Res := s.hostCommand m c 0x0A02 checkGroupShrink

/-- ROUTE_MAP_SET (R194). -/
def execRouteMapSet (m : Fin 64) (c : Cmd) (s : State) : Res := s.hostCommand m c 0x0A03 checkRouteMapSet

/-- SHUTDOWN (R374). -/
def execShutdown (m : Fin 64) (c : Cmd) (s : State) : Res := s.hostCommand m c 0x0F01 checkShutdown

/-- BIST_RESULTS (R378). -/
def execBistResults (m : Fin 64) (c : Cmd) (s : State) : Res := s.hostCommand m c 0x0F02 checkBistResults

end Sys2Proof.Machine
end

