-- ==== Sys2Proof/Machine/Units.lean ====
section
/-! DEFINITION. Units of requests: admission into slots and abandonment, tokenization, look-ups, prefill slices, decode
steps, and what waits for ring room or a stall's hold (R37 to R42, R106, R126, R133 to R144, R153, R158). -/
namespace Sys2Proof.Machine

/-! ### Slots -/

/-- A staged table whose START_TICK has come; in a group one with the verdict GO (R35). DEDUCED (log 18). -/
def State.tableDue (s : State) : Bool := match s.tk.staged with
  | some g => decide (g.table.startTick ≤ s.tk.tick) && (!s.glb.inGroup || g.verdict = some true)
  | none => false

/-- Something that a commit point or a whorl boundary has made due comes before the next slot: a width change (R296), a
route map (R195), a staged table (R35), the whorl's settling (R363), an operating-point step (R367). DEDUCED (log 18). -/
def State.boundaryDue (s : State) : Bool :=
  (match s.grp.shrink with | some (_, c) => decide (c + 1 ≤ s.tk.tick) | none => false) ||
  (match s.ten.next with | some (_, t) => decide (t ≤ s.tk.tick) | none => false) ||
  s.tableDue ||
  (decide (s.tk.tick % 64 = 0) && decide (s.pwr.settled < s.tk.tick / 64)) ||
  (match s.pwr.chosen with | some (_, t) => decide (t ≤ s.tk.tick) | none => false)

/-- SLOT_START (R37): at the slot's start offset queued units of its class are admitted. Those that stay in the queue count
as skipped in this slot (R348), and a unit that only the tick's allowance refused counts for the tick (R380). -/
def execSlotStart (k : Fin 16) (s : State) : Res :=
  match s.row[k.val]? with
  | none => .next s
  | some e =>
    if !s.ticking || s.tk.awaited || s.boundaryDue || s.tk.windowOpen || s.tk.startUs + e.startUs < s.timeUs ||
      s.tk.slots.any (fun x => x.1 = k.val) then .next s else
    let s := s.atTime (s.tk.startUs + e.startUs)
    let slots : List (Nat × Nat) := s.tk.slots ++ [(k.val, e.energyUj)]
    let s := { s with tk.slots := slots }.admission k.val
    let left := s.work.queue.filter fun u => u.cls = e.cls
    let s := if left.isEmpty then s else s.count 1 (4 * (e.cls.code - 1) + 3) left.length
    .next { s with tk.refused := s.tk.refused || left.any fun u => s.tk.allowLeft < (s.sized u).est }

/-- SLOT_END (R40): every unit that the slot still runs is abandoned. DESIGN CHOICE (log 12, 112). -/
def execSlotEnd (k : Fin 16) (s : State) : Res :=
  match s.row[k.val]? with
  | none => .next s
  | some e =>
    if !s.ticking || !(s.tk.slots.any fun x => x.1 = k.val) then .next s else
    let s := s.atTime (s.tk.startUs + e.startUs + e.budgetUs)
    let s := (s.work.running.filter fun r => r.1 = k.val).foldl (fun s r => s.abandonUnit r.1 r.2) s
    let slots : List (Nat × Nat) := s.tk.slots.filter fun x => x.1 != k.val
    .next { s with tk.slots := slots }

/-! ### Finishing -/

/-- A running unit finishes with its effects (R45, R48, R293); system work has its effect with its last piece (R39). -/
def State.finish (s : State) (k : Nat) (u : UnitRec) (effs : List Effect) : State :=
  let effs := if u.left = 0 then effs else []
  s.finishUnit k u effs (if s.grp.n ≤ 1 then [] else s.mirrorOf (s.applyItem 1 ⟨some u, k, u.session, effs⟩).1 effs)

/-- The work of the running unit in place `i` of the running list, where it is of the kind that `f` takes: it finishes with
the effects that `f` gives, or is abandoned at once where it gives none. No running unit of that kind: nothing happens. -/
def State.runUnit (s : State) (i : Nat) (f : UnitKind → Option (Option (List Effect))) : State :=
  match s.runningAt i with
  | none => s
  | some (k, u) => match f u.kind with
    | none => s
    | some (some effs) => s.finish k u effs
    | some none => s.abandonUnit k u

/-- The events that end a request by a unit's result; END's other fields are filled in at its commit (R164, R250). -/
def endEvents (r session : Nat) (st : Status) (reason : Nat) : List Effect :=
  [.reqDone r st reason, .spool session 0x07 0 (toLE 4 r ++ toLE 1 reason)]

/-- The requests bound to a model end with a status (R298), each by an item of its own (R51). DEDUCED (log 37). -/
def State.endBound (s : State) (d : Digest) (st : Status) : State :=
  (s.ss.reqs.filter fun e => ((Tb.get s.ss.sessions e.2.session).map (·.model)) = some d).foldl (fun s e =>
    s.stage (s.records e.1 e.2.pendingToks true ++ endEvents e.1 e.2.session st 0) (some e.2.session)) s

/-! ### Tokenization and look-up -/

/-- The effects of a tokenization unit (R143, R144): its tokens, and with those of the last byte the INPUT and GLOBAL
entries; a text that is too long ends the request (R138). -/
def State.tokenizeEffects (s : State) (r : Nat) : Option (List Effect) := do
  let q ← Tb.get s.ss.reqs r
  let x ← Tb.get s.ss.sessions q.session
  let v ← s.vocabFor x.model
  let a ← s.archOf x
  let n := admitTake v q.text
  let toks := tokenize v (q.text.take n)
  let all := q.textTokens ++ toks
  let len := x.hist.length
  if n < q.text.length then return [.tokenized r n toks]
  if a.maxPos < len + all.length + 1 then return endEvents r q.session .eLength 0
  if !(q.inputGlobals.all fun g => len ≤ g && g < len + all.length) then return endEvents r q.session .eRange 0
  return [.tokenized r n toks] ++ ((inputEntries len all).map fun p => .spool q.session 0x03 0 p) ++
    (if q.inputGlobals.isEmpty then [] else [.spool q.session 0x04 0 (payGlobal q.inputGlobals)])

/-- TOKENIZE (R144). The vocabulary cache's hits and misses are free values (R146, R348). -/
def execTokenize (u : Nat) (s : State) : Res :=
  match (s.runningAt u).map fun (e : Nat × UnitRec) => e.2.kind with
  | some (.tokenize _) =>
    let d := s.drawFree
    let s := (d.2.count 4 0 (d.1.toNat % 2 ^ 32)).count 4 1 (d.1.toNat / 2 ^ 32 % 2 ^ 32)
    .next (s.runUnit u fun k => match k with | .tokenize r => some (s.tokenizeEffects r) | _ => none)
  | _ => .next s

/-- The events that the completing commit of a recompute writes (R187, R340): STALL_FREE or HELD_DISCARD, REVIVE, and the
completion of REVIVE, or of RESTORE under ONE_SHARD. -/
def State.rebuildEvents (s : State) (idx : Nat) (rb : Rebuild) : List Effect :=
  (rb.gone.map fun e => .spool idx e.1 0 e.2) ++
  (match rb.entry with | some (id, mode, src) => [.spool idx 0x0F 0 (payRevive id mode src)] | none => []) ++
  (match rb.cmd with
    | some c => [.complete c .ok (toLE 8 (match rb.entry with | some (_, 3, _) => rb.step | _ => s.handleAt idx))]
    | none => [])

/-- Input positions of the first turn of a spool (R187). -/
def firstTurnInput (es : List Bytes) : Nat :=
  let after := (es.dropWhile fun e => entryType e ≠ 0x02).drop 1
  ((after.takeWhile fun e => entryType e ≠ 0x02).map fun e => if entryType e = 0x03 then fieldAt e 20 4 else 0).sum

/-- The effects of a look-up (R126, R140, R187): it goes no further than CONDENSE_AT; a rebuild looks under the key of the first turn, no further than that turn's
input and the first switch of format. DEDUCED (log 64). -/
def State.lookupEffects (s : State) (idx : Nat) : Option (List Effect) := do
  let x ← Tb.get s.ss.sessions idx
  let a ← s.archOf x
  let rb := Tb.get s.ss.rebuilds idx
  let key := s.lookupKey idx x
  let most := match rb with
    | some b => Nat.min (Nat.min b.target (firstTurnInput x.spool)) ((b.formats.min?).getD b.target) / 64
    | none => match Tb.get s.ss.reqs x.reqId with
      | some q => (if !x.condensed && x.kvlen < q.condenseAt then Nat.min (x.hist.length - 1) q.condenseAt
          else x.hist.length - 1) / 64
      | none => (x.hist.length - 1) / 64
  let path := match s.rootOf key with
    | some n => s.treePath n x.hist x.globals 0 most
    | none => []
  let upto := 64 * path.length
  let fmt : List Effect := match rb, Tb.get s.ss.reqs x.reqId with
    | none, some q => if !x.condensed && 0 < upto && upto = q.condenseAt
        then [.spool idx 0x0C 0 (payFormat 1 x.hist.length upto)] else []
    | some _, _ => if 0 < upto && s.switchesAt x upto then [.spool idx 0x0C 0 (payFormat 1 x.hist.length upto)] else []
    | none, none => []
  return [.lookedUp idx (path.map fun n => (n.id, n.gen)) (pathPages path a.layers) upto] ++ fmt ++ match rb with
    | some b => if b.target ≤ upto then s.rebuildEvents idx b else []
    | none => []

/-- PREFIX_LOOKUP (R126). -/
def execPrefixLookup (u : Nat) (s : State) : Res :=
  .next (s.runUnit u fun k => match k with | .lookup i => some (s.lookupEffects i) | _ => none)

/-! ### Prefill -/

/-- The keys that encrypted pages name are held (R314): else the slot and generation that are missing. -/
def State.lostKey (s : State) (pages : List Nat) : Option (Nat × Nat) :=
  pages.findSome? fun p => match Tb.get s.kv.pages p with
    | some p => if p.enc && !(match Tb.get s.sec.slots p.keySlot with | some k => decide (k.gen = p.keyGen) | none => false)
        then some (p.keySlot, p.keyGen) else none
    | none => none

/-- The keys that a session's encrypted parts name are held (R314): else the slot and generation that are missing. -/
def State.missingKey (s : State) (x : Session) : Option (Nat × Nat) := s.lostKey ((x.pageMap.flatMap id).map (·.2))

/-- A part of the session lies in a page that a re-encryption unit has marked BUSY until its commit (R218, R321). -/
def State.partBusy (s : State) (x : Session) : Bool :=
  let sweeps := (s.work.running.map (·.2.kind) ++ s.work.done.filterMap fun i => i.unit.map (·.kind)).filterMap fun k =>
    match k with | .reencrypt t j => some (t, j) | _ => none
  sweeps.any fun w => w.1 = x.tenant && (x.pageMap.flatMap id).any fun e => match Tb.get s.kv.pages e.2 with
    | some p => p.enc && p.keySlot = w.2
    | none => false

/-- A unit that reads a part whose key is missing is abandoned with a KEY_MISS record (R314). -/
def State.noteKeyMiss (s : State) (i : Nat) : State :=
  match (s.runningAt i).bind fun e => (e.2.session.bind fun j => Tb.get s.ss.sessions j).bind s.missingKey with
  | some (k, g) => s.traceRec 0x8007 16 (toLE 2 k ++ toLE 4 g)
  | none => s

/-- The adapter of a digest, ready to evaluate (R97): a loaded version, or, where it is gone, an image of which nothing is held. -/
def State.adapterBy (s : State) (d : Digest) : Option Fwd.Adapter :=
  if d = 0 then none else
  match s.img.adapters.find? fun a => a.digest = d with
  | some a => some a.fwd
  | none => some ⟨adapterOf (Config.imageHeader d), fun o n => (List.range n).map fun j => Config.imageByte d (o + j)⟩

/-- The adapter version that a request is bound to (R100). -/
def State.adapterOfReq (s : State) (q : Req) : Option Fwd.Adapter :=
  q.adapter.bind fun k => (s.img.adapters.find? fun a => a.id = k.1 && a.ver = k.2).map (·.fwd)

/-- The KV of a run of positions added to a view (R87, R106, R108). -/
def runPositions (m : Fwd.Model) (x : Session) (ad : Nat → Option Fwd.Adapter) (kv : KvView) (from_ n : Nat) : KvView :=
  (List.range n).foldl (fun kv i =>
    (Fwd.position m (ad (from_ + i)) x.psize x.condensed x.globals (from_ + i) (x.hist.getD (from_ + i) 0) kv).2) kv

/-- The effects of a prefill slice (R106, R134, R140, R187): for a request it ends at LEN - 1 or at CONDENSE_AT; for a
rebuild at the target or at the next switch of format. None: a key is missing or a page is BUSY. -/
def State.prefillEffects (s : State) (idx : Nat) : Option (List Effect) := do
  let x ← Tb.get s.ss.sessions idx
  let m ← s.modelOf x.model
  if (s.missingKey x).isSome || s.partBusy x then none
  let fm := s.fwdModel m.2
  let view : KvView := if x.pageMap.isEmpty then List.replicate m.2.arch.layers [] else s.kvView x
  match Tb.get s.ss.rebuilds idx with
  | some rb =>
    let upto := s.sliceEnd idx x
    let rp := replayOf x.spool
    let kv := runPositions fm x (fun p => s.adapterBy (rp.adapterAt p)) view x.kvlen (upto - x.kvlen)
    return [.prefilled idx upto kv] ++ (if s.switchesAt x upto then [.spool idx 0x0C 0 (payFormat 1 x.hist.length upto)] else []) ++
      if upto = rb.target then s.rebuildEvents idx rb else []
  | none =>
    let q ← Tb.get s.ss.reqs x.reqId
    let switch := !x.condensed && x.kvlen < q.condenseAt
    let upto := s.sliceEnd idx x
    let kv := runPositions fm x (fun _ => s.adapterOfReq q) view x.kvlen (upto - x.kvlen)
    return [.prefilled idx upto kv] ++
      if switch && upto = q.condenseAt then [.spool idx 0x0C 0 (payFormat 1 x.hist.length upto)] else []

/-- PREFILL_SLICE (R106). -/
def execPrefillSlice (u : Nat) (s : State) : Res :=
  match (s.runningAt u).map fun (e : Nat × UnitRec) => e.2.kind with
  | some (.prefill _) =>
    .next ((s.noteKeyMiss u).runUnit u fun k => match k with | .prefill i => some (s.prefillEffects i) | _ => none)
  | _ => .next s

/-! ### Decode -/

/-- One position of a step's run: its hidden state, and the KV with it stored. -/
structure Ran where
  hl : List F32
  kv : KvView

/-- The run of a step (R133): the last token and the guesses, each position attending to those before it. Where the KV of
the first position is stored already, its kept residual state stands for it. -/
def runStep (m : Fwd.Model) (ad : Option Fwd.Adapter) (x : Session) (t : Nat) (kept : Option (List F32)) :
    KvView → Nat → List Nat → List Ran
  | _, _, [] => []
  | kv, j, tok :: rest =>
    let r : Ran := match kept with
      | some h => ⟨h, kv⟩
      | none => let p := Fwd.position m ad x.psize x.condensed x.globals (t + j) tok kv; ⟨p.1, p.2⟩
    r :: runStep m ad x t none r.kv (j + 1) rest

/-- What acceptance needs to know (R135). -/
structure StepCtx where
  model : Fwd.Model
  grammar : Option Grammar
  params : Sampling.Params
  seed : BitVec 128
  t : Nat
  remaining : Nat
  /-- The position after whose token acceptance ends for a switch of format (R140), 0 for none. -/
  lastPos : Nat

/-- The allowed tokens of a grammar state (R135): all of them without a grammar. -/
def StepCtx.mask (c : StepCtx) (g : Option GState) : List Nat :=
  match c.grammar, g with
  | some gr, some st => gr.mask st
  | _, _ => List.range c.model.arch.vocab

/-- The acceptance loop of R135 from place j on: `guesses` are x[j + 1] to x[k]. The answer is the accepted tokens, none of
them at the first place meaning a stall, and the grammar state after them. -/
def StepCtx.accept (c : StepCtx) : Nat → Option GState → List Ran → List Nat → List Nat × Option GState
  | _, g, [], _ => ([], g)
  | j, g, r :: rs, guesses =>
    let mk := c.mask g
    if mk.isEmpty then ([], g) else
    let z := Fwd.logits c.model r.hl
    let tok := Sampling.sample c.params mk (fun i => z.getD i 0) c.seed (c.t + j + 1)
    let g := match c.grammar, g with | some gr, some st => some (gr.advance st tok) | _, g => g
    if c.model.arch.eosIds.contains tok || j + 1 = c.remaining || c.lastPos = c.t + j + 1 then ([tok], g) else
    match guesses with
    | x :: xs => if x = tok then let p := c.accept (j + 1) g rs xs; (tok :: p.1, p.2) else ([tok], g)
    | [] => ([tok], g)

/-- The draft heads' guesses for the next step (R136). -/
def guessesOf (m : Fwd.Model) (width : Nat) (hl : List F32) : List Nat :=
  (List.range width).map fun d => let z := Fwd.draftLogits m (d + 1) hl; Sampling.guess m.arch.vocab fun i => z.getD i 0

/-- A step's output tokens as the request will hold them (R155, R342). -/
def State.newToks (s : State) (q : Req) (len : Nat) (acc : List Nat) : List OutTok :=
  acc.zipIdx.map fun (t, i) => ⟨len + i, t, s.tk.tick, false, q.replayed && q.out.length + i < q.hostProducer⟩

/-- The events of a step of a request (R137, R157, R162): with stop strings its records wait for the stop check. -/
def State.stepEvents (s : State) (r : Nat) (q : Req) (x : Session) (acc : List Nat) (kvlen : Nat) : List Effect :=
  let toks := s.newToks q x.hist.length acc
  let fin := s.decided q x acc
  let fmt : List Effect := if !x.condensed && q.condenseAt ≠ 0 && q.condenseAt = kvlen then
    [.spool q.session 0x0C 0 (payFormat 1 (x.hist.length + acc.length) kvlen)] else []
  let out : List Effect := [.spool q.session 0x05 (if toks.any (·.replayed) then 1 else 0) (payOutput x.hist.length acc)] ++ fmt
  if !q.stops.isEmpty then out else
  s.records r toks fin.isSome ++ out ++ match fin with
    | some w => endEvents r q.session .ok w.code
    | none => []

/-- The effects of a decode step (R133 to R137, R140, R153). None: a key is missing or a page is BUSY. A DCI turn has no records (R268). -/
def State.decodeEffects (s : State) (r : Nat) : Option (List Effect) := do
  let q ← Tb.get s.ss.reqs r
  let x ← Tb.get s.ss.sessions q.session
  let m ← s.modelOf x.model
  if (s.missingKey x).isSome || s.partBusy x then none
  let fm := s.fwdModel m.2
  let len := x.hist.length
  let t := len - 1
  let view : KvView := if x.pageMap.isEmpty then List.replicate m.2.arch.layers [] else s.kvView x
  let guesses := if q.firstStep then [] else x.guesses.take q.specWidth
  let kept := if x.kvlen = len then Tb.get x.residuals t else none
  let run := runStep fm (s.adapterOfReq q) x t kept view 0 (x.hist.getD t 0 :: guesses)
  let c : StepCtx := { model := fm, grammar := q.grammar, params := q.params, seed := x.seed, t := t
                       remaining := q.remaining m.2.arch.maxPos len
                       lastPos := if !x.condensed && x.kvlen < q.condenseAt then q.condenseAt else 0 }
  let res := c.accept 0 q.gstate run guesses
  let acc := res.1
  match run[acc.length - 1]? with
  | none => none
  | some top =>
    if acc.isEmpty then
      if q.stops.isEmpty then return [.stalled r] ++ endEvents r q.session .ok 5
      return [.decoded r [] view x.kvlen [] q.gstate []]
    let kvlen := t + acc.length
    let resid : Tbl (List F32) := (run.take acc.length).zipIdx.map fun (p, j) => (t + j, p.hl)
    let more := if (s.decided q x acc).isSome then [] else guessesOf fm q.specWidth top.hl
    return [.decoded r acc top.kv kvlen resid res.2 more] ++
      match q.dci with
      | some _ => [.spool q.session 0x05 0 (payOutput len acc)]
      | none => s.stepEvents r q x acc kvlen

/-- DECODE_STEP (R135). -/
def execDecodeStep (u : Nat) (s : State) : Res :=
  match (s.runningAt u).map fun (e : Nat × UnitRec) => e.2.kind with
  | some (.decode _) =>
    .next ((s.noteKeyMiss u).runUnit u fun k => match k with | .decode r => some (s.decodeEffects r) | _ => none)
  | _ => .next s

/-! ### The next unit, ring room, the stall's hold -/

/-- Free records of a request's ring (R262). -/
def Req.ringFree (q : Req) : Nat := q.ringCount - Nat.min q.ringCount ((q.producer + 2 ^ 32 - q.consumer) % 2 ^ 32)

/-- The ring has the room that R158 asks for; a DCI turn has no ring. -/
def Req.hasRoom (q : Req) : Bool :=
  q.dci.isSome || q.specWidth + 1 + (q.pendingToks.length + q.delayed.length) ≤ q.ringFree

/-- The request's next DECODE unit is to be made: it decodes, nothing ends it, and it has no unit yet. -/
def State.wantsDecode (s : State) (r : Nat) (q : Req) : Bool :=
  q.phase = .decode && q.heldReason.isNone && q.cancel.isNone && !Tb.has s.ss.rebuilds q.session &&
  !s.hasUnit (· == .decode r)

/-- DECODE_UNIT_CREATE (R158, R37): just after a commit point. A unit made with the commit that made the request ready has
that commit's stamp; one made later has the stamp tick ‖ 0xFFFF of the commit before. Without room the request waits.
DESIGN CHOICE (log 106). -/
def execDecodeUnitCreate (r : Nat) (s : State) : Res :=
  match Tb.get s.ss.reqs r with
  | none => .next s
  | some q =>
    if !s.ticking || !s.wantsDecode r q then .next s else
    let t := (Tb.get s.ss.sessions q.session).map (·.tenant)
    let len := ((Tb.get s.ss.sessions q.session).map (·.hist.length)).getD 0
    if q.hasRoom then
      let prev := s.tk.tick - 1
      let stamp := if q.unitStamp / 65536 = prev && q.ringWaitUs.isNone then q.unitStamp else stampOf prev 0xFFFF
      .next ((s.addUnit (.decode r) t (some q.session) len stamp true).updReq r fun q => { q with ringWaitUs := none })
    else .next (s.updReq r fun q => { q with ringWaitUs := some (q.ringWaitUs.getD s.tk.startUs) })

/-- RING_ROOM_TIMEOUT (R158): after 10 s of waiting the request completes with E_TIMEOUT at the coming commit point, its
records with it. -/
def execRingRoomTimeout (r : Nat) (s : State) : Res :=
  match Tb.get s.ss.reqs r with
  | none => .next s
  | some q => match q.ringWaitUs with
    | none => .next s
    | some w =>
      if q.hasRoom || s.tk.startUs + s.tickUs < w + 10000000 || !s.wantsDecode r q then .next s else
      .next ((s.updReq r fun q => { q with ringWaitUs := none }).stage
        (s.records r q.pendingToks true ++ endEvents r q.session .eTimeout 0) (some q.session))

/-- STALL_HOLD_EXPIRY (R153): the held entry is freed at the coming commit point with a STALL_FREE entry, unless a RESUME
or a CANCEL of the tick has come before it. -/
def execStallHoldExpiry (r : Nat) (s : State) : Res :=
  match Tb.get s.view.ss.reqs r with
  | none => .next s
  | some q => match q.stallUntilUs with
    | none => .next s
    | some d =>
      if q.phase ≠ .stalled || q.cancel.isSome || s.holdEnded r || s.tk.startUs + s.tickUs < d then .next s else
      .next ((s.updReq r fun q => { q with stallUntilUs := none }).stage [.spool q.session 0x09 0 (toLE 4 r)] (some q.session))

/-- The events with which an ended unit's owner completes (R42). DEDUCED (log 102). -/
def State.ownerEvents (s : State) (u : UnitRec) : List Effect :=
  let byReq (r : Nat) : List Effect := match Tb.get s.ss.reqs r with
    | some q => s.records r q.pendingToks true ++ endEvents r q.session .eTimeout 0
    | none => []
  let bySess (i : Nat) : List Effect := match Tb.get s.ss.rebuilds i with
    | some rb =>
      let shard := match rb.entry with | some (_, 3, _) => true | _ => false
      (match s.ss.revivals.find? fun e => e.2.session = i with
        | some e => [.reviveFail e.1 .eTimeout]
        | none => [.rebuildFail i shard]) ++ (match rb.cmd with
        | some c => [.complete c .eTimeout []]
        | none => byReq (((Tb.get s.ss.sessions i).map (·.reqId)).getD 0))
    | none => byReq (((Tb.get s.ss.sessions i).map (·.reqId)).getD 0)
  match u.kind with
  | .tokenize r => byReq r
  | .decode r => byReq r
  | .lookup i => bySess i
  | .prefill i => bySess i
  | .parkTile c _ => s.copyFailEffects c .eTimeout
  | .reviveTile v _ => s.reviveFailEffects v .eTimeout
  | .searchPass g _ => (((Tb.get s.st.groups g).map (·.queries)).getD []).flatMap fun k =>
      [.queryEnd k] ++ (((Tb.get s.st.queries k).bind (·.cmd)).map fun c => .complete c .eTimeout []).toList
  | .chkptTile _ => s.chkptGiveUp .eTimeout
  | .compact k => (((Tb.get s.st.stores k).bind (·.compact)).bind (·.2.1)).map (fun c => .complete c .eTimeout []) |>.toList
  | .sweep p => ((Tb.get s.kv.purges p).bind (·.cmd)).map (fun c => .complete c .eTimeout []) |>.toList
  | .modelFree k => [.modelActive k] ++ (((Tb.get s.img.models k).bind (·.cmd)).map fun c => .complete c .eTimeout []).toList
  | .sessionMove i => (s.grp.shrinkCmd.map fun c => (.complete c.1 .eTimeout [] : Effect)).toList ++
      byReq (((Tb.get s.ss.sessions i).map (·.reqId)).getD 0)
  | .reshard k c => (s.grp.shrinkCmd.map fun c => (.complete c.1 .eTimeout [] : Effect)).toList ++ [.reshard k c none]
  | _ => []

/-- What an ended unit leaves undone (R42, "no effect"): a compaction is given up, and a sweep is over.
DEDUCED (log 102). -/
def State.dropOwner (s : State) (u : UnitRec) : State :=
  match u.kind with
  | .compact k => s.updStore k fun st => { st with compact := none }
  | .sweep p => { s with kv.purges := Tb.del s.kv.purges p }
  | .sessionMove i => { s with grp.moves := Tb.del s.grp.moves i, grp.shrinkCmd := none }
  | .reshard _ _ => { s with grp.shrinkCmd := none }
  | _ => s

/-- UNIT_ENDED (R42): a unit abandoned 256 times in a row is gone, and its owner completes with E_TIMEOUT at the coming
commit point. `u` is its place in the queue. -/
def execUnitEnded (u : Nat) (s : State) : Res :=
  match s.work.queue[u]? with
  | none => .next s
  | some v =>
    if v.abandons < 256 then .next s else
    let s := s.traceRec 0x8001 17 (toLE 1 v.kind.code ++ toLE 1 v.cls.code ++ toLE 1 v.lastSlot)
    let s := { s with work.queue := s.work.queue.filter fun w => w.key != v.key || w.kind != v.kind }
    .next ((s.dropOwner v).stage (s.ownerEvents v) v.session)

end Sys2Proof.Machine
end

