-- ==== Sys2Proof/Machine/Background.lean ====
section
/-! DEFINITION. Background units: tiles of parks, handoffs, revivals and checkpoints, search passes, compaction, pruning,
sweeps, freeing, moves and re-shards after a width change (R96, R101, R128, R129, R184 to R187, R228, R233, R297, R298, R321,
R334, R335, R376). -/
namespace Sys2Proof.Machine

/-- A unit by its place among the running units and, after them, the queued ones: its slot is none while it is queued. -/
def State.unitAt (s : State) (i : Nat) : Option (Option Nat × UnitRec) :=
  match s.work.running[i]? with
  | some (k, u) => some (some k, u)
  | none => (s.work.queue[i - s.work.running.length]?).map fun u => (none, u)

/-- A unit that its owner's failure ends leaves the device without effect; its credits are returned (R44). -/
def State.dropUnit (s : State) (k : Option Nat) (u : UnitRec) : State :=
  let s := { s with
    work.running := s.work.running.filter fun e => e.2.key != u.key || e.2.kind != u.kind
    work.queue := s.work.queue.filter fun v => v.key != u.key || v.kind != u.kind }
  match k with | some _ => s.returnCredits u | none => s

/-! ### Parks and handoffs -/

/-- The effects of a tile of a copy (R184, R189): the write, and with the last tile what completes the copy. A handoff's
tile goes to the peer, and OFFER follows the last one. -/
def State.parkTileEffects (s : State) (c i stamp : Nat) : Option (List Effect) := do
  let k ← Tb.get s.ss.copies c
  let t ← k.tiles[i]?
  if (s.lostKey (k.pages.map (·.1))).isSome then return s.copyFailEffects c .eInternal
  let last := s.copyTilesDone c + 1 = k.tiles.length
  let own := s.samples k.session
  let write (st off : Nat) : List Effect := match own, s.parkStore st stamp with
    | true, some p => [.hostWrite p.space (p.base + off + t.1) t.2]
    | _, _ => []
  match k.for_ with
  | .park st off res port _ =>
    return write st off ++ [.copyTile c] ++ if !last then [] else
      (if own then [.hostWrite port res (digestBytes k.digest)] else []) ++
        (k.cmd.map fun m => (.complete m .ok (toLE 8 k.hankLen ++ toLE 8 k.hankId) : Effect)).toList
  | .epochPark st off => return write st off ++ [.copyTile c]
  | .handoff h =>
    let src ← Tb.get s.ss.srcs h
    let tile : List Effect := if own then [.send (.device src.dst) (.hankTile h (t.1 / 65536) t.2)] else []
    return [.copyTile c] ++ tile ++ if !last then [] else
      [.send (.device src.dst) (.handoff (handoffMsg 1 0 h (s.handleAt k.session) 0 k.hankLen k.digest src.timeoutMs))]
  | .chkpt => return [.copyTile c]

/-- The place that a tile's transfer reaches outside the device. -/
def State.tilePlace (s : State) (u : UnitRec) : Option (HostSpace × Nat × Nat) :=
  match u.kind with
  | .parkTile c i => do
    let k ← Tb.get s.ss.copies c
    let t ← k.tiles[i]?
    match k.for_ with
    | .park st off .. => (s.parkStore st u.key.stamp).map fun p => (p.space, p.base + off + t.1, t.2.length)
    | .epochPark st off => (s.parkStore st u.key.stamp).map fun p => (p.space, p.base + off + t.1, t.2.length)
    | _ => none
  | .reviveTile v i => do
    let r ← Tb.get s.ss.revivals v
    (s.parkStore r.store u.key.stamp).map fun p => (p.space, p.base + r.offset + 65536 * (1 + i), 65536)
  | .chkptTile i => do
    let k ← s.chkpt
    let t ← k.tiles[i]?
    (s.parkStore k.store u.key.stamp).map fun p => (p.space, p.base + k.offset + s.glb.rank * k.limit + 65536 * t.1, t.2.length)
  | .reshard slot ch => do
    let m ← Tb.get s.img.models slot
    return (.port0, m.addr + chunkOffset m.hdr ch, chunkLen m.hdr ch + if m.hdr.sealed_ then 16 else 0)
  | _ => none

/-- A tile unit at its place in the running list: it pauses where a page of it is known not present (R217), else `f` says its
effects; none where the transfer does not complete. -/
def State.runTile (s : State) (i : Nat) (f : UnitKind → Nat → Option (List Effect)) : State :=
  match s.runningAt i with
  | none => s
  | some (k, u) => match f u.kind u.key.stamp with
    | none => s
    | some effs => match s.tilePlace u with
      | some (sp, a, n) => match s.absentPage sp a n with
        | some g => s.pauseUnit k u sp g
        | none => s.finish k u effs
      | none => s.finish k u effs

/-- A copy that reads a part whose key is missing fails with a KEY_MISS record (R314). -/
def State.noteCopyMiss (s : State) (i : Nat) : State :=
  match s.runningAt i with
  | some (_, u) => match u.kind with
    | .parkTile c _ => match s.lostKey ((((Tb.get s.ss.copies c).map (·.pages)).getD []).map (·.1)) with
      | some (k, g) => s.traceRec 0x8007 16 (toLE 2 k ++ toLE 4 g)
      | none => s
    | _ => s
  | none => s

/-- PARK_TILE (R184). -/
def execParkTile (u : Nat) (s : State) : Res :=
  .next ((s.noteCopyMiss u).runTile u fun k stamp => match k with | .parkTile c i => s.parkTileEffects c i stamp | _ => none)

/-- PARK_TILE_TIMEOUT (R184): a tile write that is not acknowledged within 100 ms fails the copy at the coming commit point.
`u` is the unit's place among the running and then the queued units; a paused unit's time does not count (R219).
DESIGN CHOICE (log 63). -/
def execParkTileTimeout (u : Nat) (s : State) : Res :=
  match s.unitAt u with
  | some (k, v) => match v.kind, v.paused with
    | .parkTile c _, none => .next ((s.dropUnit k v).stage (s.copyFailEffects c .eTimeout) v.session)
    | _, _ => .next s
  | none => .next s

/-! ### Revivals -/

/-- The effects of a tile of a revival (R185 to R187): a tag that fails gives E_AUTH, a spool chain that differs E_DIGEST;
with the last tile of a full revival the REVIVE entry and the completion. None: the tile cannot be read.
DESIGN CHOICE (log 141). -/
def State.reviveTileEffects (s : State) (v i stamp : Nat) : Option (List Effect) := do
  let r ← Tb.get s.ss.revivals v
  let p ← s.parkStore r.store stamp
  let data ← s.readStore p (r.offset + 65536 * (1 + i)) 65536
  match openTile r.key r.header r.tags i data with
  | none => return s.reviveFailEffects v .eAuth
  | some d =>
    let plain := Tb.set (s.revivalTilesDone v) i d
    if plain.length < (revivalTiles r.header r.recompute).length then return [.reviveTile v i d]
    let m := s.modelOf (digestOf (sliceAt r.header 96 48))
    let full : Revival := { r with plain := plain }
    match full.read ((m.map (·.2.arch.headDim)).getD 128) ((m.map (·.2.arch.kvHeads)).getD 1) with
    | none => return s.reviveFailEffects v .eDigest
    | some w =>
      if chainDigest w.entries ≠ digestOf (sliceAt r.header 144 48) then return s.reviveFailEffects v .eDigest
      if let some st := w.fault then return s.reviveFailEffects v st
      if r.recompute then return [.reviveTile v i d]
      let x ← Tb.get s.ss.sessions r.session
      let keep := s.keepsRequest r.header x.tenant
      let gone := s.goneEntries (w.request.getD (zeros 64)) keep (if r.fresh then none else some x)
      return [.reviveTile v i d] ++ (gone.map fun e => .spool r.session e.1 0 e.2) ++
        [.spool r.session 0x0F 0 (payRevive (fieldAt r.header 16 8) 0 (fieldAt r.header 216 8))] ++
        (r.cmd.map fun c => (.complete c .ok (toLE 8 (s.handleAt r.session)) : Effect)).toList

/-- REVIVE_TILE (R185). -/
def execReviveTile (u : Nat) (s : State) : Res :=
  .next (s.runTile u fun k stamp => match k with | .reviveTile v i => s.reviveTileEffects v i stamp | _ => none)

/-- REVIVE_TILE_TIMEOUT (R185): a tile read not complete within 100 ms fails the revival at the coming commit point.
DESIGN CHOICE (log 63). -/
def execReviveTileTimeout (u : Nat) (s : State) : Res :=
  match s.unitAt u with
  | some (k, w) => match w.kind, w.paused with
    | .reviveTile v _, none => .next ((s.dropUnit k w).stage (s.reviveFailEffects v .eTimeout) w.session)
    | _, _ => .next s
  | none => .next s

/-! ### Search -/

/-- SEARCH_PASS (R233): the pass's candidates join the group's running top-k; the next pass joins the queue at once. -/
def execSearchPass (u : Nat) (s : State) : Res :=
  match s.runningAt u with
  | some (k, w) => match w.kind with
    | .searchPass g p =>
      let t := s.passTops g p
      .next ((s.stagePass g p t.1 t.2).finish k w [.passDone g p t.1])
    | _ => .next s
  | none => .next s

/-- STORE_QUERY_DEADLINE (R231): a result that the coming commit point, the first at or after the deadline, does not write
is given up there with E_TIMEOUT. -/
def execStoreQueryDeadline (q : Nat) (s : State) : Res :=
  match Tb.get s.st.queries q with
  | none => .next s
  | some x =>
    if !s.ticking || s.tk.startUs + s.tickUs < x.deadlineUs ||
      s.work.steward.any (fun i => i.effs.any fun e => match e with | .queryEnd k => k = q | _ => false) then .next s
    else .next (s.stage ([.queryEnd q] ++ (x.cmd.map fun c => (.complete c .eTimeout [] : Effect)).toList))

/-! ### Checkpoints -/

/-- The effects of a tile of this member's shard (R334): with the header tile a member that did not accept the command
reports its shard to the one that did. -/
def State.chkptTileEffects (s : State) (i stamp : Nat) : Option (List Effect) := do
  let k ← s.chkpt
  let t ← k.tiles[i]?
  let p ← s.parkStore k.store stamp
  let done := k.written + ((s.work.done ++ s.work.deferred).flatMap (·.effs)).countP fun e => match e with
    | .chkptTile _ => true | _ => false
  let report : List Effect := if done + 1 = k.tiles.length && k.accepting ≠ s.glb.rank then
    [.send (.rank k.accepting) (.move (.shard k.digest k.shardLen k.sessions))] else []
  return [.hostWrite p.space (p.base + k.offset + s.glb.rank * k.limit + 65536 * t.1) t.2, .chkptTile i] ++ report

/-- CHKPT_TILE (R334). -/
def execChkptTile (u : Nat) (s : State) : Res :=
  .next (s.runTile u fun k stamp => match k with | .chkptTile i => s.chkptTileEffects i stamp | _ => none)

/-- CHKPT_TILE_TIMEOUT (R335): a tile write not acknowledged within 100 ms fails the checkpoint.
DESIGN CHOICE (log 63). -/
def execChkptTileTimeout (u : Nat) (s : State) : Res :=
  match s.unitAt u with
  | some (k, w) => match w.kind, w.paused with
    | .chkptTile _, none => .next ((s.dropUnit k w).stage (s.chkptGiveUp .eTimeout))
    | _, _ => .next s
  | none => .next s

/-- REEL_WRITE (R334): the accepting member, holding every member's report, writes the reel at the coming commit point and
CHECKPOINT completes; a reel that does not fit its buffer fails it (R335). -/
def execReelWrite (s : State) : Res :=
  match s.chkpt with
  | none => .next s
  | some k => match k.cmd with
    | none => .next s
    | some c =>
      let n := Nat.max s.grp.n 1
      let staged := s.work.steward.any fun i => i.effs.any fun e => match e with | .reelWrite => true | .chkptFail _ => true | _ => false
      if !s.ticking || staged || !((List.range n).all fun r => Tb.has k.reports r) then .next s else
      let len := reelLenOf n k.handoffs.length
      if k.reelLen < len then .next (s.stage (s.chkptGiveUp .eLength))
      else .next (s.stage [.reelWrite, .complete c .ok (toLE 4 len ++ zeros 4 ++ toLE 8 k.step)])

/-! ### HOUSE units -/

/-- COMPACT_BUILD (R228): the new main list becomes current at the commit, where every member's build commits, and COMPACT
completes with CSEQ. DESIGN CHOICE (log 36). -/
def execCompactBuild (u : Nat) (s : State) : Res :=
  .next (s.runUnit u fun k => match k with
    | .compact j => some ((Tb.get s.st.stores j).bind fun st => st.compact.map fun c =>
        [.compactDone j] ++ (c.2.1.map fun m => (.complete m .ok (toLE 8 c.1) : Effect)).toList)
    | _ => none)

/-- PRUNE (R128). -/
def execPrune (u : Nat) (s : State) : Res :=
  .next (s.runUnit u fun k => match k with | .prune t => some (some [.prune t]) | _ => none)

/-- PURGE_SWEEP (R129): PURGE completes with the sweep. -/
def execPurgeSweep (u : Nat) (s : State) : Res :=
  .next (s.runUnit u fun k => match k with
    | .sweep p => some (some ([.sweep p] ++
        (((Tb.get s.kv.purges p).bind (·.cmd)).map fun c => (.complete c .ok [] : Effect)).toList))
    | _ => none)

/-- PURGE_TIMEOUT (R129): a sweep not ended within 10 s: PURGE completes with E_TIMEOUT, and the sweep goes on. -/
def execPurgeTimeout (p : Nat) (s : State) : Res :=
  match Tb.get s.kv.purges p with
  | none => .next s
  | some x => match x.cmd with
    | none => .next s
    | some c =>
      if !s.ticking || s.tk.startUs + s.tickUs < x.deadlineUs then .next s else
      .next ({ s with kv.purges := Tb.upd s.kv.purges p fun x => { x with cmd := none } }.stage [.complete c .eTimeout []])

/-- REENCRYPTION_SWEEP (R321). DESIGN CHOICE (log 62). -/
def execReencryptionSweep (u : Nat) (s : State) : Res :=
  .next (s.runUnit u fun k => match k with | .reencrypt t j => some (some [.reencrypt t j]) | _ => none)

/-- MODEL_SHARD_FREE (R96): the slot is FREE and EVICT_MODEL completes. -/
def execModelShardFree (u : Nat) (s : State) : Res :=
  .next (s.runUnit u fun k => match k with
    | .modelFree j => some (some ([.modelFree j] ++
        (((Tb.get s.img.models j).bind (·.cmd)).map fun c => (.complete c .ok [] : Effect)).toList))
    | _ => none)

/-- ADAPTER_FREE (R101). -/
def execAdapterFree (u : Nat) (s : State) : Res :=
  .next (s.runUnit u fun k => match k with | .adapterFree i v => some (some [.adapterFree i v]) | _ => none)

/-- SESSION_MOVE (R297): a move that waits for a spool from another device has no occurrence yet. -/
def execSessionMove (u : Nat) (s : State) : Res :=
  .next (s.runUnit u fun k => match k with
    | .sessionMove i => match Tb.get s.grp.moves i, Tb.get s.ss.sessions i with
      | some m, some x => if s.moveReady i m then some (some ([.sessionMove i] ++ s.moveEntries i m x ++ s.moveSends i m x)) else none
      | _, _ => some (some [.sessionMove i])
    | _ => none)

/-- What a shard's tile that fails leads to, where its page is present. -/
def State.endFailed (s : State) (u : UnitRec) : State :=
  match u.kind with
  | .reshard slot c => match Tb.get s.img.models slot with
    | some m => if s.hostAbsent .port0 (m.addr + chunkOffset m.hdr c) then s else
      (match s.readChunk m c with | .ok _ => s | .error st => s.endBound m.digest st)
    | none => s
  | _ => s

/-- RESHARD_TILE (R298): a chunk new to this member's shard, from the image address; where it fails the model is FREE and
its bound requests complete with the status. DEDUCED (log 37). -/
def execReshardTile (u : Nat) (s : State) : Res :=
  let t := match s.runningAt u with | some (_, v) => if v.left = 0 then s.endFailed v else s | none => s
  .next (t.runTile u fun k _ => match k with
    | .reshard slot c => (Tb.get s.img.models slot).map fun m => match s.readChunk m c with
      | .ok b => [.reshard slot c (some b)]
      | .error _ => [.reshard slot c none]
    | _ => none)

/-- BIST_RESULT_UPKEEP (R376). -/
def execBistResultUpkeep (u : Nat) (s : State) : Res :=
  .next (s.runUnit u fun k => match k with | .bistUpkeep => some (some [.bistUpkeep]) | _ => none)

end Sys2Proof.Machine
end

