-- ==== Sys2Proof/Machine/Commands.lean ====
section
/-! DEFINITION. The host commands' own checks by opcode, for commands that another member has accepted (R168, R292) or that
are checked again (R293). -/
namespace Sys2Proof.Machine

/-- A command's own checks (R258). -/
abbrev OwnCheck := State → Ctx → Checked (List Effect)

/-- Groups 0x01 to 0x03. -/
def checkOf13 (op : Nat) : Option OwnCheck :=
  match op with
  | 0x0101 => some checkNegotiate
  | 0x0102 => some checkOpen
  | 0x0103 => some checkClose
  | 0x0104 => some checkQuery
  | 0x0201 => some checkLoadModel
  | 0x0202 => some checkEvictModel
  | 0x0203 => some checkLoadAdapter
  | 0x0204 => some checkRetireAdapter
  | 0x0205 => some checkLoadGrammar
  | 0x0206 => some checkLoadVocab
  | 0x0301 => some checkSessionCreate
  | 0x0302 => some checkSessionDestroy
  | 0x0303 => some checkPark
  | 0x0304 => some checkRevive
  | 0x0305 => some checkHandoffOffer
  | 0x0306 => some checkHandoffCommit
  | 0x0307 => some checkQueryOwner
  | 0x0308 => some checkAdopt
  | 0x0309 => some checkClaim
  | 0x030A => some checkPurge
  | _ => none

/-- Groups 0x04 to 0x06. -/
def checkOf46 (op : Nat) : Option OwnCheck :=
  match op with
  | 0x0401 => some checkSubmit
  | 0x0402 => some checkCancel
  | 0x0403 => some checkResume
  | 0x0404 => some checkRetract
  | 0x0501 => some checkStoreCreate
  | 0x0502 => some checkInsert
  | 0x0503 => some checkDelete
  | 0x0504 => some checkStoreQuery
  | 0x0505 => some checkCompact
  | 0x0601 => some checkCheckpoint
  | 0x0602 => some checkRestore
  | 0x0603 => some checkVerifyReel
  | _ => none

/-- Groups 0x07 to 0x0F. -/
def checkOf7F (op : Nat) : Option OwnCheck :=
  match op with
  | 0x0701 => some checkTenantCreate
  | 0x0702 => some checkAttest
  | 0x0703 => some checkKeyRotate
  | 0x0801 => some checkSchedLoad
  | 0x0802 => some checkGateListLoad
  | 0x0803 => some checkShaperSet
  | 0x0804 => some checkEnergySet
  | 0x0901 => some checkTraceCfg
  | 0x0902 => some checkTraceTrigger
  | 0x0903 => some checkHangDump
  | 0x0904 => some checkCountersRead
  | 0x0A01 => some checkGroupJoin
  | 0x0A02 => some checkGroupShrink
  | 0x0A03 => some checkRouteMapSet
  | 0x0F01 => some checkShutdown
  | 0x0F02 => some checkBistResults
  | _ => none

/-- The own checks of an opcode. -/
def checkOf (op : Nat) : Option OwnCheck := (checkOf13 op).orElse fun _ => (checkOf46 op).orElse fun _ => checkOf7F op

/-- What a command's acceptance changes at once (R163, R356). -/
def nowOf (op : Nat) (s : State) (x : Ctx) : State :=
  if op = 0x0402 then s.markCancel x else if op = 0x0903 then s.hangNow x else s

/-- A Steward command whose MIRROR_ACK did not come is checked again (R293). -/
def State.rerun (s : State) (id m : Nat) (c : Cmd) : State :=
  match checkOf (Cmd.op c) with
  | some f => s.runCommand (mboxFin m) id (Cmd.op c) c f (nowOf (Cmd.op c))
  | none => s

/-- Effects that only the accepting member makes (R104, R189). -/
def Effect.localOnly : Effect → Bool
  | .send _ (.handoff _) => true | .hostWrite .. => true | .complete .. => true | _ => false

/-- A command that another member has accepted is applied here with the tick's commit (R168): its checks are made again on
the same state, and what only the accepting member makes is left out. -/
def State.runForwarded (s : State) (rank : Nat) (c : Cmd) (body : Bytes) : State :=
  let x := s.forwardCtx rank c body
  match checkOf (Cmd.op c) with
  | none => s
  | some f => match f s.view x with
    | .error _ => s
    | .ok effs => nowOf (Cmd.op c) (s.stage (.fromRank rank :: groupVoteOf rank c ++ effs.filter fun e => !e.localOnly)) x

end Sys2Proof.Machine
end

