-- ==== Sys2Proof/Machine/Exchanges.lean ====
section
/-! DEFINITION. What loads, drains, group exchanges, vault writes and release keys wait for (R91, R92, R96, R292, R311,
R317, R333). -/
namespace Sys2Proof.Machine

/-- The coming commit point is the first at or after a time. DESIGN CHOICE (log 3); DEDUCED (log 13). -/
def State.pointReached (s : State) (t : Nat) : Bool := s.ticking && decide (t ≤ s.tk.startUs + s.tickUs)

/-! ### Loads -/

/-- EVICT_DRAIN_DEADLINE (R96): the coming commit point is the drain deadline; requests are counted there. -/
def execEvictDrainDeadline (slot : Fin 8) (s : State) : Res :=
  match Tb.get s.img.models slot.val with
  | none => .next s
  | some m =>
    if m.state == .retiring && s.pointReached m.drainUs then
      .next { s with img.models := Tb.set s.img.models slot.val { m with drainDue := true } }
    else .next s

/-- A loading model's read of a chunk has failed (R91): the slot is FREE with the coming commit; a group member reports
FAILED to the lowest rank, or, being it, aborts the load (R92). -/
def State.failLoad (s : State) (slot : Nat) (m : Model) (st : Status) : State :=
  let x := (s.exchangeBy m.digest).filter fun e => match e.2.what with | .model k => k = slot | _ => false
  let s := { s with img.models := Tb.set s.img.models slot { m with need := [], loaded := false }
                    img.exchanges := match x with | some e => Tb.del s.img.exchanges e.1 | none => s.img.exchanges }
  let tell : List Effect := if !s.glb.inGroup || !m.group then [] else
    if s.glb.rank = 0 then ((List.range s.grp.n).filter (· ≠ 0)).map fun r => .send (.rank r) (.abort m.digest)
    else [.send (.rank 0) (.failed m.digest st.code)]
  s.stage ([.modelFree slot] ++ (m.cmd.map fun c => (.complete c st [] : Effect)).toList ++ tell)

/-- MODEL_CHUNK_READ (R91): a chunk of the shard has been read and is checked; with the last one this device's part is
loaded. DEDUCED (log 101). -/
def execModelChunkRead (slot : Fin 8) (chunk : Nat) (s : State) : Res :=
  match Tb.get s.img.models slot.val with
  | none => .next s
  | some m =>
    if m.state != .loading || !m.need.contains chunk then .next s else
    if s.hostAbsent .port0 (m.addr + chunkOffset m.hdr chunk) then .next s else
    match s.readChunk m chunk with
    | .error st => .next (s.failLoad slot.val m st)
    | .ok b =>
      let need := m.need.filter (· != chunk)
      let m := { m with chunks := Tb.set m.chunks chunk b, need := need, loaded := need.isEmpty }
      let m := if need.isEmpty && m.group then { m with others := s.readOthers m } else m
      let s := { s with img.models := Tb.set s.img.models slot.val m }
      if !need.isEmpty || !m.group then .next s else
      match s.exchangeBy m.digest with
      | some (k, _) => .next (s.reportLoaded k)
      | none => .next s

/-- MODEL_CHUNK_TIMEOUT (R91): a chunk read not complete within 100 ms fails the load; a paused read's time does not count
(R219). -/
def execModelChunkTimeout (slot : Fin 8) (chunk : Nat) (s : State) : Res :=
  match Tb.get s.img.models slot.val with
  | none => .next s
  | some m =>
    if m.state != .loading || !m.need.contains chunk || s.hostAbsent .port0 (m.addr + chunkOffset m.hdr chunk) then .next s
    else .next (s.failLoad slot.val m .eTimeout)

/-- MODEL_ACTIVATE (R91): outside a group, the commit point of the tick in which the last chunk passed. -/
def execModelActivate (slot : Fin 8) (s : State) : Res :=
  match Tb.get s.img.models slot.val with
  | none => .next s
  | some m =>
    if m.state != .loading || !m.loaded || m.group then .next s else
    .next ({ s with img.models := Tb.set s.img.models slot.val { m with loaded := false } }.stage
      (([.modelActive slot.val] : List Effect) ++ (m.cmd.map fun c => (.complete c .ok (toLE 1 slot.val) : Effect)).toList))

/-! ### Group exchanges -/

/-- GROUP_WAIT_TIMEOUT (R92): the lowest rank aborts; what it had loaded itself is undone with E_TIMEOUT. -/
def execGroupWaitTimeout (x : Nat) (s : State) : Res :=
  match Tb.get s.img.exchanges x with
  | none => .next s
  | some e =>
    if s.glb.rank ≠ 0 || e.applyTick.isSome || !s.pointReached e.waitUs then .next s else
    .next ({ s with img.exchanges := Tb.del s.img.exchanges x }.stage (e.undo .eTimeout ++ s.abortSends e.digest))

/-- What a forwarded command does where it is applied (R292): its checks are made on the state as it is then. -/
def State.forwardedEffects (s : State) (x : Exchange) (op : Nat) (c : Cmd) (body : Bytes) : List Effect :=
  let y := { s.forwardCtx x.accepting c body with id := x.cmd.getD noCmd }
  match checkOf op with
  | none => []
  | some f => match f s.view y with
    | .ok effs => effs
    | .error e => (x.cmd.map fun k => (.complete k e.1 e.2 : Effect)).toList

/-- GROUP_APPLY (R92, R292, R333): the coming commit point is the one that ACTIVATE names; the change takes effect there. -/
def execGroupApply (x : Nat) (s : State) : Res :=
  match Tb.get s.img.exchanges x with
  | none => .next s
  | some e => match e.applyTick with
    | none => .next s
    | some t =>
      if !s.ticking || s.tk.tick < t then .next s else
      let s := { s with img.exchanges := Tb.del s.img.exchanges x }
      let own : List Effect := match e.what with
        | .forward op c body => s.forwardedEffects e op c body
        | .checkpoint => [.chkptOrder]
        | _ => []
      .next (s.stage (e.effects own))

/-! ### The vault and release keys -/

/-- The vault write of a command accepted in the running tick is over within the tick (R311): its job is staged as finished, and what
follows from it. DEDUCED (log 54). -/
def State.finishStaged (s : State) : State :=
  let job (i : Item) : Option VaultJob := i.effs.findSome? fun e => match e with | .vaultStart j => if j.finished then none else some j | _ => none
  match s.work.steward.findIdx? fun i => (job i).isSome with
  | none => s
  | some k =>
    let f (e : Effect) : Effect := match e with | .vaultStart j => .vaultStart { j with finished := true } | e => e
    let cmd := ((s.work.steward[k]?).bind job).bind (·.cmd)
    { s with work.steward := s.work.steward.modify k fun i => { i with effs := i.effs.map f } }.stage
      (([.vaultDone] : List Effect) ++ (cmd.map fun c => (.complete c .ok [] : Effect)).toList)

/-- VAULT_WRITE_DONE (R311): the oldest vault write has finished; its change and its command's completion come with the
coming commit. -/
def execVaultWriteDone (s : State) : Res :=
  match s.sec.vaultJobs.findIdx? fun j => !j.finished with
  | none => .next s.finishStaged
  | some i =>
    let cmd := (s.sec.vaultJobs[i]?).bind (·.cmd)
    let jobs := s.sec.vaultJobs.modify i fun j => { j with finished := true }
    .next ({ s with sec.vaultJobs := jobs }.stage (([.vaultDone] : List Effect) ++ (cmd.map fun c => (.complete c .ok [] : Effect)).toList))

/-- RELEASE_KEY_EXPIRY (R317): 600 s after its report a release key's private half is gone. -/
def execReleaseKeyExpiry (id : Word64) (s : State) : Res :=
  .next { s with sec.releases := s.sec.releases.filter fun r => r.id ≠ id.toNat || s.timeUs < r.expiryUs }

end Sys2Proof.Machine
end

