-- ==== Sys2Proof/Machine/Handoffs.lean ====
section
/-! DEFINITION. Route map activation, drain and hold deadlines, and the handoff protocol's messages and deadlines (R188 to
R192, R195, R196, R199). -/
namespace Sys2Proof.Machine

/-! ### Epochs -/

/-- ROUTE_MAP_ACTIVATE (R195): just after the commit point that activates the accepted map. -/
def execRouteMapActivate (s : State) : Res :=
  match s.ten.next with
  | none => .next s
  | some (m, t) => if !s.ticking || s.tk.tick < t then .next s else .next (s.activateMap m)

/-- EPOCH_DRAIN_DEADLINE (R195, R196): the coming commit point is D, the first at or after C + DRAIN_MS. -/
def execEpochDrainDeadline (s : State) : Res :=
  match s.ten.old with
  | none => .next s
  | some (_, d, _) => if s.pointReached d then .next s.drainEpoch else .next s

/-- HOLD_TIMEOUT (R199): held output that no CLAIM has come for is discarded at the coming commit point. -/
def execHoldTimeout (idx : Nat) (s : State) : Res :=
  match (Tb.get s.ss.sessions idx).bind (·.held) with
  | none => .next s
  | some h =>
    let busy := Tb.has s.ss.claims idx || s.work.steward.any fun i => i.effs.any fun e => match e with
      | .claimStart j .. => j = idx | .heldDrop j => j = idx | _ => false
    if busy || !s.pointReached h.untilUs then .next s else
    .next (s.stage [.heldDrop idx, .spool idx 0x14 0 (toLE 4 h.epoch ++ toLE 4 h.records.length)] (some idx))

/-! ### Handoff deadlines -/

/-- HANDOFF_OFFER_DEADLINE (R189): the coming commit point reverts the offer with E_TIMEOUT, unless ACCEPT arrives before it.
A session restored from a reel never reverts so (R192). -/
def execHandoffOfferDeadline (h : Word64) (s : State) : Res :=
  match Tb.get s.ss.srcs h.toNat with
  | none => .next s
  | some x => match x.deadlineUs with
    | none => .next s
    | some d =>
      if x.restored || x.reverted || x.aborted.isSome || !s.pointReached d then .next s else
      .next (s.updSrc h.toNat fun x => { x with aborted := some Status.eTimeout.code })

/-- The commit point to come. -/
def State.nextPoint (s : State) : Nat := s.tk.startUs + s.tickUs

/-- HANDOFF_ACCEPT_DEADLINE (R191): the first query goes to the source with the coming commit point. -/
def execHandoffAcceptDeadline (h : Word64) (s : State) : Res :=
  match Tb.get s.ss.dsts h.toNat with
  | none => .next s
  | some x => match x.deadlineUs with
    | none => .next s
    | some d =>
      if x.owned || !s.pointReached d then .next s else
      .next ((s.updDst h.toNat fun x => { x with deadlineUs := none, nextQueryUs := some (s.nextPoint + 10000) }).stage
        [s.ownerAsk h.toNat] x.session)

/-- OWNER_QUERY_RETRY (R191, R192): the query is repeated every 10 ms until it has an answer; a source restored from a reel
asks its destination in the same way. -/
def execOwnerQueryRetry (h : Word64) (s : State) : Res :=
  match Tb.get s.ss.dsts h.toNat, Tb.get s.ss.srcs h.toNat with
  | some x, _ => match x.nextQueryUs with
    | none => .next s
    | some d =>
      if x.owned || x.deadlineUs.isSome || !s.pointReached d then .next s else
      .next ((s.updDst h.toNat fun x => { x with nextQueryUs := some (s.nextPoint + 10000) }).stage [s.ownerAsk h.toNat] x.session)
  | none, some x => match x.deadlineUs with
    | none => .next s
    | some d =>
      if !x.restored || x.reverted || !s.pointReached d then .next s else
      .next ((s.updSrc h.toNat fun x => { x with deadlineUs := some (s.nextPoint + 10000) }).stage [s.ownerAsk h.toNat]
        (some x.session))
  | none, none => .next s

/-- HANDOFF_SETTLE_TIMEOUT (R191): twice H after the deadline HANDOFF_COMMIT completes with E_TIMEOUT; the session stays
ACCEPTING. -/
def execHandoffSettleTimeout (h : Word64) (s : State) : Res :=
  match Tb.get s.ss.dsts h.toNat with
  | none => .next s
  | some x => match x.cmd with
    | none => .next s
    | some c =>
      if x.owned || x.session.isNone || x.by_.isSome || x.aborted.isSome || !s.pointReached x.settleUs then .next s else
      .next ((s.updDst h.toNat fun x => { x with cmd := none }).stage [.complete c .eTimeout []] x.session)

/-! ### Handoff messages -/

/-- A handoff message's bytes (R188). -/
def msgBytes (m : BitVec 1024) : Bytes := toLE 128 m.toNat

/-- The message comes from a handoff's peer, or from a member that passes it on (R168). -/
def State.fromPeer (s : State) (src : Word64) (peer : Nat) : Bool := src.toNat = peer || s.grp.members.contains src.toNat

/-- The other members learn of what changes a descriptor on all devices (R168). -/
def State.passOn (s : State) (src : Word64) (m : Bytes) : State :=
  if s.grp.n ≤ 1 || s.grp.members.contains src.toNat then s else s.sendAll 0 (.handoff m)

/-- A received handoff message of a type: it is kept for QUERY item 5 (R260), and `f` says what it does, given its
HANDOFF_ID. A message of another type, or on a device that runs no ticks, does nothing. -/
def State.handoffIn (s : State) (ty : Nat) (m : BitVec 1024) (f : State → Bytes → Nat → State) : Res :=
  let b := msgBytes m
  let id := fieldAt b 8 8
  if !s.ticking || fieldAt b 0 1 ≠ ty || id = 0 then .next s else
  .next (f { s with ss.lastMsg := Tb.set s.ss.lastMsg id b } b id)

/-- OFFER (R190): reported on mailbox 0 with the coming commit point. -/
def execOffer (src : Word64) (msg : BitVec 1024) (s : State) : Res :=
  s.handoffIn 1 msg fun s b id =>
    let d := (Tb.get s.ss.dsts id).getD (HandoffDst.fresh src.toNat)
    if d.src ≠ src.toNat || d.session.isSome then s else
    { s with ss.dsts := Tb.set s.ss.dsts id { d with offer := b } }.stage [.event 0xE001 (toLE 8 id ++ toLE 8 src.toNat)]

/-- ACCEPT (R189): the coming commit point relinquishes. An ACCEPT that comes after the return is answered with ABORT.
DESIGN CHOICE (log 68). -/
def execAccept (src : Word64) (msg : BitVec 1024) (s : State) : Res :=
  s.handoffIn 2 msg fun s b id =>
    match Tb.get s.ss.srcs id with
    | some h =>
      if !s.fromPeer src h.dst then s else
      if h.reverted then s.stage [.send (.device src.toNat) (.handoff (handoffMsg 4 Status.eTimeout.code id (fieldAt b 16 8) 0 0 0 0))]
      else (s.updSrc id fun h => { h with accepted := some (fieldAt b 24 8) }).passOn src b
    | none =>
      if s.ss.sessions.any fun e => e.2.handoffId = id && e.2.state == .gone then s else
      s.stage [.send (.device src.toNat) (.handoff (handoffMsg 4 Status.eTimeout.code id (fieldAt b 16 8) 0 0 0 0))]

/-- COMMIT (R190): the destination acquires the session at the commit of this tick. -/
def execHandoffMsgCommit (src : Word64) (msg : BitVec 1024) (s : State) : Res :=
  s.handoffIn 3 msg fun s _ id =>
    match Tb.get s.ss.dsts id with
    | some d => if d.src = src.toNat && d.session.isSome && !d.owned then s.updDst id fun d => { d with by_ := some 0 } else s
    | none => s

/-- ABORT (R189, R190): the source takes its session back, or the destination frees its index, at the commit of this tick;
a destination that has not accepted forgets the offer. -/
def execHandoffMsgAbort (src : Word64) (msg : BitVec 1024) (s : State) : Res :=
  s.handoffIn 4 msg fun s b id =>
    let st := fieldAt b 1 1
    match Tb.get s.ss.srcs id, Tb.get s.ss.dsts id with
    | some h, none =>
      if s.fromPeer src h.dst && !h.reverted then (s.updSrc id fun h => { h with aborted := some st }).passOn src b else s
    | some h, some d =>
      if s.fromPeer src h.dst && !h.reverted && fieldAt b 16 8 = s.handleAt h.session then
        (s.updSrc id fun h => { h with aborted := some st }).passOn src b
      else if d.src ≠ src.toNat || d.owned then s
      else if d.session.isSome then s.updDst id fun d => { d with aborted := some st } else s.stage [.freeDst id]
    | none, some d =>
      if d.src ≠ src.toNat || d.owned then s
      else if d.session.isSome then s.updDst id fun d => { d with aborted := some st } else s.stage [.freeDst id]
    | none, none => s

/-- QUERY_OWNER as a message (R189): the answer goes out with the coming commit point, with the verdict as it stands there. -/
def execQueryOwnerMsg (src : Word64) (msg : BitVec 1024) (s : State) : Res :=
  s.handoffIn 5 msg fun s b id =>
    s.stage [.send (.device src.toNat) (.handoff (handoffMsg 6 0 id (fieldAt b 16 8) (fieldAt b 24 8) 0 0 0))]

/-- What an answer means to an ACCEPTING destination (R191): verdict 1 activates, 0 and 2 free the index, 3 ends the
repetition. A QUERY_OWNER command that waits is answered. -/
def State.ownerAnswer (s : State) (id v : Nat) (d : HandoffDst) : State :=
  let s := match d.ask with
    | some (c, _) => (s.updDst id fun d => { d with ask := none }).stage [.complete c .ok (toLE 1 v)]
    | none => s
  if v = 1 then s.updDst id fun d => { d with by_ := some (d.by_.getD 1) }
  else if v = 0 || v = 2 then s.updDst id fun d => { d with aborted := some Status.eTimeout.code }
  else s.updDst id fun d => { d with deadlineUs := none, nextQueryUs := none }

/-- OWNER_REPLY (R191): and to a source restored from a reel, verdict 1 means that the destination owns the session (R192).
DEDUCED (log 70). -/
def execOwnerReply (src : Word64) (msg : BitVec 1024) (s : State) : Res :=
  s.handoffIn 6 msg fun s b id =>
    let v := fieldAt b 1 1
    match Tb.get s.ss.dsts id, Tb.get s.ss.srcs id with
    | some d, _ => if d.src = src.toNat && d.session.isSome && !d.owned then s.ownerAnswer id v d else s
    | none, some h =>
      if !h.restored || h.reverted || !s.fromPeer src h.dst then s else
      let s := s.passOn src b
      if v = 1 then s.stage [.relinquish h.session id, .spool h.session 0x10 0 (payRelinquish id h.dst (fieldAt b 24 8))] (some h.session)
      else s.updSrc id fun h => { h with deadlineUs := none }
    | none, none => s

/-- HANK_TILE (R189, R190): a tile of 64 KiB joins those that the destination has received. DESIGN CHOICE (log 44). -/
def execHankTile (src : Word64) (h : Word64) (tile : Nat) (data : Bytes) (s : State) : Res :=
  let d := (Tb.get s.ss.dsts h.toNat).getD (HandoffDst.fresh src.toNat)
  if !s.ticking || d.src ≠ src.toNat || d.session.isSome || data.length ≠ 65536 then .next s else
  .next { s with ss.dsts := Tb.set s.ss.dsts h.toNat { d with tiles := Tb.set d.tiles tile data } }

end Sys2Proof.Machine
end

