-- ==== Sys2Proof/Machine/Messages.lean ====
section
/-! DEFINITION. Group messages: decisions on group units, mirrors, exchanges, moves, top-k lists, STATUS and lost members
(R35, R48, R49, R92, R102, R225, R235, R278, R287, R292 to R296, R300, R333). What a committed message does at its delivery is
`State.deliver`. -/
namespace Sys2Proof.Machine

/-- Messages of the group protocol are taken while the device is a member and runs ticks. -/
def State.inTicks (s : State) : Bool := s.ticking && s.glb.inGroup

/-- The sender is another member. -/
def State.fromMember (s : State) (rank : Fin 64) : Bool := s.inTicks && decide (rank.val < s.grp.n) && rank.val ≠ s.glb.rank

/-! ### Decisions on group units (R48, R49) -/

/-- The decision kept for a unit. -/
def State.decisionOf (s : State) (key : UnitKey) : Option Bool := (s.work.decisions.find? fun d => d.key = key).map (·.commit)

/-- A decision is kept. -/
def State.keepDecision (s : State) (key : UnitKey) (c : Bool) : State :=
  { s with work.decisions := s.work.decisions ++ [(⟨s.tk.tick, key, c⟩ : Decision)] }

/-- The coordinator decides and tells every other member: each holds a copy of what the unit changes (log 20). -/
def State.settleVote (s : State) (key : UnitKey) (c : Bool) : State :=
  let s := s.keepDecision key c
  ((List.range s.grp.n).filter (· ≠ s.glb.rank)).foldl (fun s r => s.sendMsg (.rank r) 0 (if c then .commit key else .abandon key)) s

/-- COMMIT where every participant is READY, ABANDON where one is not; no decision yet where some have not reported. -/
def State.tally (s : State) (key : UnitKey) : State :=
  if (s.decisionOf key).isSome then s else
  let mine := s.work.votes.filter fun v => v.1 = key
  if mine.any fun v => !v.2.2 then s.settleVote key false
  else if (s.participants key).all fun r => mine.any fun v => v.2.1 = r then s.settleVote key true
  else s

/-- A participant's report taken by the coordinator. -/
def State.vote (s : State) (rank : Nat) (key : UnitKey) (ok : Bool) : State :=
  { s with work.votes := s.work.votes ++ [((key, rank, ok) : UnitKey × Nat × Bool)] }.tally key

/-- READY (R48). -/
def execReady (rank : Fin 64) (key : UnitKey) (s : State) : Res :=
  if s.fromMember rank && s.glb.rank = s.coordinator key then .next (s.vote rank.val key true) else .next s

/-- NOT_READY (R48). -/
def execNotReady (rank : Fin 64) (key : UnitKey) (s : State) : Res :=
  if s.fromMember rank && s.glb.rank = s.coordinator key then .next (s.vote rank.val key false) else .next s

/-- A decision received: the first one counts. -/
def State.hearDecision (s : State) (rank : Fin 64) (key : UnitKey) (c : Bool) : State :=
  if s.fromMember rank && rank.val = s.coordinator key && (s.decisionOf key).isNone then s.keepDecision key c else s

/-- COMMIT (R48): applied at the commit point. -/
def execCommit (rank : Fin 64) (key : UnitKey) (s : State) : Res := .next (s.hearDecision rank key true)

/-- ABANDON (R48). -/
def execAbandon (rank : Fin 64) (key : UnitKey) (s : State) : Res := .next (s.hearDecision rank key false)

/-- DECISION_QUERY (R49): the coordinator answers with the decision it keeps. -/
def execDecisionQuery (rank : Fin 64) (key : UnitKey) (s : State) : Res :=
  if !s.fromMember rank || s.glb.rank ≠ s.coordinator key then .next s else
  match s.decisionOf key with
  | some c => .next (s.sendMsg (.rank rank.val) 0 (if c then .commit key else .abandon key))
  | none => .next s

/-! ### Mirrors (R293) -/

/-- MIRROR: the buddy stages the entries and acknowledges. -/
def execMirror (rank : Fin 64) (key : UnitKey) (entries : List MirrorEntry) (s : State) : Res :=
  if !s.fromMember rank || (rank.val + 1) % s.grp.n ≠ s.glb.rank then .next s else
  .next ({ s with grp.mirrorStaged := s.grp.mirrorStaged ++ entries.map fun e => ((key, e) : UnitKey × MirrorEntry) }.sendMsg
    (.rank rank.val) 0 (.mirrorAck key))

/-- MIRROR_ACK. -/
def execMirrorAck (rank : Fin 64) (key : UnitKey) (s : State) : Res :=
  if s.fromMember rank && rank.val = (s.glb.rank + 1) % s.grp.n then .next { s with work.acks := s.work.acks ++ [key] } else .next s

/-! ### The verdict on a staged table (R35) -/

/-- TABLE_DIGEST: a member's pair, held by the lowest rank. -/
def execTableDigest (rank : Fin 64) (id : Word32) (digest : Digest) (s : State) : Res :=
  if s.fromMember rank && s.glb.rank = 0 then .next { s with tk.digests := Tb.set s.tk.digests rank.val (id.toNat, digest) } else .next s

/-- SCHED_MISMATCH set (R35, R251). -/
def State.mismatch (s : State) : State :=
  { s with tk.staged := none, tk.schedMismatch := true, tk.rose := s.tk.rose || !s.tk.schedMismatch }

/-- A verdict taken. -/
def State.takeVerdict (s : State) (go : Bool) : State :=
  let s := { s with tk.verdictSent := true }
  match s.tk.staged with
  | none => if go then s else s.mismatch
  | some g => if go then { s with tk.staged := some { g with verdict := some true } } else s.mismatch

/-- TABLE_VERDICT to every other member. -/
def State.verdictSends (s : State) (go : Bool) : List Effect :=
  ((List.range s.grp.n).filter (· ≠ s.glb.rank)).map fun r => .send (.rank r) (.tableVerdict go)

/-- The decider has decided: it takes its own verdict. -/
def State.decideTable (s : State) (go : Bool) : State := { s with tk.verdictBy := none, tk.digests := [] }.takeVerdict go

/-- The decider's verdict goes out with the coming commit point (R35). -/
def State.sendVerdict (s : State) (go : Bool) : State := (s.stage (s.verdictSends go)).decideTable go

/-! ### Exchanges (R92, R102, R292, R333) -/

/-- LOADED at its delivery: rank 0 counts each member once. For a change that rank 0 has not begun itself it notes the report and
waits, at most the longest GROUP_WAIT_S, since LOADED carries none (R92). DESIGN CHOICE (log 125). -/
def State.gotLoaded (s : State) (rank : Nat) (d : Digest) (last : Nat) : State :=
  match s.exchangeBy d with
  | some (k, x) => if x.loadedRanks.any fun l => l.1 = rank then s else
      s.updExchange k fun x => { x with loadedRanks := x.loadedRanks ++ [(rank, last)] }
  | none => if s.glb.rank ≠ 0 then s else
      s.putNewExchange { what := .others, digest := d, cmd := none, startUs := s.timeUs, waitUs := s.timeUs + 3600000000
                         loadedHere := false, loadedRanks := [(rank, last)], applyTick := none, version := 0 }

/-- The status of a code. -/
def statusOf (c : Nat) : Status := (completionOf (zeros 6 ++ toLE 1 c)).status

/-- An exchange given up here: what it loaded is undone with a status. -/
def State.dropExchange (s : State) (k : Nat) (x : Exchange) (st : Status) : State :=
  { s with img.exchanges := Tb.del s.img.exchanges k }.stage (x.undo st)

/-- What a member's failure ends here after the exchange: the checkpoint or the restore of that step (R335, R339).
DESIGN CHOICE (log 138). -/
def State.endLate (s : State) (d : Digest) (st : Status) : State :=
  let s := match s.chkpt with
    | some k => if chkptDigest k.step = d then s.stage (s.chkptFailEffects st) else s
    | none => s
  match s.restore with
  | some k => if chkptDigest k.step = d then s.stage (k.endEffects st) else s
  | none => s

/-- FAILED at its delivery: rank 0 aborts; the member that accepted a checkpoint or a restore completes it with the status.
DEDUCED (log 65). -/
def State.gotFailed (s : State) (d : Digest) (st : Status) : State :=
  let s := match s.exchangeBy d with
    | some (k, x) => (match x.what with
      | .checkpoint => s.dropExchange k x st
      | .forward op _ _ => s.dropExchange k x (if op = 0x0602 then st else .eTimeout)
      | _ => if s.glb.rank = 0 then s.dropExchange k x .eTimeout else s)
    | none => s.endLate d st
  if s.glb.rank = 0 then s.stage (s.abortSends d) else s

/-- ACTIVATE at its delivery: the commit point of the change is named. -/
def State.gotActivate (s : State) (d : Digest) (tick ver : Nat) : State :=
  match s.exchangeBy d with
  | some (k, _) => s.updExchange k fun x => { x with applyTick := some tick, version := ver }
  | none => s

/-- ABORT at its delivery: a member that had loaded completes with E_TIMEOUT, and so does one that is still loading, for which R92
names no status. DESIGN CHOICE (log 126). -/
def State.gotAbort (s : State) (d : Digest) : State :=
  match s.exchangeBy d with
  | some (k, x) => s.dropExchange k x .eTimeout
  | none => s

/-- FORWARD of a command that goes by exchange: this member has nothing to load and reports LOADED. CHECKPOINT: its step is
the next tick (R333), and a member that has one under way reports FAILED. RESTORE: the member makes its checks, and reports FAILED where one
fails (R336). DESIGN CHOICE (log 138). -/
def State.gotForward (s : State) (rank : Nat) (c : Cmd) (body : Bytes) : State :=
  if Cmd.op c = 0x0601 then
    if s.chkpt.isSome then s.stage (s.failSends rank (chkptDigest (s.tk.tick + 1)) .eBusy) else
    let s := s.startCheckpoint none (fld c 8 1) (fld c 16 8) (fld c 24 8) (fld c 32 8) (fld c 40 8) (s.tk.tick + 1)
    { s with chkpt := s.chkpt.map fun k => { k with accepting := rank } }
  else
    let x : Exchange := { what := .forward (Cmd.op c) c body, digest := forwardDigest c body, cmd := none, startUs := s.timeUs
                          waitUs := s.timeUs + 3600000000, loadedHere := false, loadedRanks := [], applyTick := none, version := 0, accepting := rank }
    match (if Cmd.op c = 0x0602 then checkRestore s.view (s.forwardCtx rank c body) else .ok []) with
    | .error e => s.stage (s.failSends rank x.digest e.1)
    | .ok _ => (s.putNewExchange x).reportLoadedOf x.digest

/-! ### Moves (R102, R294, R297, R298, R334) -/

/-- The request of a session that a joining device receives with its spool (R291, R341). -/
def State.arriveReq (s : State) (idx : Nat) (es : List Bytes) (rm gs : Bytes) : State :=
  match lastTurn es with
  | none => s
  | some (t, after) =>
    let m := fieldAt rm 4 1
    let home : ReqHome := ⟨m, (s.mbx[mboxFin m]).gen, fieldAt rm 8 4, fieldAt rm 16 8, fieldAt rm 12 4, fieldAt rm 24 8⟩
    let q := s.reqOfTurn idx t after home
    let n := fieldAt rm 40 1
    let g : Option GState := if gs.isEmpty then none else
      some ⟨fieldAt gs 4 4, (List.range (fieldAt gs 2 2)).map fun i => fieldAt gs (16 + 2 * i) 2⟩
    let out := q.out.zipIdx.map fun (t, i) => { t with published := Decidable.decide (i + n < q.out.length) }
    let q := { q with out := out, gstate := g, stateOf := g.map fun _ => (fieldAt gs 0 2 % 1024, (gs.length - 16) / 2), producer := fieldAt rm 32 4, phase := if fieldAt rm 5 1 = 1 then .stalled else .decode
                      stallUntilUs := if fieldAt rm 5 1 = 1 then some (s.timeUs + 1000 * fieldAt rm 44 4) else none }
    let r := fieldAt rm 0 4
    { s with ss.reqs := Tb.set s.ss.reqs r q, ss.nextReq := Nat.max s.ss.nextReq ((r + 1) % 2 ^ 32) }.updSess idx fun x => { x with reqId := r }

/-- A whole spool has arrived: for the new sampling device it waits for the move, for the new buddy it is the mirror; a
device that has just joined takes the session's history from it. -/
def State.arriveSpool (s : State) (idx : Nat) (es : List Bytes) (rm gs : Bytes) : State :=
  let e : MirrorEntry := ⟨idx, es, rm, gs⟩
  let s := if s.samples idx then { s with grp.arrived := Tb.set s.grp.arrived idx e } else s
  let s := if (idx % s.grp.n + 1) % s.grp.n = s.glb.rank then { s with grp.mirrors := Tb.set s.grp.mirrors idx e } else s
  match Tb.get s.ss.sessions idx with
  | none => s
  | some x =>
    if !x.hist.isEmpty then s else
    let r := replayOf es
    let s := s.updSess idx fun x => { x with hist := r.hist, globals := r.globals }
    if rm.isEmpty then s else s.arriveReq idx es rm gs

/-- A tile of a model's body from a peer (R298): a chunk that this member still needs. -/
def State.arriveTile (s : State) (d : Digest) (off : Nat) (data : Bytes) : State :=
  match s.modelOf d with
  | none => s
  | some (slot, m) =>
    let c := off / chunkBytes
    match if m.hdr.sealed_ then openMoved ((s.modelKey m.hdr.keyRef m.digest).getD 0) c data else some data with
    | none => s
    | some b =>
      if off % chunkBytes ≠ 0 || !m.need.contains c || b.length ≠ chunkLen m.hdr c then s else
      { s with work.queue := s.work.queue.filter fun u => u.kind != UnitKind.reshard slot c }.reshardChunk slot c (some b)

/-- A member's report that its last record is restored (R339): RESTORE completes where every member's is. DESIGN CHOICE (log 138). -/
def State.restoredOn (s : State) (rank : Nat) : State :=
  match s.restore with
  | none => s
  | some k =>
    let k := { k with reports := k.reports ++ [rank] }
    let s := { s with restore := some k }
    if k.todo.isEmpty && k.reported s.grp.n s.glb.rank then s.stage (k.endEffects .ok) else s

/-- MOVE at its delivery. -/
def State.gotMove (s : State) (rank : Nat) (i : MoveItem) : State :=
  match i with
  | .vocab k v => { s with img.vocabs := Tb.set s.img.vocabs k v }
  | .grammar k g => { s with img.grammars := Tb.set s.img.grammars k g }
  | .adapterVer id ver ret d h r b =>
    let a : AdapterVer := ⟨id, ver, d, h, s.openBody r d b, ret, adapterPages s.grp.n s.glb.rank h, r⟩
    { s with img.adapters := s.img.adapters ++ [a] }
  | .adapterId id last cur =>
    { s with img.adapterLast := Tb.set s.img.adapterLast id last
             img.adapterCurrent := match cur with | some c => Tb.set s.img.adapterCurrent id c | none => s.img.adapterCurrent }
  | .store k st => { s with st.stores := Tb.set s.st.stores k st }
  | .spool idx es rm gs => s.arriveSpool idx es rm gs
  | .kv idx n kv => match Tb.get s.ss.sessions idx with
    | some x => s.storeKv idx (s.dimOf x) kv n
    | none => s
  | .tiles d off data => s.arriveTile d off data
  | .shard d len n =>
    let c := s.chkpt.map fun (k : Checkpoint) => { k with reports := Tb.set k.reports rank (d, len, n) }
    { s with chkpt := c }.restoredOn rank

/-! ### Delivery (R47, R287) -/

/-- A committed message waits for its delivery: its sender's rank, the tick that it counts for, and the message.
DESIGN CHOICE (log 14). -/
def State.receive (s : State) (rank tick : Nat) (i : Instr) : State := { s with inbox := s.inbox ++ [(rank, tick, i)] }

/-- A committed message from another member of the group, sent in the tick before this one. DESIGN CHOICE (log 14). -/
def State.receiveFrom (s : State) (rank : Fin 64) (i : Instr) : Res :=
  if s.fromMember rank then .next (s.receive rank.val (s.tk.tick - 1) i) else .next s

/-- A committed message from the lowest rank. -/
def State.receiveFromRoot (s : State) (i : Instr) : Res :=
  if s.inTicks && s.glb.rank ≠ 0 then .next (s.receive 0 (s.tk.tick - 1) i) else .next s

/-- What a committed message does at its delivery. -/
def State.deliver (s : State) (i : Instr) : State :=
  match i with
  | .loaded r d v => s.gotLoaded r.val d v
  | .failed _ d st => s.gotFailed d (statusOf st.val)
  | .activate d t v => s.gotActivate d t.toNat v
  | .abort d => s.gotAbort d
  | .forward r c b => s.gotForward r.val c b
  | .move r m => s.gotMove r.val m
  | .topk r _ q hits => s.updQuery q fun x => { x with lists := Tb.set x.lists r.val hits }
  | .tableVerdict go => s.takeVerdict go
  | _ => s

/-- TABLE_VERDICT (R35). -/
def execTableVerdict (go : Bool) (s : State) : Res := s.receiveFromRoot (.tableVerdict go)

/-- LOADED (R92): to the lowest rank. -/
def execLoaded (rank : Fin 64) (digest : Digest) (lastVersion : Nat) (s : State) : Res :=
  s.receiveFrom rank (.loaded rank digest lastVersion)

/-- FAILED (R92, R333). -/
def execFailed (rank : Fin 64) (digest : Digest) (status : Fin 16) (s : State) : Res :=
  s.receiveFrom rank (.failed rank digest status)

/-- ACTIVATE (R92). -/
def execActivate (digest : Digest) (tick : BitVec 48) (version : Nat) (s : State) : Res :=
  s.receiveFromRoot (.activate digest tick version)

/-- ABORT (R92). -/
def execAbort (digest : Digest) (s : State) : Res := s.receiveFromRoot (.abort digest)

/-- FORWARD (R102, R168, R292): a command on sessions or stores acts in this tick's commit on every member; one whose state
is held group-wide waits for its delivery and goes by the exchange. -/
def execForward (rank : Fin 64) (c : Cmd) (body : Bytes) (s : State) : Res :=
  if memberOp c && s.fromMember rank then .next (s.runForwarded rank.val c body) else s.receiveFrom rank (.forward rank c body)

/-- ACT (R47): in-slot data belongs to the unit that runs and leaves no trace of its own in the state.
DESIGN CHOICE (log 76). -/
def execAct (_rank : Fin 64) (_body : Bytes) (s : State) : Res := .next s

/-- MOVE (R278). -/
def execMove (rank : Fin 64) (item : MoveItem) (s : State) : Res := s.receiveFrom rank (.move rank item)

/-- TOPK (R235). -/
def execTopk (rank : Fin 64) (stamp : Word64) (query : Nat) (hits : List Hit) (s : State) : Res :=
  if s.fromMember rank then .next (s.receive rank.val (stamp.toNat / 65536) (.topk rank stamp query hits)) else .next s

/-- TRACE (R278): a committed message that counts for its sender's STATUS; the spec gives it no further effect.
DESIGN CHOICE (log 76). -/
def execTraceMsg (rank : Fin 64) (body : Bytes) (s : State) : Res := s.receiveFrom rank (.traceMsg rank body)

/-! ### STATUS and lost members (R287, R295, R296, R300) -/

/-- STATUS: the sender's count of messages for this member, and the sign that it lives. -/
def execStatus (rank : Fin 64) (tick : BitVec 48) (counts : List Nat) (s : State) : Res :=
  if !s.fromMember rank then .next s else
  .next { s with grp.statusSeen := s.grp.statusSeen ++ [((rank.val, tick.toNat, counts.getD s.glb.rank 0) : Nat × Nat × Nat)]
                 grp.missed := Tb.set s.grp.missed rank.val 0 }

/-- Commit points since the last STATUS of a member, up to the coming one: `missed` counts those that have passed. -/
def State.silent (s : State) (r : Nat) : Bool := r ≠ s.glb.rank && 4 ≤ (Tb.get s.grp.missed r).getD 0

/-- Survivors may continue (R295): more than half, or exactly half with the lowest previous rank. -/
def quorum (n : Nat) (surv : List Nat) : Bool := n < 2 * surv.length || (n = 2 * surv.length && surv.contains 0)

/-- The mask of ranks. -/
def rankMask (l : List Nat) : Word64 := l.foldl (fun a r => a ||| BitVec.ofNat 64 (2 ^ r)) 0

/-- MEMBER_LOST (R295, R296): the coming commit point is L. The lowest surviving rank announces the survivors and C = L + 2;
survivors that are too few leave. -/
def execMemberLost (rank : Fin 64) (s : State) : Res :=
  if !s.inTicks || s.grp.n ≤ rank.val || !s.silent rank.val || s.grp.shrink.isSome then .next s else
  let surv := (List.range s.grp.n).filter fun r => !s.silent r
  if !quorum s.grp.n surv then .next s.leaveGroup
  else if surv.head? ≠ some s.glb.rank then .next s else
  let m := rankMask surv
  let c := s.tk.tick + 2
  .next ({ s with grp.shrink := some (m, c) }.stage
    (((List.range s.grp.n).filter (· ≠ s.glb.rank)).map fun r => .send (.rank r) (.shrink m c)))

/-- SHRINK (R296): the survivors and C. -/
def execShrink (survivors : Word64) (tick : BitVec 48) (s : State) : Res :=
  if s.inTicks then .next { s with grp.shrink := some (survivors, tick.toNat) } else .next s

/-- The member that GROUP_SHRINK removes: named out of the survivors, yet still reachable (R300). DEDUCED (log 74). -/
def State.keptRank (s : State) (surv : Word64) : Option Nat :=
  (List.range s.grp.n).find? fun r => !surv.getLsbD r && !s.silent r

/-- The old decider is lost before its verdict, and the new lowest rank has no staged table (R35): it sends DROP at once. A device lost
before B + 8 is removed by B + 14. DEDUCED (log 57). -/
def State.decidesDrop (s : State) (surv : Word64) (c : Nat) : Bool :=
  newRank surv s.grp.n s.glb.rank = some 0 && s.glb.rank ≠ 0 && !s.tk.verdictSent && s.tk.staged.isNone && c % 64 ≤ 14

/-- The decision on a staged table at a width change (R35): pairs follow their ranks, and a new lowest rank decides by the commit
point that ends C + 8, with DROP at once where that is too late. DESIGN CHOICE (log 57). -/
def State.moveDecider (s : State) (surv : Word64) (c : Nat) : State :=
  let n := s.grp.n
  let ds : Tbl (Nat × Digest) := s.tk.digests.filterMap fun e => (newRank surv n e.1).map fun r => (r, e.2)
  let s := { s with tk.digests := ds }
  let mine := newRank surv n s.glb.rank = some 0 && s.glb.rank ≠ 0 && !s.tk.verdictSent
  match s.tk.staged with
  | none => s
  | some g =>
    if !mine || g.verdict.isSome || c < g.table.startTick - 64 then s else
    let own : Nat × Digest := (g.table.tableId, g.digest)
    let by_ := if g.table.startTick - 16 ≤ c + 8 then c else c + 8
    { s with tk.digests := Tb.set s.tk.digests 0 own, tk.verdictBy := some by_ }

/-- WIDTH_CHANGE (R296): just after the commit point C. A checkpoint that loses a member fails (R335); the removed member
stays reachable for 60 s (R300). -/
def execWidthChange (s : State) : Res :=
  match s.grp.shrink with
  | none => .next s
  | some (surv, c) =>
    if !s.inTicks || s.tk.tick ≤ c then .next s else
    let kept := s.keptRank surv
    let lost := (List.range s.grp.n).any fun r => !surv.getLsbD r && kept != some r
    let s := if lost && s.chkpt.isSome then s.stage (s.chkptFailEffects .eInternal) else s
    let s := match s.restore with | some k => if lost then s.stage (k.endEffects .eInternal) else s | none => s
    let until_ := if kept.isSome && s.grp.shrinkUntilUs ≤ s.timeUs then s.timeUs + 60000000 else s.grp.shrinkUntilUs
    let drop := s.decidesDrop surv c
    let s := ({ s with grp.joinTable := [], grp.shrinkUntilUs := until_ }.moveDecider surv c).widthChange surv false kept
    .next (if drop then s.sendVerdict false else s)

/-- What is left on a removed member is treated as lost (R300). -/
def State.loseRemoved (s : State) : State :=
  if s.grp.leaving then { s with grp.moves := [] } else
  let f (e : Nat × SessMove) : Nat × SessMove :=
    if e.2.holder = some s.grp.n || e.2.oldSampler = some s.grp.n then
      (e.1, { e.2 with lostSpool := true, lostPart := true, holder := some (e.2.lost.1 % s.grp.n) }) else e
  let ms : Tbl SessMove := s.grp.moves.map f
  { s with grp.moves := ms }

/-- SHRINK_TIMEOUT (R300). -/
def execShrinkTimeout (s : State) : Res :=
  if s.grp.shrinkUntilUs = 0 || !s.pointReached s.grp.shrinkUntilUs then .next s else
  let cmd := s.grp.shrinkCmd
  let s := { s with grp.shrinkCmd := none, grp.shrinkUntilUs := 0 }.loseRemoved
  .next (match cmd with | some (c, _, _) => s.stage [.complete c .eTimeout []] | none => s)

end Sys2Proof.Machine
end

