-- ==== Sys2Proof/Machine/Joining.lean ====
section
/-! DEFINITION. Joining a group and the key exchanges of links, members and handoffs (R271, R279, R290, R291, R315, R316). -/
namespace Sys2Proof.Machine

/-! ### The join (R290, R291) -/

/-- JOIN_ACK (R291 step 1): rank 0 counts the devices; a failure gives the join up with its status. -/
def execJoinAck (rank : Fin 64) (status : Fin 16) (s : State) : Res :=
  match s.grp.join with
  | none => .next s
  | some d =>
    if (descOwn d).getD 0 ≠ 0 || descN d ≤ rank.val || s.grp.joinTick.isSome then .next s
    else if status.val ≠ 0 then .next (s.failJoin (statusOf status.val))
    else if s.grp.joinAcks.contains rank.val then .next s
    else .next { s with grp.joinAcks := s.grp.joinAcks ++ [rank.val] }

/-- JOIN_PROPOSE (R291 step 3): JOIN_TICK and the root's table. -/
def execJoinPropose (joinTick : BitVec 48) (table : Bytes) (s : State) : Res :=
  if s.grp.join.isNone then .next s else
  .next { s with grp.joinTick := some joinTick.toNat, grp.joinTable := table, tk.pinEdge := none, tk.pinMark := none, tk.pinSamples := [] }

/-- The rank of a port's peer under a descriptor (R272, R289). -/
def joinedPort (d : Bytes) (own p : Nat) (x : Port) : Port :=
  if x.state == .up8 || x.state == .up4 then { x with peerRank := descPeer d own p } else x

/-- The tenants that JOIN_GO copies (R291). -/
def TenantCopy.tenant (c : TenantCopy) : Tenant :=
  { newTenant c.quota c.isProtected c.mailbox with rate := c.rate, burst := c.burst, bucket := c.bucket }

/-- A session as its descriptor alone gives it (R169, R291): its history comes with its spool. -/
def copiedSession (d : Bytes) : Nat × Session :=
  let h := fieldAt d 0 8
  (h % 2 ^ 24, { sessionOf (h / 2 ^ 24) (fieldAt d 9 1) ((SessState.ofCode (fieldAt d 8 1)).getD .idle) d (zeros 16) [] with
    reqId := fieldAt d 24 4, spoolLen := fieldAt d 112 8, spoolSeq := fieldAt d 120 4, spoolDigest := digestOf (sliceAt d 128 48) })

/-- A model slot that JOIN_GO names, made from the image at its address (R93, R298): none where the image cannot be read. Its
shard is fetched after the width change. -/
def State.copiedModel (s : State) (n rank : Nat) (c : ModelCopy) : Option Model := do
  let h0 ← s.readHost .port0 c.addr 512
  let table := roundUp (512 + 48 * fieldAt h0 16 4) 4096
  let head ← s.readHost .port0 c.addr (Nat.min c.len (Nat.min table (Nat.max 512 (fieldAt h0 24 8))))
  let h := imageHdr head
  let a := Sys2Proof.Machine.archOf head
  let body ← (s.imageChunk (s.readHost .port0) .eTimeout c.addr head 0).toOption
  let ls := layerTable a body
  let m : Model := { state := .active, pin := c.pin, tenantMask := c.mask, digest := h.digest, head := head, hdr := h, arch := a, layers := ls
                     addr := c.addr, len := c.len, group := true, need := [], chunks := [], others := [], loaded := false, cmd := none, lastBind := s.tk.tick
                     drainUs := 0, drainDue := false, pages := shardPages n rank a ls }
  return { m with others := s.readOthers m }

/-- The new device's copies under MODE 1 (R291). -/
def State.takeCopies (s : State) (n rank : Nat) (c : JoinCopy) : State :=
  let ts : Tbl Tenant := c.tenants.map fun t => (t.id, t.tenant)
  let gs : Tbl Grant := c.grants.map fun g => (g.1, ⟨g.2.1, g.2.2.1, g.2.2.2⟩)
  let ss : Tbl Session := (c.descriptors.map copiedSession).foldl (fun t e => Tb.set t e.1 e.2) []
  let ms : Tbl Model := c.models.filterMap fun m => (s.copiedModel n rank m).map fun x => (m.slot, x)
  let uses (t : Tbl Model) (k : KeySlot) : Bool := t.any fun m => m.2.hdr.sealed_ && m.2.hdr.keyRef = k.keyRef && m.2.digest = k.modelDigest
  let sl : Tbl KeySlot := s.sec.slots.filter fun e => !(e.2.kind == .model && uses s.img.models e.2 && !uses ms e.2)
  { s with sec.slots := sl, ten := { s.ten with tenants := ts, grants := gs, map := { routeMapOf c.routeMap with epoch := c.epoch } }
           ss.sessions := ss, ss.gens := ss.map fun e => (e.1, e.2.gen), img.models := ms }

/-- A sealed model of the group whose released key the new device does not hold (R290). DEDUCED (log 56). -/
def State.lacksKey (s : State) (c : JoinCopy) : Bool :=
  c.models.any fun m => match s.readHost .port0 m.addr 512 with
    | some h => !s.keyHeld (imageHdr h)
    | none => false

/-- The median of the samples in ns (R291 step 4): of an even number the middle between the two in the middle.
DESIGN CHOICE (log 33). -/
def medianNs (l : List Int) : Nat :=
  let m := l.mergeSort (· ≤ ·)
  (500 * (m.getD ((m.length - 1) / 2) 0 + m.getD (m.length / 2) 0)).toNat

/-- The device takes its place in the group at JOIN_TICK (R291 step 5). Its pin delay is the median of its samples, and a free value
where it has none. The
ledger's whorls and a chosen step go on in the new tick numbers. DESIGN CHOICE (log 33); DEDUCED (log 80). -/
def State.takePlace (s : State) (d : Bytes) (tick : Nat) : State :=
  let own := (descOwn d).getD 0
  let n := descN d
  let f := s.drawFree
  let root := decide (own = 0)
  let table := if root then s.tk.table else tableOf s.grp.joinTable
  let ports := Vector.ofFn fun p : Fin 20 => joinedPort d own p.val s.ports[p]
  let tk := { f.2.tk with tick := tick, table := table, staged := none, digests := []
                          pinDelayNs := if f.2.tk.pinSamples.isEmpty then f.1.toNat % 2 ^ 32 else medianNs f.2.tk.pinSamples
                          pinEdge := none, pinMark := none, pinSamples := [], verdictSent := false
                          verdictBy := none, mute := false, noUnits := false, missedEdges := 0, missedBeats := 0, goodEdges := 0
                          toMarker := false, onMarker := false, awaited := false, edgeSeen := false, edgeUs := f.2.timeUs, edgeDue := none }
  let old := f.2.tk.tick / 64
  let pwr := if root then f.2.pwr else { f.2.pwr with
    settled := tick / 64 - 1, pendingTick := 0, zeroUntil := tick / 64 + (f.2.pwr.zeroUntil - old)
    chosen := f.2.pwr.chosen.map fun c => (c.1, tick) }
  let g := { s.grp with groupId := fieldAt d 8 8, n := n, members := (List.range n).map (descId d), chain := (List.range n).map (descChain d)
                        reach := (List.range n).map fun r => (r, ((List.range 20).map (descPeer d r)).filter (· < 64))
                        join := none, joinCmd := none, joinTick := none, joinAcks := [], missed := [], statusSeen := [], sentCounts := []
                        msgSeq := [], gotSeq := [] }
  let s := { f.2 with tk := tk, pwr := pwr, grp := g, ports := ports, glb.rank := own, glb.inGroup := true, inbox := [] }
  if root then s else s.traceRec 0x0003 21 (toLE 4 table.tableId ++ toLE 2 table.tickUs)

/-- JOIN_GO (R291 step 5): at the commit point that starts JOIN_TICK, which is the root's tick then. GROUP_JOIN's completion and
the GROUP event go out with the next commit point. Under MODE 1 the width change of R296 follows.
DEDUCED (log 56); DESIGN CHOICE (log 75). -/
def execJoinGo (tick : BitVec 48) (copy : Option JoinCopy) (s : State) : Res :=
  match s.grp.join with
  | none => .next s
  | some d =>
    let own := (descOwn d).getD 0
    let n := descN d
    if s.grp.joinTick ≠ some tick.toNat || (own = 0 && s.tk.tick ≠ tick.toNat) then .next s else
    if descMode d = 1 && own = n - 1 && (copy.map s.lacksKey).getD false then .next (s.failJoin .eAuth) else
    let cmd := s.grp.joinCmd
    let s := s.takePlace d tick.toNat
    let s := match copy with
      | some c => if descMode d = 1 && own = n - 1 then s.takeCopies n own c else s
      | none => s
    let s := match cmd with | some c => s.stage [.complete c .ok (toLE 1 own)] | none => s
    .next (if descMode d = 1 then s.widthChange (maskWithout n n) true none
      else { s with grp.joinTable := [] }.stage [s.groupEvent])

/-- JOIN_TIMEOUT (R290). -/
def execJoinTimeout (s : State) : Res :=
  if s.grp.join.isNone || !s.pointReached s.grp.joinUntilUs then .next s else .next (s.failJoin .eTimeout)

/-! ### HELLO (R278, R279, R315, R316) -/

/-- Where a HELLO for an exchange goes: over the port, to the member, or to the handoff's peer. -/
def HelloVia.dst (v : HelloVia) (peer : Nat) : MsgDst :=
  match v with
  | .link p => .port p.val
  | .member r => .rank r.val
  | .transport _ => .device peer

/-- A HELLO sent: at once over a link, with the coming commit point otherwise. -/
def State.sendHello (s : State) (v : HelloVia) (peer : Nat) (body : Bytes) : State :=
  match v with
  | .link p => s.sendMsg (.port p.val) 0 (.hello body)
  | v => s.stage [.send (v.dst peer) (.hello body)]

/-- Phase 1 of an exchange that the peer has begun here too. -/
def State.beginExchange (s : State) (v : HelloVia) (peer : Nat) : KeyExchange × State :=
  match s.exchangeOf v with
  | some x => (x, s)
  | none =>
    let x := s.newExchange
    (x.1, x.2.sendHello v peer (helloBody v.kind 1 (s.helloContext v) x.1.nonce (Ecc.pubBytes x.1.ephPriv) []))

/-- A KIND 0 report for phase 2, with a fresh release key (R315, R317). DESIGN CHOICE (log 79). -/
def State.helloReport (s : State) (nonce : Bytes) : Bytes × State :=
  let d := s.drawFree
  let rid := d.1.toNat % 2 ^ 64
  let priv := d.1.toNat / 2 ^ 64 % (Ecc.n - 1) + 1
  let s := { d.2 with sec.releases := keepReleases (d.2.sec.releases ++ [({ id := rid, priv := priv, expiryUs := s.timeUs + 600000000 } : ReleaseKey)]) }
  s.report 0 rid (stampOf s.tk.tick 0) nonce [] (Ecc.pubBytes priv)

/-- The peer's phase 1 (R315): its nonce and key are taken, and phase 2 goes back. -/
def State.helloOne (s : State) (v : HelloVia) (body : Bytes) : State :=
  let peer := fieldAt body 0 8
  let b := s.beginExchange v peer
  let x := { b.1 with peerId := peer, peerNonce := sliceAt body 24 32, peerEph := sliceAt body 56 97, gotPhase1 := true }
  let s := b.2.putExchange v (some x)
  let r := s.helloReport (phase2Nonce v.kind (s.helloContext v) (Ecc.pubBytes x.ephPriv) x.peerNonce)
  r.2.sendHello v peer (helloBody v.kind 2 (s.helloContext v) [] [] r.1)

/-- A port comes up at the width of its lanes (R271); the flit sequence restarts (R316). -/
def Port.comeUp (p : Port) (rank : Nat) : Port :=
  { p with state := if p.laneMap = 0xFF then .up8 else .up4, peerRank := rank, retryBuf := [], tagFails := 0 }

/-- The rank that PEER_RANK shows for a peer (R272). DESIGN CHOICE (log 67). -/
def State.rankOfPeer (s : State) (peer : Nat) : Nat := if peer = 0 then 0xFE else (s.grp.members.idxOf? peer).getD 0xFD

/-- A port comes up. -/
def State.portUp (s : State) (p : Fin 20) (peer : Nat) : State :=
  { s with ports := s.ports.set p ((s.ports[p]).comeUp (s.rankOfPeer peer)) }

/-- An exchange is over and its peer's report accepted (R316): the keys are installed; a link comes up, a join acknowledges, a
handoff's hank is encrypted and its tiles begin. -/
def State.finishExchange (s : State) (v : HelloVia) (x : KeyExchange) : State :=
  let s := (s.putExchange v (some { x with done := true })).installExchange v x
  match v with
  | .link p => s.portUp p x.peerId
  | .member _ => s.ackJoin 0
  | .transport h =>
    let key := (s.sec.slots.find? fun e => e.2.kind == .transport && e.2.handoff = h.toNat).map fun e => keyBytes e.2.key
    match s.ss.copies.find? fun e => e.2.for_ = .handoff h.toNat, key with
    | some c, some k => s.fillCopy c.1 k true 0 0 h.toNat (stampOf s.tk.tick 0xFFFF)
    | _, _ => s

/-- The peer's report is not accepted (R316). -/
def State.failExchange (s : State) (v : HelloVia) : State :=
  match v with
  | .link p => s.traceRec 0x8008 20 (toLE 1 p.val ++ toLE 1 1)
  | .member _ => (s.ackJoin Status.eAuth.code).failJoin .eAuth
  | .transport h => s.updSrc h.toNat fun x => { x with aborted := some Status.eAuth.code }

/-- The peer's phase 2. -/
def State.helloTwo (s : State) (v : HelloVia) (body : Bytes) : State :=
  match s.exchangeOf v with
  | none => s
  | some x =>
    if !x.gotPhase1 || x.done then s
    else if fieldAt body 0 8 = x.peerId && s.acceptsReport v x (sliceAt body 160 1632) then s.finishExchange v x else s.failExchange v

/-- The version negotiated with a HELLO's range (R279). -/
def helloVersion (body : Bytes) : Option Nat :=
  let hi := Nat.min (fieldAt body 9 1) 0x22
  if Nat.max (fieldAt body 8 1) 0x20 ≤ hi then some hi else none

/-- The key-exchange block of a HELLO (R315), where it has one for this way. -/
def State.helloBlock (s : State) (v : HelloVia) (body : Bytes) : State :=
  if body.length < 1792 || fieldAt body 12 1 ≠ v.kind || fieldAt body 16 8 ≠ s.helloContext v then s
  else if fieldAt body 13 1 = 1 then s.helloOne v body
  else if fieldAt body 13 1 = 2 then s.helloTwo v body else s

/-- A HELLO over a link in KEYING: version, peer, and the exchange; a port to an external switch, whose HELLO carries DEVICE_ID 0
(DESIGN CHOICE), is up with its phase 1 alone. DESIGN CHOICE (log 67). -/
def State.helloLink (s : State) (p : Fin 20) (body : Bytes) : State :=
  if (s.ports[p]).state != .keying then s else
  match helloVersion body with
  | none => s.traceRec 0x8006 20 (toLE 1 p.val)
  | some n =>
    let peer := fieldAt body 0 8
    let s := { s with ports := s.ports.set p { s.ports[p] with version := n, peerId := peer } }
    let s := s.helloBlock (.link p) body
    if peer = 0 && fieldAt body 13 1 = 1 then
      (match s.exchangeOf (.link p) with | some x => s.finishExchange (.link p) x | none => s)
    else s

/-- HELLO (R315); every pair of members needs Twine 2.2 and ERA 1.0 (R79, R279, R290). -/
def execHello (via : HelloVia) (body : Bytes) (s : State) : Res :=
  if body.length < 12 then .next s else
  match via with
  | .link p => .next (s.helloLink p body)
  | .member r =>
    if s.grp.join.isNone then .next s
    else if helloVersion body ≠ some 0x22 || fieldAt body 10 2 ≠ 0x0100 then .next ((s.ackJoin Status.eVersion.code).failJoin .eVersion)
    else .next (s.helloBlock (.member r) body)
  | .transport h => .next (s.helloBlock (.transport h) body)

end Sys2Proof.Machine
end

