-- ==== Sys2Proof/Machine/Commit.lean ====
section
/-! DEFINITION. The commit window and the commit point (R45 to R51, R119, R158 to R166, R244 to R246, R284 to R287, R291, R293, R358). -/
namespace Sys2Proof.Machine

/-! ### The commit window opens (R48, R262, R287, R293) -/

/-- The name that a Steward command's mirror goes by. -/
def stewardKey (cmd session : Nat) : UnitKey := ⟨2 ^ 64 + cmd, session, 0⟩

/-- The command that a staged item belongs to: its number, mailbox and bytes. -/
def Item.command (i : Item) : Option (Nat × Nat × Cmd) :=
  i.effs.findSome? fun e => match e with | .accepted k m c => some (k, m, c) | _ => none

/-- CONSUMER of each ring is read (R262): a count that would exceed the ring is taken as a full ring, with an error record. -/
def State.readConsumers (s : State) : State :=
  s.ss.reqs.foldl (fun s e =>
    let q := e.2
    if q.dci.isSome || !s.samples q.session then s else
    match s.readHost .port0 (q.indexAddr + 8) 4 with
    | none => s
    | some b =>
      let c := leNat b
      if q.ringCount < (q.producer + 2 ^ 32 - c) % 2 ^ 32 then
        (s.updReq e.1 fun q => { q with consumer := (q.producer + 2 ^ 32 - q.ringCount) % 2 ^ 32 }).traceRec 0x8003 17 (toLE 4 e.1)
      else s.updReq e.1 fun q => { q with consumer := c }) s

/-- A finished unit whose spool entries the buddy has not acknowledged (R293). -/
def State.unacked (s : State) (i : Item) : Bool :=
  match i.unit with
  | none => false
  | some u => 1 < s.grp.n && (i.effs.any fun e => match e with | .spool j .. => s.samples j | _ => false) &&
      !s.work.acks.contains (u.nameAt s.tk.tick)

/-- The rank and the name of a staged command that is a group unit (R225). -/
def Item.vote (i : Item) : Option (Nat × UnitKey) :=
  i.effs.findSome? fun e => match e with | .groupVote r c => some (r, ⟨2 ^ 65 + r, 0, c.toNat⟩) | _ => none

/-- The name under which a group unit of a tick is decided. -/
def Item.groupKey (i : Item) (tick : Nat) : Option UnitKey :=
  match i.unit with
  | some u => if u.group then some (u.nameAt tick) else none
  | none => i.vote.map (·.2)

/-- A report to the coordinator: READY (R48). -/
def State.sendReady (s : State) (key : UnitKey) : State :=
  if s.grp.n ≤ 1 then s
  else if !(s.participants key).contains s.glb.rank then s
  else if s.glb.rank = s.coordinator key then s.vote s.glb.rank key true
  else s.sendMsg (.rank (s.coordinator key)) 0 (.ready key)

/-- The command changes a side list that a COMPACT unit of the tick holds (R43). -/
def Item.lockedOut (held : List UnitRec) (i : Item) : Bool :=
  i.effs.any fun e => match e with | .storeAppend k _ => held.any (·.kind == .compact k) | _ => false

/-- Every finished unit reports: READY, or NOT_READY without its MIRROR_ACK, which abandons it; a staged command that is a group unit
is READY where its checks have passed (R225) and no COMPACT unit holds its side list (R43). -/
def State.reportUnits (s : State) : State :=
  let s := s.work.done.foldl (fun s i => match i.unit with
    | none => s
    | some u =>
      if s.unacked i then { s with work.done := s.work.done.filter (· != i) }.abandonUnit i.slot u
      else if u.group then s.sendReady (u.nameAt s.tk.tick) else s) s
  s.work.steward.foldl (fun s i => match i.vote with
    | some v => if i.lockedOut s.lockHolders then s.sendNotReady v.2 else s.sendReady v.2
    | none => s) s

/-- What a staged item adds to the spools of sessions sampled here. -/
def State.itemMirror (s : State) (i : Item) : List MirrorEntry :=
  if s.grp.n ≤ 1 then [] else s.mirrorOf (s.applyItem 1 i).1 i.effs

/-- Steward commands mirror their entries (R293). -/
def State.sendMirrors (s : State) : State :=
  if s.grp.n ≤ 1 then s else
  s.work.steward.foldl (fun s i =>
    let ms := s.itemMirror i
    if ms.isEmpty then s else
    s.sendMsg (.rank ((s.glb.rank + 1) % s.grp.n)) 0 (.mirror (stewardKey ((i.command.map (·.1)).getD noCmd) (i.session.getD (2 ^ 24))) ms)) s

/-- STATUS for the tick before goes to every other member (R287). -/
def State.sendStatus (s : State) : State :=
  if !s.glb.inGroup then s else
  let counts := (List.range 64).map fun r => (Tb.get s.grp.sentCounts r).getD 0
  let s := { s with grp.sentCounts := [] }
  if s.tk.mute then s else s.sendAll 0 (.status (s.tk.tick - 1) counts)

/-- COMMIT_WINDOW_OPEN (R48): at TICK_US − 8 µs, when every slot has ended; Steward restarts its watchdog (R265). `hw` is what the host has written to its own memory.
DESIGN CHOICE (log 19, 132). -/
def execCommitWindowOpen (hw : List (Nat × Bytes)) (s : State) : Res :=
  if !s.ticking || s.tk.awaited || s.tableDue || s.tk.windowOpen || !s.tk.slots.isEmpty then .next s else
  let s := (s.hostWrites hw).atTime (s.tk.startUs + s.tickUs - 8)
  .next { s.readConsumers.reportUnits.sendMirrors.sendStatus with
    tk.windowOpen := true, glb.stewardUs := if s.serving then s.timeUs else s.glb.stewardUs }

/-- The group units whose coordinator this device is and that it has not decided. -/
def State.undecided (s : State) : List UnitKey :=
  ((((s.work.done ++ s.work.steward).filterMap fun i => i.groupKey s.tk.tick) ++
    s.work.votes.map (·.1)).dedup).filter fun k => (s.decisionOf k).isNone && s.glb.rank = s.coordinator k

/-- A coordinator without READY from all decides ABANDON. -/
def State.cutUndecided (s : State) : State :=
  if s.grp.n ≤ 1 then s else s.undecided.foldl (fun s k => s.settleVote k false) s

/-- COORDINATOR_DEADLINE (R48): at TICK_US − 5 µs. -/
def execCoordinatorDeadline (s : State) : Res :=
  if !s.ticking || !s.tk.windowOpen then .next s else .next (s.atTime (s.tk.startUs + s.tickUs - 5)).cutUndecided

/-- Steward commands whose mirror is not acknowledged are put back to be checked in the next tick (R293). -/
def State.cutUnacked (s : State) : State :=
  if s.grp.n ≤ 1 then s else
  let late (i : Item) : Bool := match i.command with
    | some (k, _, _) => !(s.itemMirror i).isEmpty && !s.work.acks.contains (stewardKey k (i.session.getD (2 ^ 24)))
    | none => false
  let l := s.work.steward.filter late
  { s with work.steward := s.work.steward.filter fun i => !late i, work.again := s.work.again ++ l.filterMap Item.command }

/-- MIRROR_ACK_DEADLINE (R293): at TICK_US − 2 µs. -/
def execMirrorAckDeadline (s : State) : Res :=
  if !s.ticking || !s.tk.windowOpen then .next s else .next (s.atTime (s.tk.startUs + s.tickUs - 2)).cutUnacked

/-! ### What the commit applies -/

/-- The running commit: the state, the next seq, whether R51's cap has been met, and the items put off. -/
structure Committing where
  s : State
  seq : Nat
  full : Bool
  later : List Item
  /-- Requests whose outcome is put off, and whether something that the commit point makes is. -/
  lateReqs : List Nat
  lateMade : Bool

/-- TICK_DEFER_CNT raised and DEFER set (R51, R52). -/
def TickSt.deferOne (t : TickSt) : TickSt :=
  let c := Nat.min (t.deferCnt + 1) 0x7FFFFFFF
  { t with deferCnt := c, deferSat := t.deferSat || c = 0x7FFFFFFF, defer := true, rose := t.rose || !t.defer }

/-- A deferral (R51, R350). -/
def State.deferItem (s : State) (i : Item) : State :=
  let s := { s with tk := s.tk.deferOne }
  match i.unit with
  | some u => s.traceRec 0x0013 17 (unitData u i.slot)
  | none => s

/-- The UNIT_COMMIT record and counter of a unit (R348, R350). -/
def State.noteCommit (s : State) (i : Item) : State :=
  match i.unit with
  | some u => (s.count 1 (4 * (u.cls.code - 1) + 1) 1).traceRec 0x0011 17 (unitData u i.slot)
  | none => s

/-- The next piece of system work joins its queue at the commit of the piece before it (R39). -/
def State.nextPiece (s : State) (i : Item) : State :=
  match i.unit with
  | some u => if u.left = 0 then s else s.addUnit u.kind u.tenant u.session u.left (stampOf s.tk.tick 0xFFFF) u.group
  | none => s

/-- The item's events still fit under the cap (R51). -/
def Committing.fits (a : Committing) (i : Item) : Bool := !a.full && a.seq + a.s.eventCount i ≤ 65536

/-- One item of a unit or a Steward command: committed, or deferred whole with every later one. After SHUTDOWN nothing follows. -/
def Committing.run (a : Committing) (i : Item) : Committing :=
  if !a.s.ticking then a
  else if a.fits i then
    let r := (a.s.noteCommit i).applyItem a.seq i
    { a with s := r.1.nextPiece i, seq := r.2 }
  else { a with s := a.s.deferItem i, full := true, later := a.later ++ [i] }

/-- An item that the commit point itself makes of the state, and what follows its commit; above the cap it waits for the next
commit point, which makes it again before its own tick's. The buddy makes the same spool entries of the sessions that it mirrors (R293).
DEDUCED (log 73). -/
def Committing.runNow (a : Committing) (i : Item) (after : State → State := id) : Committing :=
  if !a.s.ticking || i.effs.isEmpty then a
  else if a.fits i then
    let r := a.s.applyItem a.seq i
    let ms := a.s.spoolGrowth (a.s.applyItem a.seq { i with effs := i.effs.filter fun e => e.rank ≠ 5 }).1 a.s.mirrors i.effs
    { a with s := after (ms.foldl (fun s m => s.addMirror m) r.1), seq := r.2 }
  else { a with s := a.s.deferItem i, full := true, lateMade := true }

/-- Messages that the commit point sends of its own accord, and what goes with them. -/
def Committing.runSends (a : Committing) (effs : List Effect) (after : State → State) : Committing :=
  if effs.isEmpty then { a with s := after a.s } else a.runNow ⟨none, 16, none, effs⟩ after

/-! ### Units -/

/-- The decision on an item of a tick: none is needed outside a group or for what is no group unit. -/
def State.verdictOn (s : State) (tick : Nat) (i : Item) : Option Bool :=
  match i.groupKey tick with
  | some k => if 1 < s.grp.n then s.decisionOf k else some true
  | none => some true

/-- A command that was not committed is checked again in the next tick, by the member that accepted it.
DESIGN CHOICE (log 133). -/
def State.tryAgain (s : State) (i : Item) : State := { s with work.again := s.work.again ++ i.command.toList }

/-- The coordinator is asked again (R49). -/
def State.askDecision (s : State) (tick : Nat) (i : Item) : State :=
  match i.groupKey tick with
  | some k => if s.glb.rank = s.coordinator k then s else s.sendMsg (.rank (s.coordinator k)) 0 (.decisionQuery k)
  | none => s

/-- The rank that accepted a staged command (R168). -/
def Item.acceptedBy (own : Nat) (i : Item) : Nat :=
  (i.effs.findSome? fun e => match e with | .fromRank r => some r | _ => none).getD own

/-- An abandoned DESTROY (R221): a shard has a query or a COMPACT of the store that runs, so it fails with E_BUSY.
DESIGN CHOICE (log 133). -/
def Item.busyDestroy (i : Item) : Option Item :=
  if i.effs.any fun e => match e with | .storeDestroy _ => true | _ => false
  then i.command.map fun c => ⟨none, 16, none, [.complete c.1 .eBusy []]⟩ else none

/-- Steward's commands of the tick with their verdicts, in the order of the ranks that accepted them, which is the same on every member
(R225, R227): one whose side list a COMPACT unit of the tick holds is abandoned (R43). DESIGN CHOICE (log 130). -/
def State.judgeSteward (s : State) (held : List UnitRec) : List (Option Bool × Item) :=
  (s.work.steward.mergeSort fun a b => a.acceptedBy s.glb.rank ≤ b.acceptedBy s.glb.rank).map fun i =>
    let v := if s.grp.n ≤ 1 && i.lockedOut held then some false else s.verdictOn s.tk.tick i
    match v, i.busyDestroy with
    | some false, some j => (some true, j)
    | v, _ => (v, i)

/-- What becomes of Steward's commands that are group units (R48, R49, R225): the list that commits, and the state in which abandoned ones
are tried again and others stay in doubt. `held` are the units that hold locks till this commit point.
DESIGN CHOICE (log 133). -/
def State.sortSteward (s : State) (held : List UnitRec) : List Item × State :=
  let l := s.judgeSteward held
  let doubt : List (Nat × Item) := (l.filter fun e => e.1.isNone).map fun e => (s.tk.tick, e.2)
  let s := { s with work.steward := [], work.inDoubt := s.work.inDoubt ++ doubt }
  let s := (l.filter fun e => e.1 = some false).foldl (fun s e => s.tryAgain e.2) s
  ((l.filter fun e => e.1 = some true).map (·.2), doubt.foldl (fun s e => s.askDecision e.1 e.2) s)

/-- What becomes of the finished and the doubtful units (R48, R49): those that commit now, in the order of R50, and the state in
which the abandoned ones are queued again and the others stay in doubt. A unit in doubt that a later commit applies comes before all of
that tick's own units; R50 gives it no place. DESIGN CHOICE (log 77). -/
def State.sortUnits (s : State) : List Item × State :=
  let done := s.work.done.mergeSort fun a b => a.slot ≤ b.slot
  let all := s.work.inDoubt ++ done.map fun i => (s.tk.tick, i)
  let verdict (e : Nat × Item) : Option Bool := s.verdictOn e.1 e.2
  let s0 := { s with work.done := [], work.inDoubt := all.filter fun e => (verdict e).isNone }
  let s1 := (all.filter fun e => verdict e = some false).foldl (fun s e => match e.2.unit with
    | some u => s.abandonUnit e.2.slot u
    | none => s.tryAgain e.2) s0
  let s2 := (all.filter fun e => (verdict e).isNone).foldl (fun s e => s.askDecision e.1 e.2) s1
  ((all.filter fun e => verdict e = some true).map (·.2), s2)

/-- IN_DOUBT_EXPIRY (R49): after 64 ticks the unit is abandoned (R40); its session's KV is recomputed and its request goes on from the
committed history (R342). DEDUCED (log 72). -/
def execInDoubtExpiry (u : Nat) (s : State) : Res :=
  match s.work.inDoubt[u]? with
  | none => .next s
  | some (t, i) =>
    if s.tk.tick < t + 64 then .next s else
    let s := { s with work.inDoubt := s.work.inDoubt.filter (· != (t, i)) }
    match i.unit, i.session.bind fun j => (Tb.get s.ss.sessions j).map fun x => (j, x) with
    | some v, some (j, x) =>
      if x.hist.length ≤ 1 then .next (s.abandonUnit i.slot v) else
      let s := ({ s with tk := s.tk.abandonOne }.releaseKv j).updSess j fun x => { x with guesses := [], residuals := [] }
      let s := s.updReq x.reqId fun q => { q with firstStep := true }
      let s := s.startRebuild j ⟨x.hist.length - 1, 64, 64, x.formats, none, none, [], [], false, 0⟩ (stampOf s.tk.tick 0xFFFF)
      .next (s.stage [.spool j 0x0D 0 (toLE 4 x.hist.length)] (some j))
    | some v, none => .next (s.abandonUnit i.slot v)
    | none, _ => .next (s.tryAgain i)

/-! ### Requests and DCI turns -/

/-- One request's outcome (R159 to R164); an epoch drain's acting commit also writes EPOCH_PARK and orders the park (R196).
DEDUCED (log 15). -/
def Committing.runReq (a : Committing) (r : Nat) : Committing :=
  if a.s.grp.held then a else
  match Tb.get a.s.ss.reqs r with
  | none => a
  | some q => match a.s.reqOutcome r q with
    | none => a
    | some o =>
      let acts := a.s.holdsOutput q && o.events.any fun e => match e with | .reqDone .. => true | _ => false
      let more : List Effect := if acts then [.spool q.session 0x12 0 (payEpochPark q.epoch a.s.ten.map.epoch r)] else []
      let i : Item := ⟨none, 16, some q.session, o.events ++ more⟩
      if !a.fits i then { a with s := a.s.deferItem i, full := true, lateReqs := a.lateReqs ++ [r] } else
      let b := Committing.runNow { a with s := o.pre a.s } i
      if acts then b.runNow ⟨none, 16, some q.session, b.s.epochPark q.session⟩ else b

/-- A DCI turn that is over (R268, R269): INPUT when its prefill is done, STEP with its token. -/
def Committing.runDci (a : Committing) (r : Nat) : Committing :=
  match Tb.get a.s.ss.reqs r with
  | none => a
  | some q => match q.dci, Tb.get a.s.ss.sessions q.session with
    | some tag, some x =>
      if q.maxNew = 0 && q.phase = .decode then
        a.runNow ⟨none, 16, some q.session, [.dciComplete tag 2 .ok (toLE 4 x.hist.length)]⟩ fun s => s.freeReq r
      else match q.out with
        | t :: _ =>
          let eos := ((a.s.archOf x).map fun c => c.eosIds.contains t.tok).getD false
          a.runNow ⟨none, 16, some q.session, [.dciComplete tag 3 .ok (toLE 4 t.tok ++ toLE 4 t.pos ++ toLE 1 (if eos then 1 else 0))]⟩
            fun s => s.freeReq r
        | [] => a
    | _, _ => a

/-! ### Items that the state makes -/

/-- QUERY_OWNER commands without an answer within 100 ms (R258). -/
def Committing.runAsks (a : Committing) : Committing :=
  a.s.ss.dsts.foldl (fun a e => match e.2.ask with
    | some (c, t) => if t ≤ a.s.timeUs then a.runNow ⟨none, 16, none, [.complete c .eTimeout []]⟩ fun s => s.updDst e.1 fun d => { d with ask := none }
        else a
    | none => a) a

/-- GROUP_SHRINK completes when the removed device's sessions have moved (R300). -/
def Committing.runShrink (a : Committing) : Committing :=
  match a.s.grp.shrinkCmd with
  | some (c, _, _) =>
    if a.s.grp.shrink.isSome || !a.s.grp.moves.isEmpty then a
    else a.runNow ⟨none, 16, none, [.complete c .ok []]⟩ fun s => { s with grp.shrinkCmd := none, grp.shrinkUntilUs := 0 }
  | none => a

/-- The copy of a hang dump (R358): one tick after its acceptance, unless a page of its place is not present.
DESIGN CHOICE (log 31). -/
def Committing.runDump (a : Committing) : Committing :=
  match a.s.dbg.dumpCmd, a.s.dbg.staged with
  | some (c, _, addr), some d =>
    if a.s.rangeAbsent .port0 addr d.length then a else
    a.runNow ⟨none, 16, none, [.hostWrite .port0 addr d, .complete c .ok (toLE 8 d.length)]⟩ fun s =>
      { s with dbg.dumpCmd := none, dbg.staged := none }
  | _, _ => a

/-- The handoffs and queries that this commit point settles (R189 to R191, R231, R235). -/
def Committing.runLate (a : Committing) : Committing :=
  if a.s.grp.held then a else
  let s := a.s
  let is := s.srcItems ++ s.dstItems ++ s.queryItems ++ s.topkSends
  (is.foldl (fun a i => a.runNow i) a).runAsks.runShrink.runDump

/-- What Steward's commands of the tick can have changed: drains that end (R96), and the claims' next blocks, the first at the commit
that accepts CLAIM (R198). -/
def Committing.runAfter (a : Committing) : Committing :=
  if a.s.grp.held then a else
  (a.s.drainItems ++ a.s.claimItems).foldl (fun a i => a.runNow i) a

/-- The TICK event (R251). -/
def Committing.runTick (a : Committing) : Committing :=
  if !a.s.tk.rose then a
  else a.runNow ⟨none, 16, none, [.event 0xE004 (toLE 4 a.s.tk.status)]⟩ fun s => { s with tk.rose := false }

/-! ### The entry into direct host mode (R264) -/

/-- What ends with Steward's work at the entry commit point: background work fails, and the commands that are still pending
complete with E_INTERNAL. -/
def State.endings (s : State) : List Item :=
  let item (effs : List Effect) (i : Option Nat := none) : Item := ⟨none, 16, i, effs⟩
  let done (c : Option Nat) : List Effect := (c.map fun c => (.complete c .eInternal [] : Effect)).toList
  (s.ss.copies.filter fun c => c.2.for_ != .chkpt).map (fun c => item (s.copyFailEffects c.1 .eInternal) (some c.2.session)) ++
    s.ss.revivals.map (fun v => item (s.reviveFailEffects v.1 .eInternal) (some v.2.session)) ++
    (s.ss.rebuilds.filter fun b => (s.ss.revivals.all fun v => v.2.session != b.1)).map (fun b =>
      item (.rebuildFail b.1 (match b.2.entry with | some (_, 3, _) => true | _ => false) :: done b.2.cmd) (some b.1)) ++
    (if s.chkpt.isSome then [item (s.chkptFailEffects .eInternal)] else []) ++
    (if s.restore.isSome then [item (.restoreEnd :: done (s.restore.bind (·.cmd)))] else []) ++
    (s.img.models.filter fun m => m.2.state == .loading).map (fun m => item (.modelFree m.1 :: done m.2.cmd)) ++
    s.st.queries.map (fun q => item (.queryEnd q.1 :: done q.2.cmd))

/-- The entry ends a request as a CANCEL without DISCARD_TURN would (R264): one that comes too late where its completion is decided. -/
def State.cancelAtEntry (s : State) (r : Nat) : State :=
  s.updReq r fun q => { q with cancel := if q.heldReason.isSome then some (0, false) else none }

/-- A request that the entry ends, with E_INTERNAL and so with REASON 0 (R164, R250, R264); one whose completion was decided before
carries CANCEL_LATE. -/
def State.endedReq (s : State) (r : Nat) (q : Req) : List Effect :=
  if q.dci.isSome then []
  else if q.phase = .stalled then [.spool q.session 0x09 0 (toLE 4 r)]
  else
    s.records r (q.out.filter fun t => !t.published) true ++ s.doneEvents r q .eInternal 0

/-- Direct host mode is in force (R264, R306): queued work is gone, the device is alone. DEDUCED (log 85). -/
def State.enterDirect (s : State) (cause : Nat) : State :=
  let no := s.tk.noUnits
  let s := { s.dropWork with tk.noUnits := no, ss.rebuilds := [], img.exchanges := [], dbg.dumpCmd := none }
  let s := if s.glb.inGroup then s.standAlone.stage [s.standAlone.groupEvent] else s
  { s with glb.mode := .direct, glb.ready := false, glb.restarting := false, dci.active := true, dci.cause := cause, dci.entering := none }.setSticky 3

/-- The entry commit point (R264). DEDUCED (log 85). -/
def Committing.runEntry (a : Committing) : Committing :=
  match a.s.dci.entering with
  | none => a
  | some cause =>
    let ids : List Nat := a.s.ss.reqs.map (·.1)
    let a : Committing := { a with s := ids.foldl State.cancelAtEntry a.s }
    let a := ids.foldl (fun (a : Committing) r => match Tb.get a.s.ss.reqs r with
      | some q => a.runNow ⟨none, 16, some q.session, a.s.endedReq r q⟩
      | none => a) a
    let a := a.s.endings.foldl (fun (a : Committing) i => a.runNow i) a
    let a := (a.s.cmds.map (·.1)).foldl (fun (a : Committing) c => a.runNow ⟨none, 16, none, [.complete c .eInternal []]⟩) a
    if a.full then a else { a with s := a.s.enterDirect cause, later := [] }

/-! ### After the items -/

/-- The step of a checkpoint (R181, R333): the content is fixed at this commit point, after all that it applies; in a group success or
failure goes by the exchange. -/
def State.chkptDue (s : State) : State :=
  match s.chkpt with
  | none => s
  | some k =>
    if k.step ≠ s.tk.tick || !k.tiles.isEmpty then s else
    if s.grp.n ≤ 1 then (match s.chkptStep k with
      | .ok z => z.orderCheckpoint (stampOf s.tk.tick 0xFFFF)
      | .error st => { s with chkpt := none }.stage (k.cmd.map fun c => (.complete c st [] : Effect)).toList) else
    let d := chkptDigest k.step
    match s.chkptStep k with
    | .ok z =>
      let x : Exchange := { what := .checkpoint, digest := d, cmd := k.cmd, startUs := s.timeUs, waitUs := s.timeUs + 3600000000, loadedHere := false
                            loadedRanks := [], applyTick := none, version := 0 }
      (z.putNewExchange x).reportLoadedOf x.digest
    | .error st =>
      { s with chkpt := none }.stage ((k.cmd.map fun c => (.complete c st [] : Effect)).toList ++ s.failSends k.accepting d st)

/-- Committed messages that are complete with their sender's STATUS are delivered in ascending stamp and rank (R287); one from
outside the group needs none. DESIGN CHOICE (log 14). -/
def State.deliverWhere (s : State) (p : Instr → Bool) : State :=
  let whole (r t : Nat) : Bool := r = 64 || s.grp.statusSeen.any fun e =>
    e.1 = r && e.2.1 = t && decide (e.2.2 ≤ (s.inbox.countP fun m => m.1 = r && m.2.1 = t) + s.grp.taken.count (r, t))
  let due := (s.inbox.filter fun m => whole m.1 m.2.1 && p m.2.2).mergeSort fun a b => a.2.1 < b.2.1 || (a.2.1 = b.2.1 && a.1 ≤ b.1)
  let s := { s with inbox := s.inbox.filter fun m => !(whole m.1 m.2.1 && p m.2.2)
                    grp.taken := s.grp.taken ++ due.map fun m => (m.1, m.2.1) }
  due.foldl (fun s m => s.deliver m.2.2) s

/-- Every message that is due is delivered; old counts go. -/
def State.deliverAll (s : State) : State :=
  let s := s.deliverWhere fun _ => true
  { s with grp.taken := [], grp.statusSeen := s.grp.statusSeen.filter fun e => s.tk.tick < e.2.1 + 8 }

/-- Prune units that a threshold starts (R128): the pass runs on the tree's Spindle, and every member applies its deletes to what it
holds of the tree. -/
def State.pruneUnits (s : State) : State :=
  s.ten.tenants.foldl (fun s e =>
    if 7 * (e.2.treeMib * 1048576) < 8 * s.treeUse e.1 && !s.hasUnit (· == .prune e.1)
    then s.addUnit (.prune e.1) (some e.1) none 1 (stampOf s.tk.tick 0xFFFF) true else s) s

/-- The tenants that had a DECODE unit queued or running in the tick (R286). -/
def State.decodeTenants (s : State) : List Nat :=
  (s.ten.tenants.filter fun e => e.2.decodeSeen || s.work.queue.any fun u => u.cls == .decode && u.tenant = some e.1).map (·.1)

/-- Tenant shapers at a commit point (R284, R286): the charge for the tick's tokens has been made with its steps. -/
def State.refillTenants (s : State) (busy : List Nat) : State :=
  let f (e : Nat × Tenant) : Nat × Tenant :=
    let b := if 0 < e.2.bucket && !busy.contains e.1 then 0 else e.2.bucket
    (e.1, { e.2 with bucket := min (b + (e.2.rate * s.tickUs : Nat)) ((e.2.burst * 1000000 : Nat) : Int), decodeSeen := false })
  let ts : Tbl Tenant := s.ten.tenants.map f
  { s with ten.tenants := ts }

/-- The member's pair of R35: its staged table, where the commit point ends that table's B, else zeros.
DESIGN CHOICE (log 57). -/
def State.tablePair (s : State) : Nat × Digest :=
  match s.tk.staged with
  | some g => if g.table.startTick = s.tk.tick + 64 then (g.table.tableId, g.digest) else (0, 0)
  | none => (0, 0)

/-- TABLE_DIGEST at the end of a whorl boundary tick (R35). DESIGN CHOICE (log 57). -/
def State.tableExchange (s : State) : State :=
  if !s.glb.inGroup || s.tk.tick % 64 ≠ 0 then s else
  let s := { s with tk.verdictSent := false }
  if s.glb.rank = 0 then { s with tk.digests := Tb.set s.tk.digests 0 s.tablePair, tk.verdictBy := some (s.tk.tick + 8) }
  else s.sendMsg (.rank 0) 0 (.tableDigest s.tablePair.1 s.tablePair.2)

/-- The verdict at the first commit point at which the lowest rank holds a pair from every member (R35). DESIGN CHOICE (log 57). -/
def State.verdictDue (s : State) : Option Bool :=
  if !s.glb.inGroup || s.tk.verdictBy.isNone || s.tk.verdictSent || !((List.range s.grp.n).all fun r => Tb.has s.tk.digests r) ||
    s.tk.digests.all (fun e => e.2 = (0, 0)) then none else
  let own := (Tb.get s.tk.digests 0).getD (0, 0)
  some (own ≠ (0, 0) && s.tk.digests.all fun e => e.2 = own)

/-- The decider's verdict goes out (R35, R50). -/
def Committing.runVerdict (a : Committing) : Committing :=
  match a.s.verdictDue with
  | some go => a.runSends (a.s.verdictSends go) fun s => s.decideTable go
  | none => a

/-- ACTIVATE goes out for what every member has loaded (R50, R92): it is applied at T + 2. -/
def Committing.runActivate (a : Committing) : Committing :=
  a.s.img.exchanges.foldl (fun a e =>
    let x := e.2
    let t := a.s.tk.tick + 2
    if !a.s.exchangeReady x then a else
    a.runSends (((List.range a.s.grp.n).filter (· ≠ a.s.glb.rank)).map fun r => .send (.rank r) (.activate x.digest t x.nextVersion))
      fun s => s.updExchange e.1 fun x => { x with applyTick := some t, version := x.nextVersion }) a

/-- Rank 0's part of a join at a commit point (R291 steps 3 and 5). -/
def State.joinSteps (s : State) : State :=
  match s.grp.join with
  | none => s
  | some d =>
    if (descOwn d).getD 0 ≠ 0 then s else
    let n := descN d
    let others := (List.range n).filter (· ≠ 0)
    match s.grp.joinTick with
    | none =>
      if !((List.range n).all fun r => s.grp.joinAcks.contains r) then s else
      let t := roundUp (s.tk.tick + 128) 64
      let s := { s with grp.joinTick := some t, grp.joinTable := [1] }
      others.foldl (fun s r => s.sendMsg (.rank r) 0 (.joinPropose t s.tk.table)) s
    | some t =>
      if t ≠ s.tk.tick + 1 then s else
      let c := if descMode d = 1 then some (s.joinCopy s.mapImage) else none
      others.foldl (fun s r => s.sendMsg (.rank r) 0 (.joinGo t c)) s

/-- The root's marker for the tick that begins (R27). -/
def State.sendMarkers (s : State) : State :=
  if !(s.glb.inGroup || s.grp.joinTick.isSome) || s.glb.rank ≠ 0 then s else
  (List.finRange 20).foldl (fun s p =>
    if s.ports[p].leadsToMember
    then s.sendMsg (.port p.val) 0 (.marker s.tk.tick 0) else s) s

/-- A mailbox in the commit window (R240, R245, R246): its shadow block where something in it has changed, and one vector 0
interrupt where completions were published. -/
def State.publishMbx (s : State) (m : Fin 64) : State :=
  let b := s.mbx[m]
  let new := b.cqTail != b.shCqTail
  let s := if new && b.irqEn then s.updMbx m fun b => { b with irq0 := b.irq0 + 1 } else s
  if !b.shadowDue || !b.enabled then s else
  let block := toLE 4 b.sqHead ++ toLE 4 b.cqTail ++ toLE 8 (if new then b.shadowStamp else stampOf s.tk.tick 0) ++ toLE 4 b.lost ++ zeros 44
  (s.writeHost .port0 b.shadow.toNat block).updMbx m fun b => { b with shSqHead := b.sqHead, shCqTail := b.cqTail, shadowDue := false }

/-- The next tick begins (R23, R38, R44): locks and credits are returned, the allowance is whole again, every gate list is at
its first entry (R282). A device that follows the root awaits the edge or the marker that starts it, unless its edge has
come already (R26, R27). Commands that were abandoned are tried again; a group command, so that two members' commands do not abandon
each other for ever, in the ticks that are the member's turn. DESIGN CHOICE (log 133). -/
def State.nextTick (s : State) : State :=
  let s := if s.tk.refused then s.count 7 3 1 else s
  let missed : Tbl Nat := if s.glb.inGroup then
    ((List.range s.grp.n).filter (· ≠ s.glb.rank)).map fun r => (r, (Tb.get s.grp.missed r).getD 0 + 1) else []
  let follows := s.glb.inGroup && s.glb.rank != 0
  let start := if follows then Nat.max s.timeUs (s.tk.edgeDue.getD 0) else s.timeUs
  let s := { s with
    tk.missedEdges := if follows then s.tk.missedEdges else 0
    tk.missedBeats := if follows then s.tk.missedBeats + 1 else 0
    tk.goodEdges := if s.tk.edgeSeen then s.tk.goodEdges else 0
    tk.awaited := follows && s.tk.edgeDue.isNone, tk.edgeSeen := s.tk.edgeDue.isSome, tk.edgeDue := none }
  let g (u : UnitRec) : UnitRec := { u with notIn := [] }
  let queue : List UnitRec := s.work.queue.map g
  let gates : Vector Port 20 := s.ports.map fun (x : Port) => { x with gateEntry := 0 }
  let s : State := { s with
    tk := { s.tk with tick := s.tk.tick + 1, startUs := start, slots := [], windowOpen := false, refused := false, allowLeft := s.pwr.allow }
    work := { s.work with queue := queue, votes := [], acks := [], storeCredits := [], tenantTiles := []
                          decisions := s.work.decisions.filter fun d => s.tk.tick < d.tick + 64 }
    grp.missed := missed
    ports := gates }
  let again := s.work.again
  let q : State := s
  let mine (c : Nat × Nat × Cmd) : Bool := (groupVoteOf 0 c.2.2).isEmpty || s.grp.n ≤ 1 || s.tk.tick % s.grp.n = s.glb.rank
  (again.filter mine).foldl (fun s c => s.rerun c.1 c.2.1 c.2.2) { q with work.again := again.filter fun c => !mine c }.sendMarkers

/-- What the commit point settles once its items are applied (R112, R119, R128, R228, R284 to R287, R291, R293, R320). -/
def State.settleCommit (s : State) (busy : List Nat) : State :=
  let s := s.chkptDue
  let s := s.ss.sessions.foldl (fun s e => s.trimSess e.1) s
  let s := s.settleMirrors.deliverAll.settlePages.settleSlots.settleStores.unzero
  let s := (s.freeingUnits (stampOf s.tk.tick 0xFFFF)).clearRemoved.pruneUnits
  let s := if s.grp.moves.isEmpty && s.grp.join.isNone then { s with grp.joinTable := [] } else s
  (s.refillTenants busy).tableExchange.joinSteps

/-- The items of the commit point in their order (R50, R51): what was deferred, the units, what the requests come to, what the
state has made due, Steward's commands, the requests that a RESUME of the tick and a CANCEL after it have stopped (R164), what follows from them, DCI turns, the copies ordered (R181), the TICK event, and the entry into direct host mode.
DEDUCED (log 15). -/
def State.commitItems (s : State) : Committing :=
  let p := s.sortUnits
  let old := p.2.work.deferred
  let q := p.2.sortSteward s.lockHolders
  let cmds := q.1
  let a : Committing := ⟨{ q.2 with work.deferred := [], work.lateReqs := [], work.lateMade := false }, 1, false, [], [], false⟩
  let a := (old.filter (·.unit.isSome)).foldl Committing.run a
  let a := p.2.work.lateReqs.foldl Committing.runReq a
  let a := if p.2.work.lateMade then a.runLate else a
  let a := (old.filter (·.unit.isNone)).foldl Committing.run a
  let a := p.1.foldl Committing.run a
  let resumed := (cmds.flatMap (·.effs)).filterMap fun e => match e with | .resume r .. => some r | _ => none
  let a := ((a.s.ss.reqs.map (·.1)).filter fun r => !resumed.contains r).foldl Committing.runReq a
  let a : Committing := { a with s := a.s.deliverWhere fun i => match i with | .topk .. => true | _ => false }
  let a := a.runLate
  let a := (resumed.foldl Committing.runReq (cmds.foldl Committing.run a)).runAfter
  let a := (a.s.ss.reqs.map (·.1)).foldl Committing.runDci a
  { a with s := a.s.takeFresh }.runTick.runEntry

/-- The commit point that ends the running tick (R45). -/
def State.commitPoint (s : State) : State :=
  let s := (s.atTime (s.tk.startUs + s.tickUs)).cutUndecided.cutUnacked
  let busy := s.decodeTenants
  let a := s.commitItems
  let a := { a with s := a.s.settleCommit busy }.runActivate.runVerdict
  let s := { a.s with work.deferred := a.later, work.lateReqs := a.lateReqs, work.lateMade := a.lateMade }
  ((List.finRange 64).foldl State.publishMbx s).nextTick

/-- COMMIT_POINT (R45). -/
def execCommitPoint (s : State) : Res :=
  if s.ticking && s.tk.windowOpen then .next s.commitPoint else .next s

end Sys2Proof.Machine
end

