-- ==== Sys2Proof/Machine/Ticks.lean ====
section
/-! DEFINITION. Tick sources, tick faults, whorl boundaries, operating points, the activation of a schedule table and its
verdict (R26 to R29, R35, R363, R364, R367). -/
namespace Sys2Proof.Machine

/-! ### Tick sources (R26 to R29) -/

/-- The device takes its ticks from the root (R26). -/
def State.follows (s : State) : Bool := s.ticking && s.glb.inGroup && s.glb.rank != 0

/-- The pins start the device's ticks (R28): on automatic while the marker source is not active, and under SRC 0b01. -/
def State.onPins (s : State) : Bool := s.tk.src = 1 || (s.tk.src = 0 && !s.tk.onMarker)

/-- The tick whose number stands starts at a time, not before the end of the tick before it, which has been its nominal start
(R26, R27). -/
def State.beginTick (s : State) (at_ : Nat) : State :=
  { s with tk.awaited := false, tk.startUs := Nat.max s.tk.startUs at_ }

/-- The device measures its pin delay: it has the JOIN_PROPOSE of a join, whose root drives both tick sources (R291 step 4). -/
def State.measures (s : State) : Bool :=
  match s.grp.join with
  | some d => s.grp.joinTick.isSome && (descOwn d).getD 0 ≠ 0
  | none => false

/-- An edge or a marker-derived tick start of the measurement; with its partner of the same tick, the one less than half a tick
away, it makes a sample: edge time less tick start (R291 step 4). DESIGN CHOICE (log 33). -/
def State.pinSample (s : State) (edge mark : Option Nat) : State :=
  if !s.measures then s else
  let e := edge.or s.tk.pinEdge
  let m := mark.or s.tk.pinMark
  match e, m with
  | some a, some b =>
    if 2 * (a - b + (b - a)) < s.tickUs then
      { s with tk.pinEdge := none, tk.pinMark := none, tk.pinSamples := s.tk.pinSamples ++ [(a : Int) - b] }
    else { s with tk.pinEdge := edge, tk.pinMark := mark }
  | _, _ => { s with tk.pinEdge := e, tk.pinMark := m }

/-- TICK_IN_EDGE (R26, R28, R291): an edge, `sinceUs` after the edge before it; it is good within the tick length + 1 µs. On the pin
source it starts the awaited tick after the fixed delay of the device's place in the chain; one that comes before the commit
point, within that delay, starts the coming tick. A tick that an edge starts later than that is a tick without a good edge. Before
JOIN_TICK the edge is a sample of the pin delay. DEDUCED (log 80). -/
def execTickInEdge (sinceUs : Nat) (s : State) : Res :=
  let now := Nat.max s.timeUs (s.tk.edgeUs + sinceUs)
  let s := s.pinSample (some now) none
  if !s.follows then .next (if s.measures then { s with timeUs := now, tk.edgeUs := now } else s) else
  let good := decide (sinceUs ≤ s.tickUs + 1)
  let start := now + (s.tk.pinDelayNs + 500) / 1000
  let early := s.tk.windowOpen && s.onPins
  let s : State := { s with
    timeUs := now
    tk := { s.tk with
      edgeUs := now, edgeSeen := true, missedBeats := 0
      missedEdges := if good then 0 else if early || (s.tk.awaited && s.onPins) then s.tk.missedEdges + 1 else s.tk.missedEdges
      goodEdges := if good then s.tk.goodEdges + 1 else 0, edgeDue := if early then some start else s.tk.edgeDue } }
  .next (if s.tk.awaited && s.onPins then s.beginTick start else s)

/-- A tick fault (R29): the bit, no new units, and the device leaves the group. DEDUCED (log 80). -/
def State.faultTick (s : State) : State :=
  { s with tk.tickFault := true, tk.rose := s.tk.rose || !s.tk.tickFault }.leaveGroup

/-- The ports to which a marker that came through `port` is passed on: those that lead to a member which the sender does not
reach (R27). A switch leads to every member behind it. DEDUCED (log 80). -/
def State.markerPorts (s : State) (port : Fin 20) : List (Fin 20) :=
  let sender := s.ports[port].peerRank
  let reached := sender :: (Tb.get s.grp.reach sender).getD []
  (List.finRange 20).filter fun p =>
    let x := s.ports[p]
    p != port && x.leadsToMember && !reached.contains x.peerRank

/-- TICK_MARKER (R27, R28): a marker of the tick that is due. One that names another tick is a tick fault (R29); a device that
has lost its pins, or takes markers only, is on the marker source from it. It starts the awaited tick, at its arrival less the
link's latency, on the marker source, and on automatic where the edge has not come. Before JOIN_TICK it is a sample of the pin
delay. DESIGN CHOICE (log 12); DEDUCED (log 80). -/
def execTickMarker (port : Fin 20) (tick : BitVec 48) (root : Fin 64) (s : State) : Res :=
  let s := s.pinSample none (some (s.timeUs - s.ports[port].latencyNs / 1000))
  if !s.follows then .next s
  else if tick.toNat ≠ s.tk.tick then .next s.faultTick
  else
    let on := s.tk.src ≠ 1 && (s.tk.onMarker || s.tk.toMarker || s.tk.src = 2)
    let starts := s.tk.awaited && (on || s.tk.src = 0)
    let missed := if starts && !on then s.tk.missedEdges + 1 else s.tk.missedEdges
    let s := { s with tk.missedBeats := 0, tk.onMarker := on, tk.toMarker := false, tk.missedEdges := missed }
    let s := if starts then s.beginTick (s.timeUs - s.ports[port].latencyNs / 1000) else s
    .next ((s.markerPorts port).foldl (fun s p => s.sendMsg (.port p.val) 0 (.marker tick.toNat root.val)) s)

/-- The ticks in a row that have ended without a good edge (R28): the running tick has not ended. -/
def State.edgeless (s : State) : Nat := if s.tk.awaited then s.tk.missedEdges else s.tk.missedEdges - 1

/-- PIN_LOSS (R28): on automatic, two ticks in a row have ended with no edge within the tick length + 1 µs of the one before. -/
def execPinLoss (s : State) : Res :=
  if !s.follows || s.tk.src ≠ 0 || s.tk.onMarker || s.tk.toMarker || s.edgeless < 2 then .next s else
  .next { s with tk.pinLoss := true, tk.rose := s.tk.rose || !s.tk.pinLoss, tk.toMarker := true }

/-- PIN_RESTORE (R28): on automatic, at a whorl boundary after 64 ticks in a row with a good edge. -/
def execPinRestore (s : State) : Res :=
  if !s.follows || s.tk.src ≠ 0 || !s.tk.onMarker || s.tk.goodEdges < 64 || s.tk.tick % 64 ≠ 0 then .next s else
  .next { s with tk.onMarker := false }

/-- TICK_FAULT (R29): a marker with another tick number; or neither edge nor marker within twice the tick length, or on pins only
an awaited edge that has not come (R28). -/
def execTickFault (marker : Option (BitVec 48)) (s : State) : Res :=
  let faulty := match marker with
    | some t => decide (t.toNat ≠ s.tk.tick)
    | none => s.tk.awaited && (decide (1 ≤ s.tk.missedBeats) || s.tk.src = 1)
  if s.follows && faulty then .next s.faultTick else .next s

/-! ### Whorl boundaries (R363, R364, R366, R367) -/

/-- WHORL_BOUNDARY (R361, R363, R366): the ledger is settled at the start of a boundary tick, after a table that becomes active
there and after the sequencer's step; `measuredUj` is E_w. DEDUCED (log 99); DESIGN CHOICE (log 112). -/
def execWhorlBoundary (measuredUj : Nat) (s : State) : Res :=
  let step := match s.pwr.chosen with | some (_, t) => decide (t ≤ s.tk.tick) | none => false
  if !s.ticking || s.tk.tick % 64 ≠ 0 || s.tk.tick / 64 ≤ s.pwr.settled || s.tableDue || step then .next s else
  .next (s.settleWhorl measuredUj)

/-- OPERATING_POINT_STEP (R367): the step chosen at the boundary before is carried out, or cancelled where a PLL or a rail
misses. -/
def execOperatingPointStep (ok : Bool) (s : State) : Res :=
  match s.pwr.chosen with
  | none => .next s
  | some (down, t) => if !s.ticking || s.tk.tick < t then .next s else .next (s.stepPoint down ok)

/-- PEAK_TRIP (R364). -/
def execPeakTrip (s : State) : Res := if s.ticking then .next s.peakTrip else .next s

/-! ### Schedule tables (R24, R35) -/

/-- A table becomes active; its CONFIG record is written (R35, R350). -/
def State.activateTable (s : State) (t : SchedTable) : State :=
  { s with tk.table := t, tk.staged := none }.traceRec 0x0003 21 (toLE 4 t.tableId ++ toLE 2 t.tickUs)

/-- SCHED_ACTIVATE (R35): at START_TICK; in a group only under GO. No slot of that tick starts before it. -/
def execSchedActivate (s : State) : Res :=
  match s.tk.staged with
  | none => .next s
  | some g =>
    if !s.ticking || s.tk.tick ≠ g.table.startTick || (s.glb.inGroup && g.verdict ≠ some true) then .next s else
    .next (s.activateTable g.table)

/-- VERDICT_DEADLINE (R35): the decider does not hold every pair by the last commit point that it has, and a pair that it holds
names a table: DROP. -/
def execVerdictDeadline (s : State) : Res :=
  match s.tk.verdictBy with
  | none => .next s
  | some b =>
    let whole := (List.range s.grp.n).all fun r => Tb.has s.tk.digests r
    if !s.ticking || !s.glb.inGroup || s.glb.rank ≠ 0 || s.tk.verdictSent || s.tk.tick < b || whole ||
      s.tk.digests.all (fun e => e.2 = (0, 0)) then .next s else
    .next (s.sendVerdict false)

/-- VERDICT_WAIT_EXPIRY (R35): no verdict within four ticks of the last at which it leaves: the member's STATUS counts no more. -/
def execVerdictWaitExpiry (s : State) : Res :=
  match s.tk.staged with
  | none => .next s
  | some g =>
    if !s.follows || g.verdict.isSome || s.tk.tick + 52 < g.table.startTick then .next s else
    .next { s with tk.mute := true }

end Sys2Proof.Machine
end

