-- ==== Sys2Proof/Machine/Twine.lean ====
section
/-! DEFINITION. Twine ports: training, flits, retry, credits, latency, key phases, shapers and gates (R270 to R286). -/
namespace Sys2Proof.Machine

/-! ### Training and loss of a port (R271, R274 to R276, R280) -/

/-- One port changed. -/
def State.updPort (s : State) (p : Fin 20) (f : Port → Port) : State := { s with ports := s.ports.set p (f s.ports[p]) }

/-- The port carries flits. -/
def Port.live (x : Port) : Bool := x.state == .keying || x.state == .up8 || x.state == .up4

/-- The port carries messages (R271). -/
def Port.up (x : Port) : Bool := x.state == .up8 || x.state == .up4

/-- Credits of a port at link-up (R276), by class. -/
def fullCredits : List Nat := [256, 256, 512, 768, 512, 512, 1024, 256]

/-- The lanes on which a port runs, of those that qualify (R271). -/
def lanesUsed (lanes : BitVec 8) : BitVec 8 :=
  if lanes = 0xFF then 0xFF
  else if lanes &&& 0x0F = 0x0F then 0x0F
  else if lanes &&& 0xF0 = 0xF0 then 0xF0 else 0

/-- LINK_TRAINED (R271): the port runs on its lanes and its HELLO with phase 1 of the key agreement goes out; or it is DOWN.
DEDUCED (log 82). -/
def execLinkTrained (port : Fin 20) (lanes : BitVec 8) (s : State) : Res :=
  if (s.ports[port]).state != .training then .next s
  else if lanesUsed lanes = 0 then .next (s.updPort port fun x => { x with state := .down, downUs := s.timeUs })
  else
    let k := s.newExchange
    let s := k.2.updPort port fun x => { x with
      state := .keying, laneMap := lanesUsed lanes, version := 0, peerRank := 0xFF, peerId := 0, secret := [], salt := zeros 4
      txPhase := 0, rxPhase := 0, txSeq := 0, rxSeq := 0, txq := [], retryBuf := [], retryUs := none, ackUs := s.timeUs, tagFails := 0
      credits := fullCredits, toReturn := List.replicate 8 0, partials := List.replicate 8 [], exchange := some k.1, echoes := [] }
    .next (s.sendHello (.link port) 0 (helloBody 1 1 0 k.1.nonce (Ecc.pubBytes k.1.ephPriv) []))

/-- PORT_RETRAIN (R271): a DOWN port trains again 1 s after it went DOWN. While ticks run the coming commit point is the first by which
that time is over; before they run the time is then. DEDUCED (log 82). -/
def execPortRetrain (port : Fin 20) (s : State) : Res :=
  let due := (s.ports[port]).downUs + 1000000
  if (s.ports[port]).state != .down || (s.ticking && s.tk.startUs + s.tickUs < due) then .next s
  else .next ((if s.ticking then s else s.atTime due).updPort port fun x => { x with state := .training })

/-- A port goes DOWN (R276, R280): its credits are void, and what was not wholly acknowledged for a member is sent again through
the relay. DEDUCED (log 82). -/
def State.downPort (s : State) (p : Fin 20) : State :=
  let x := s.ports[p]
  let again : List TxMsg := (x.retryBuf.map (·.msg) ++ x.txq.map TxMsg.restart).dedup
  let s := s.updPort p fun x => { x with
    state := .down, version := 0, peerRank := 0xFF, peerId := 0, laneMap := 0, credits := List.replicate 8 0
    toReturn := List.replicate 8 0, txq := [], retryBuf := [], partials := List.replicate 8 [], exchange := none, tagFails := 0
    downUs := s.timeUs }
  (again.filter (·.dst < 64)).foldl (fun s m => match s.pathTo (.rank m.dst) with
    | some q => s.queueFlits q m
    | none => s) s

/-- PORT_DOWN (R274, R275): the tag of one SEQ has failed three times in a row, or a flit has been resent 16 times. -/
def execPortDown (port : Fin 20) (s : State) : Res :=
  let x := s.ports[port]
  let old := x.retryBuf.find? fun f => 16 ≤ f.resent
  if !x.live || (x.tagFails < 3 && old.isNone) then .next s else
  let seq := match old with | some f => f.seq | none => x.rxSeq
  .next ((s.downPort port).traceRec 0x8004 20 (toLE 1 port.val ++ toLE 2 seq))

/-! ### Flits (R273 to R277) -/

/-- A sequence number modulo 2^16 is at or before another. -/
def seqLe (a b : Nat) : Bool := decide ((b + 65536 - a % 65536) % 65536 < 32768)

/-- RETRY for the expected SEQ, at most once per µs (R275). -/
def State.askRetry (s : State) (p : Fin 20) : State :=
  let x := s.ports[p]
  if x.retryUs = some s.timeUs then s else
  (s.updPort p fun x => { x with retryUs := some s.timeUs }).sendMsg (.port p.val) 0 (.retry (x.rxSeq % 65536))

/-- The key phase of a received flit: KEY_PHASE toggles with the sender's phase (R274). -/
def Port.phaseOf (x : Port) (f : Bytes) : Nat :=
  if (fieldAt f 1 1).testBit 5 = decide (x.rxPhase % 2 = 1) then x.rxPhase else x.rxPhase + 1

/-- The payload of a received flit of sequence `seq` (R274), none where its tag fails. A port in KEYING works under the all-zero
key (R315). -/
def Port.openFlit (x : Port) (seq : Nat) (f : Bytes) : Option Bytes :=
  let key := if x.state == .keying then zeros 32 else x.phaseKey false (x.phaseOf f)
  let salt := if x.state == .keying then zeros 4 else x.salt
  Aes.gcmDecrypt key (salt ++ toLE 8 seq) (f.take 16) (sliceAt f 16 224) (sliceAt f 240 16)

/-- ACK and returned credits of a flit (R275, R276). -/
def Port.takeAck (x : Port) (now : Nat) (f : Bytes) : Port :=
  let ack := fieldAt f 4 2
  { x with retryBuf := x.retryBuf.filter fun e => !seqLe e.seq ack
           ackUs := if x.retryBuf.any fun e => seqLe e.seq ack then now else x.ackUs
           credits := x.credits.modify (fieldAt f 6 1 % 8) fun c => Nat.min (c + fieldAt f 7 1) (fullCredits.getD (fieldAt f 6 1 % 8) 0) }

/-- The message types of R278. -/
def knownMtype (t : Nat) : Bool :=
  [0x0001, 0x0010, 0x0011, 0x0012, 0x0018, 0x0019, 0x0020, 0x0021, 0x0022, 0x0023, 0x0024, 0x0028, 0x0029, 0x0030, 0x0031, 0x0032,
   0x0033, 0x0038, 0x0040, 0x0041, 0x0050, 0x0058, 0x0060, 0x0061, 0x0068, 0x0070].contains t

/-- A DATA flit for this device (R277, R278, R350): the first of a message writes TW_RECV; a reserved MTYPE is dropped with an
error record, and so, without one, is a message of a member whose MSG_SEQ has been delivered; the last ends the message, whose effect
is that of its own row. DESIGN CHOICE (log 46). -/
def State.takeData (s : State) (p : Fin 20) (f payload : Bytes) : State :=
  let ctl := fieldAt f 1 1
  let c := ctl % 8
  let part := payload.take (fieldAt f 10 2)
  let m := fieldAt payload 0 2
  let from_ := fieldAt f 9 1
  let s := if !ctl.testBit 3 then s.updPort p fun x => { x with
      partials := x.partials.modify c fun b => if b.isEmpty then b else b ++ part }
    else
      let s := s.traceRec 0x0021 20 (toLE 1 p.val ++ toLE 1 (fieldAt f 9 1) ++ toLE 2 m ++ toLE 4 (fieldAt payload 28 4) ++
        toLE 4 (fieldAt payload 16 4) ++ toLE 4 (fieldAt payload 24 4))
      if from_ < 64 && fieldAt payload 28 4 < (Tb.get s.grp.gotSeq (8 * from_ + c)).getD 0 then
        s.updPort p fun x => { x with partials := x.partials.set c [] }
      else if knownMtype m then s.updPort p fun x => { x with partials := x.partials.set c part }
      else (s.updPort p fun x => { x with partials := x.partials.set c [] }).traceRec 0x8005 20 (toLE 1 p.val ++ toLE 2 m)
  if !ctl.testBit 4 then s else
  let whole := (s.ports[p]).partials.getD c []
  let s := s.updPort p fun x => { x with partials := x.partials.set c [] }
  if whole.isEmpty || 64 ≤ from_ then s
  else { s with grp.gotSeq := Tb.set s.grp.gotSeq (8 * from_ + c) (fieldAt whole 28 4 + 1) }

/-- What an accepted flit carries: a relay passes on what is for another member (R280). -/
def State.takeFlit (s : State) (p : Fin 20) (f payload : Bytes) : State :=
  let dst := fieldAt f 8 1
  let c := fieldAt f 1 1 % 8
  if s.glb.inGroup && dst < 64 && dst ≠ s.glb.rank then
    (match s.portTo (.rank dst) with
     | some q => if q = p then s else
         s.queueFlits q ⟨c, false, dst, [⟨fieldAt f 0 1, fieldAt f 1 1 % 32, dst, fieldAt f 9 1, payload.take (fieldAt f 10 2)⟩], 0, none⟩
     | none => s)
  else if fieldAt f 0 1 = 1 then s.takeData p f payload else s

/-- FLIT (R273 to R277): only the next SEQ in order is accepted. What fails its FEC or its tag, or leaves a gap, is dropped and
RETRY asks for the expected SEQ; a repeated flit is dropped, but an IDLE flit that repeats the last SEQ gives its ACK and
credits. -/
def execFlit (port : Fin 20) (flit : BitVec 2048) (fecOk : Bool) (s : State) : Res :=
  let x := s.ports[port]
  let f := toLE 256 flit.toNat
  let seq := fieldAt f 2 2
  let want := x.rxSeq % 65536
  if !x.live || 3 ≤ x.tagFails then .next s
  else if !fecOk then .next ((s.updPort port fun x => { x with fecUncorr := Nat.min (x.fecUncorr + 1) 0xFFFFFFFF }).askRetry port)
  else if seq ≠ want then
    if seqLe want seq then .next (s.askRetry port)
    else if fieldAt f 0 1 = 0 && (seq + 1) % 65536 = want && (x.openFlit (x.rxSeq - 1) f).isSome then
      .next ((s.updPort port fun x => x.takeAck s.timeUs f).drainPort port)
    else .next s
  else match x.openFlit x.rxSeq f with
    | none => .next ((s.updPort port fun x => { x with tagFails := x.tagFails + 1 }).askRetry port)
    | some payload =>
      let needs := fieldAt f 0 1 = 1 || fieldAt f 0 1 = 2
      let c := fieldAt f 1 1 % 8
      let s := s.updPort port fun x => { x.takeAck s.timeUs f with
        rxSeq := x.rxSeq + 1, rxPhase := if x.state == .keying then 0 else x.phaseOf f, tagFails := 0
        toReturn := if needs then x.toReturn.modify c (· + 1) else x.toReturn }
      .next ((s.takeFlit port f payload).drainPort port)

/-- Flits resent (R275): the stored ciphertext goes again, those from `seq` on. -/
def Port.resend (x : Port) (all : Bool) (seq : Nat) : Port :=
  let again (f : SentFlit) : Bool := all || seqLe seq f.seq
  { x with retries := Nat.min (x.retries + x.retryBuf.countP again) 0xFFFFFFFF
           retryBuf := x.retryBuf.map fun f => if again f then { f with resent := f.resent + 1 } else f }

/-- RETRY (R275): the sender goes back to the expected SEQ. -/
def execRetry (port : Fin 20) (seq : BitVec 16) (s : State) : Res :=
  if (s.ports[port]).live then .next (s.updPort port fun x => x.resend false seq.toNat) else .next s

/-- LINK_RETRY_TIMEOUT (R275): ACK has made no progress for 4 µs; everything is resent from the oldest flit on. The time is then 4 µs
after the last progress. DEDUCED (log 82). -/
def execLinkRetryTimeout (port : Fin 20) (s : State) : Res :=
  let x := s.ports[port]
  if !x.live || x.retryBuf.isEmpty then .next s else
  let s := s.atTime (x.ackUs + 4)
  .next (s.updPort port fun x => { x.resend true 0 with ackUs := s.timeUs })

/-- KEY_PHASE_SWITCH (R274): 2^31 flits have gone under a phase key, IDLE flits among them; the next key is in use.
DESIGN CHOICE (log 81). -/
def execKeyPhaseSwitch (port : Fin 20) (s : State) : Res :=
  if (s.ports[port]).up then
    .next (s.updPort port fun x => { x with txPhase := x.txPhase + 1, txSeq := Nat.max x.txSeq ((x.txPhase + 1) * 2 ^ 31) })
  else .next s

/-! ### Latency (R273, R291) -/

/-- ECHO: answered with its sender's time. -/
def execEcho (port : Fin 20) (ns : Word64) (s : State) : Res :=
  if (s.ports[port]).up then .next (s.sendMsg (.port port.val) 0 (.echoReply ns.toNat)) else .next s

/-- The 64th round trip gives the latency: half of the least, in ns (R291 step 2). DESIGN CHOICE (log 83). -/
def Port.sample (x : Port) (ns : Nat) : Port :=
  let l := x.echoes ++ [ns]
  if l.length < 64 then { x with echoes := l }
  else { x with echoes := [], latencyNs := l.foldl Nat.min ns / 2 }

/-- ECHO_REPLY: one round trip of the 64; the next ECHO goes out until all are taken. DESIGN CHOICE (log 83). -/
def execEchoReply (port : Fin 20) (ns : Word64) (nowNs : Word64) (s : State) : Res :=
  if !(s.ports[port]).up then .next s else
  let s := s.updPort port fun x => x.sample (nowNs - ns).toNat
  .next (if (s.ports[port]).echoes.isEmpty then s else s.sendMsg (.port port.val) 0 (.echo nowNs.toNat))

/-! ### Shapers and gates (R281 to R286) -/

/-- One refill of a link shaper (R285, R286): a class that was idle for the whole µs loses what was left. -/
def LinkShaper.refill (h : LinkShaper) (queued : Bool) : LinkShaper :=
  { h with bucket := Nat.min ((if h.busy then h.bucket else 0) + h.rate) (h.burst * 256), busy := queued }

/-- LINK_SHAPER_REFILL (R285, R286): a 1 µs boundary. The IDLE flits of the µs have returned the credits (R276), and the port sends
what the refill lets through. DESIGN CHOICE (log 81). -/
def execLinkShaperRefill (port : Fin 20) (s : State) : Res :=
  .next ((s.updPort port fun x => { x with
    toReturn := List.replicate 8 0
    shapers := x.shapers.mapIdx fun c h => h.refill (x.txq.any fun m => m.tc = c) }).drainPort port)

/-- GATE_TAKEOVER (R283): at the start of TAKEOVER_TICK the staged list replaces the active one. -/
def execGateTakeover (port : Fin 20) (s : State) : Res :=
  match (s.ports[port]).stagedGates with
  | none => .next s
  | some g =>
    if !s.ticking || s.tk.tick < g.takeover then .next s else
    .next ((s.updPort port fun x => { x with gates := g, stagedGates := none, gateEntry := 0 }).drainPort port)

/-- GATE_ENTRY_SWITCH (R282): at its START_US an entry of the list governs; one at or beyond the tick length never does. -/
def execGateEntrySwitch (port : Fin 20) (i : Fin 32) (s : State) : Res :=
  match (s.ports[port]).gates.entries[i.val]? with
  | none => .next s
  | some e =>
    if !s.ticking || s.tickUs ≤ e.1 || s.tk.startUs + e.1 < s.timeUs then .next s else
    .next (((s.atTime (s.tk.startUs + e.1)).updPort port fun x => { x with gateEntry := i.val }).drainPort port)

end Sys2Proof.Machine
end

