-- ==== Sys2Proof/Machine/Registers.lean ====
section
/-! DEFINITION. Register writes: mailboxes and doorbells, the TICK_ and DCI_ blocks, direct host mode, and every field without
behaviour of its own (R8, R52, R239 to R246, R264 to R267, R360, R379). -/
namespace Sys2Proof.Machine

/-- BAR0 answers: the boot sequence is over and the device is not halted (R242, R372). -/
def State.bar (s : State) : Bool := s.glb.mode == .nci || s.glb.mode == .direct

/-- Every register answers; after cause 1 only LIFECYCLE and the DCI_ block do, and the bits that end the mode (R266).
DEDUCED (log 84). -/
def State.mmio (s : State) : Bool := s.bar && !s.noFirmware

/-! ### Mailboxes (R241, R243, R244, R246) -/

/-- What ENABLE = 1 checks (R243, R244). -/
def Mailbox.configOk (b : Mailbox) : Bool :=
  4 ≤ b.sqLog2.toNat && b.sqLog2.toNat ≤ 12 && 6 ≤ b.cqLog2.toNat && b.cqLog2.toNat ≤ 16 && !(b.wdogEn && b.wdogMs = 0)

/-- A mailbox that starts afresh (R244). -/
def Mailbox.fresh (b : Mailbox) : Mailbox :=
  { b with enable := true, enabled := true, stopped := false, chan := .idle, nci := 0, sqTail := 0, cqHead := 0, sqHead := 0
           cqTail := 0, shSqHead := 0, shCqTail := 0, debts := 0, shadowDue := true, wdogFrom := none, wdogFired := false, delayed := [] }

/-- MBX_ENABLE: ENABLE = 1 is written (R244). -/
def execMbxEnable (m : Fin 64) (s : State) : Res :=
  if !s.mmio || (s.mbx[m]).enabled then .next s else
  .next (s.updMbx m fun b =>
    if b.configOk then b.fresh else { b.raise b.cfgErr with enable := true, cfgErr := true })

/-- A CANCEL of a request as a command, for the other members of a group (R163). -/
def cancelCmd (r : Nat) : Cmd := BitVec.ofNat 512 (0x0402 + r * 2 ^ 64)

/-- The requests whose completion would be published on a mailbox stop as a CANCEL would stop them (R241). -/
def State.cancelFor (s : State) (m : Fin 64) : State :=
  let f (e : Effect) : Effect := match e with
    | .submit i q t => if q.mbox = m.val && q.mboxGen = (s.mbx[m]).gen then .submit i (q.marked s.tk.tick false) t else e
    | e => e
  let steward := s.work.steward.map fun (i : Item) => { i with effs := i.effs.map f }
  let s : State := { s with work.steward := steward }
  let l := s.ss.reqs.filter fun (e : Nat × Req) => e.2.dci.isNone && s.samples e.2.session && e.2.mbox = m.val && e.2.mboxGen = (s.mbx[m]).gen
  l.foldl (fun (s : State) (e : Nat × Req) =>
    let s := s.updReq e.1 fun q => q.marked s.tk.tick false
    let c := cancelCmd e.1
    if s.glb.inGroup then s.sendAll 0 (.forward c (forwardBody (s.ctx m noCmd c) [])) else s) s

/-- What stops a mailbox (R241): fetching ends, unfetched commands go, debts end, what is owed is discarded, its requests stop. -/
def State.stopMailbox (s : State) (m : Fin 64) : State :=
  ((s.cancelFor m).waitOver m.val).updMbx m fun b => { b with
    enabled := false, sqHead := b.sqTail, debts := 0, gen := b.gen + 1, delayed := [], wdogFrom := none, wdogFired := false, resetSeen := true }

/-- MBX_DISABLE: ENABLE is written 0 (R241); every other register is kept. -/
def execMbxDisable (m : Fin 64) (s : State) : Res :=
  if !s.mmio || !(s.mbx[m]).enable then .next s else
  .next ((s.stopMailbox m).updMbx m fun b => { b with enable := false })

/-- The watchdog times a new period from now on, where commands wait (R246). -/
def Mailbox.rearm (b : Mailbox) (now : Nat) : Mailbox :=
  { b with wdogFired := false, wdogFrom := if b.enabled && b.sqHead != b.sqTail then some now else none }

/-- SQ_TAIL_WRITE (R244): a tail at or above the size is an error that stops fetching. DEDUCED (log 93). -/
def execSqTailWrite (m : Fin 64) (v : Word32) (hw : List (Nat × Bytes)) (s : State) : Res :=
  if !s.mmio then .next s else
  let s := s.hostWrites hw
  let t := v.toNat % 65536
  .next (s.updMbx m fun b =>
    let n : Mailbox := if b.sqSize ≤ t then { b.raise b.sqErr with sqTail := t, sqErr := true, stopped := true } else { b with sqTail := t }
    if b.sqHead = b.sqTail && !b.wdogFired then n.rearm s.timeUs else n)

/-- An index of a ring of a size, between its head and its tail. -/
def between (size head tail v : Nat) : Bool :=
  decide (v < size) && decide ((v + size - head) % size ≤ (tail + size - head) % size)

/-- CQ_HEAD_WRITE (R8, R244): the index is stored; while the mailbox is served, a head that would pass the tail is ignored. -/
def execCqHeadWrite (m : Fin 64) (v : Word32) (hw : List (Nat × Bytes)) (s : State) : Res :=
  if !s.mmio then .next s else
  let h := v.toNat % 65536
  .next ((s.hostWrites hw).updMbx m fun b => if !b.enabled || between b.cqSize b.cqHead b.cqTail h then { b with cqHead := h } else b)

/-- WDOG_EN_WRITE (R246): 0 stops the watchdog, 1 after 0 times a new period. -/
def execWdogEnWrite (m : Fin 64) (v : Bool) (s : State) : Res :=
  if !s.mmio then .next s else
  .next (s.updMbx m fun b => if v && !b.wdogEn then { b with wdogEn := true }.rearm s.timeUs else { b with wdogEn := v })

/-! ### TICK_ (R52) -/

/-- TICK_CTRL_WRITE (R52, R264): writable in direct host mode only. On pins only the marker source is not active (R28). The
reserved code is stored (R8) and names no source. DEDUCED (log 87). -/
def execTickCtrlWrite (v : Word32) (s : State) : Res :=
  if s.glb.mode != .direct || !s.mmio then .next s else
  let src := v.toNat % 4
  .next { s with tk.src := src, tk.onMarker := s.tk.onMarker && src ≠ 1, tk.toMarker := s.tk.toMarker && src ≠ 1 }

/-- TICK_NOW_LO_READ (R52): the read latches TICK_HI. -/
def execTickNowLoRead (s : State) : Res := if !s.mmio then .next s else .next { s with tk.hiLatch := s.tk.tick / 2 ^ 32 % 65536 }

/-- SAT_CLEAR (R52): writing 1 to SAT clears the bit and the count. -/
def execSatClear (r : SatCounter) (s : State) : Res :=
  if !s.mmio then .next s else
  match r with
  | .abandon => .next { s with tk.abandonCnt := 0, tk.abandonSat := false }
  | .defer => .next { s with tk.deferCnt := 0, tk.deferSat := false }

/-! ### Direct host mode (R264 to R267) -/

/-- DCI_REQ_SET (R242, R264): the bit is stored; from NCI mode, direct host mode is entered at the coming commit point, with
cause 0. -/
def execDciReqSet (s : State) : Res :=
  if !s.bar then .next s else
  .next { s with glb.dciReq := true, dci.entering := if s.glb.mode == .nci then some (s.dci.entering.getD 0) else s.dci.entering }

/-- A staged item belongs to DCI work. -/
def Item.isDci (i : Item) : Bool := i.effs.any fun e => match e with
  | .dciComplete .. => true | .dciInput .. => true | .dciStep .. => true | _ => false

/-- Queued DCI work discarded (R266). -/
def State.dropDci (s : State) : State :=
  let own : List Nat := (s.ss.reqs.filter fun e => e.2.dci.isSome).map (·.2.session)
  let kept (u : UnitRec) : Bool := match u.session with | some i => !own.contains i | none => true
  let s := { s with
    work.steward := s.work.steward.filter fun i => !i.isDci
    work.deferred := s.work.deferred.filter fun i => !i.isDci && (i.unit.map kept).getD true
    work.queue := s.work.queue.filter kept
    work.running := s.work.running.filter fun e => kept e.2
    work.done := s.work.done.filter fun i => (i.unit.map kept).getD true
    dci.wqHead := s.dci.wqTail, dci.delayed := [], ats.waits := Tb.del s.ats.waits 64 }
  (s.ss.reqs.filter fun e => e.2.dci.isSome).foldl (fun s e => s.freeReq e.1) s

/-- DCI_REQ_CLEAR (R266): the mode ends and Steward restarts from the boot flash; a request for it not yet met is withdrawn.
DEDUCED (log 84). -/
def execDciReqClear (s : State) : Res :=
  let s := { s with glb.dciReq := false, dci.entering := if s.dci.entering = some 0 then none else s.dci.entering }
  if s.glb.mode != .direct then .next s else
  .next { s.dropDci with glb.mode := .nci, glb.ready := false, glb.restarting := true, dci.active := false }

/-- STEWARD_RESTART (R266): READY returns and every channel is idle. Firmware that fails its verification again leads back into
direct host mode (R264). DEDUCED (log 84); DESIGN CHOICE (log 86). -/
def execStewardRestart (s : State) : Res :=
  if !s.glb.restarting then .next s
  else if !s.glb.signatureOk then
    .next ({ s with glb.restarting := false, glb.mode := .direct, dci.active := true, dci.cause := 1 }.setSticky 3)
  else
    .next { s with glb.restarting := false, glb.ready := true, glb.stewardUs := s.timeUs
                   mbx := s.mbx.map fun b => { b with chan := .idle, nci := 0 } }

/-- The DCI_ configuration can be served (R267). -/
def Dci.configOk (d : Dci) : Bool :=
  4 ≤ d.wqLog2.toNat && d.wqLog2.toNat ≤ 12 && 6 ≤ d.cqLog2.toNat && d.cqLog2.toNat ≤ 16 &&
    d.wqBase.toNat % 4096 = 0 && d.cqBase.toNat % 4096 = 0

/-- DCI_ENABLE_WRITE (R267): a write of DCI_CTRL, which stores its sizes (R8); a configuration that cannot be served is WQ_ERR.
DEDUCED (log 87). -/
def execDciEnableWrite (v : Word32) (s : State) : Res :=
  if !s.bar then .next s else
  let d := s.dci
  let on := v.getLsbD 0
  let d := { d with wqLog2 := v.extractLsb' 4 4, cqLog2 := v.extractLsb' 8 5 }
  let d : Dci :=
    if on && !d.enable then
      { d with enable := true, wqTail := 0, cqHead := 0, wqHead := 0, cqTail := 0, delayed := [], stopped := !d.configOk, wqErr := d.wqErr || !d.configOk }
    else if on then d else { d with enable := false, wqHead := d.wqTail }
  .next { s with dci := d }

/-- DCI_WQ_TAIL_WRITE (R267). -/
def execDciWqTailWrite (v : Word32) (hw : List (Nat × Bytes)) (s : State) : Res :=
  if !s.bar then .next s else
  let s := s.hostWrites hw
  let t := v.toNat % 65536
  let bad := decide (2 ^ s.dci.wqLog2.toNat ≤ t)
  .next { s with dci.wqTail := t, dci.wqErr := s.dci.wqErr || bad, dci.stopped := s.dci.stopped || bad }

/-- DCI_CQ_HEAD_WRITE (R267). -/
def execDciCqHeadWrite (v : Word32) (s : State) : Res :=
  let h := v.toNat % 65536
  if s.bar && (!s.dci.enable || between (2 ^ s.dci.cqLog2.toNat) s.dci.cqHead s.dci.cqTail h)
  then .next { s with dci.cqHead := h } else .next s

/-! ### Every other field (R8) -/

/-- The low or the high half of a 64-bit register replaced, `keep` low bits being reserved. -/
def setHalf (x : Word64) (high : Bool) (v : Word32) (keep : Nat) : Word64 :=
  if high then BitVec.ofNat 64 (x.toNat % 2 ^ 32 + v.toNat * 2 ^ 32)
  else BitVec.ofNat 64 (x.toNat / 2 ^ 32 * 2 ^ 32 + v.toNat / 2 ^ keep * 2 ^ keep)

/-- A write of a mailbox page (R243, R244): the configuration stands while ENABLED is 1; ENABLE, WDOG_EN and the doorbells have
rows of their own. DESIGN CHOICE (log 92). -/
def Mailbox.writeReg (b : Mailbox) (off : Nat) (v : Word32) : Mailbox :=
  let open_ := !b.enabled
  match off with
  | 0x00 => if open_ then { b with sqBase := setHalf b.sqBase false v 12 } else b
  | 0x04 => if open_ then { b with sqBase := setHalf b.sqBase true v 0 } else b
  | 0x08 => if open_ then { b with cqBase := setHalf b.cqBase false v 12 } else b
  | 0x0C => if open_ then { b with cqBase := setHalf b.cqBase true v 0 } else b
  | 0x10 => if open_ then { b with shadow := setHalf b.shadow false v 6 } else b
  | 0x14 => if open_ then { b with shadow := setHalf b.shadow true v 0 } else b
  | 0x18 => if open_ then { b with sqLog2 := v.extractLsb' 0 4, cqLog2 := v.extractLsb' 8 5 } else b
  | 0x1C => { b with irqEn := v.getLsbD 1 }
  | 0x20 => { b with cfgErr := b.cfgErr && !v.getLsbD 3, sqErr := b.sqErr && !v.getLsbD 4, wdog := b.wdog && !v.getLsbD 5
                     evtLost := b.evtLost && !v.getLsbD 6, resetSeen := b.resetSeen && !v.getLsbD 7 }
  | 0x34 => { b with wdogMs := v.toNat % 65536 }
  | _ => b

/-- A write of the DCI_ block (R267). DEDUCED (log 87). -/
def Dci.writeReg (d : Dci) (off : Nat) (v : Word32) : Dci :=
  match off with
  | 0x00 => { d with wqErr := d.wqErr && !v.getLsbD 3 }
  | 0x08 => { d with wqBase := setHalf d.wqBase false v 0 }
  | 0x0C => { d with wqBase := setHalf d.wqBase true v 0 }
  | 0x10 => { d with cqBase := setHalf d.cqBase false v 0 }
  | 0x14 => { d with cqBase := setHalf d.cqBase true v 0 }
  | _ => d

/-- A write of TICK_STATUS (R52). -/
def TickSt.clearStatus (t : TickSt) (v : Word32) : TickSt :=
  { t with pinLoss := t.pinLoss && !v.getLsbD 1, tickFault := t.tickFault && !v.getLsbD 2
           schedMismatch := t.schedMismatch && !v.getLsbD 3, defer := t.defer && !v.getLsbD 4 }

/-- A write of the physical function's BAR0 (R239) outside the mailbox pages. DESIGN CHOICE (log 92). -/
def State.writePf (s : State) (off : Nat) (v : Word32) : State :=
  if 0x100000 ≤ off ∧ off < 0x101000 then { s with dci := s.dci.writeReg (off % 0x1000) v } else
  if !s.mmio then s else
  if off = 0x200004 then { s with tk := s.tk.clearStatus v }
  else if off = 0x300000 then { s with dbg.spillSat := s.dbg.spillSat && !v.getLsbD 2 }
  else if off = 0x30000C then { s with dbg.winPart := v.getLsbD 0, dbg.winBase := v.toNat / 16 }
  else if off = 0x400000 then { s with
    pwr.tableOver := s.pwr.tableOver && !v.getLsbD 0, pwr.peakTrip := s.pwr.peakTrip && !v.getLsbD 1
    pwr.vfFault := s.pwr.vfFault && !v.getLsbD 2 }
  else s

/-- REGISTER_WRITE (R8, R239): a write by a function to its BAR0. A VF reaches its own mailbox page alone. -/
def execRegisterWrite (f : Fin 64) (off : BitVec 24) (v : Word32) (s : State) : Res :=
  let o := off.toNat
  if !s.bar || (f ≠ 0 && !s.mmio) then .next s
  else if f ≠ 0 then .next (if o < 0x1000 then s.updMbx f fun b => b.writeReg o v else s)
  else if 0x10000 ≤ o ∧ o < 0x50000 ∧ s.mmio = true then .next (s.updMbx (mboxFin ((o - 0x10000) / 0x1000)) fun b => b.writeReg (o % 0x1000) v)
  else .next (s.writePf o v)

/-- FUNCTION_LEVEL_RESET (R241): the function's mailbox stops, its registers return to their reset values, and RESET_SEEN tells
it. The EVT_LOST count is kept. DEDUCED (log 93). -/
def execFunctionLevelReset (f : Fin 64) (s : State) : Res :=
  .next ((s.stopMailbox f).updMbx f fun b => { Mailbox.reset with
    gen := b.gen, lost := b.lost, irq0 := b.irq0, irq1 := b.irq1, resetSeen := true })

end Sys2Proof.Machine
end

