-- ==== Sys2Proof/Machine/Direct.lean ====
section
/-! DEFINITION. Work entries of direct host mode and Flyer descriptors (R209 to R215, R268, R269, R313). -/
namespace Sys2Proof.Machine

/-! ### Fetching a work entry (R267, R268) -/

/-- Work entries that are accepted and whose completion is not yet written. -/
def State.dciOwed (s : State) : Nat :=
  s.dci.delayed.length + s.ss.reqs.countP (fun e => e.2.dci.isSome) + (s.work.steward ++ s.work.deferred).countP Item.isDci

/-- An entry can be fetched: the mode is in force, the queue is served and not empty, and the completion queue has room. -/
def State.canFetchDci (s : State) : Bool :=
  let d := s.dci
  let size := 2 ^ d.cqLog2.toNat
  s.glb.mode == .direct && d.enable && !d.stopped && d.wqHead != d.wqTail &&
    s.dciOwed + 1 ≤ size - 1 - (d.cqTail + size - d.cqHead) % size

/-- An entry's OP, TAG and HANDLE (R268). -/
def dciOp (e : Cmd) : Nat := fld e 0 1
def dciTag (e : Cmd) : Nat := fld e 4 4
def dciHandle (e : Cmd) : Nat := fld e 8 8

/-- Fields of an entry that its OP does not use are zero where R268 says so. -/
def dciClean (e : Cmd) (op : Nat) : Bool :=
  fld e 1 3 = 0 && fld e 48 8 = 0 && fld e 56 8 = 0 && dciOp e = op &&
  (match op with
   | 1 => dciHandle e = 0 && fld e 24 4 < 65536
   | 2 => true
   | 3 => fld e 24 4 = 0 && fld e 44 4 < 8
   | 4 => dciHandle e = 0 && fld e 24 4 = 0
   | _ => fld e 24 4 = 0)

/-- A session that an earlier entry still works on: its next entry waits in the queue (DESIGN CHOICE: the entries of one session
run in their order). DESIGN CHOICE (log 88). -/
def State.dciBusy (s : State) (e : Cmd) : Bool :=
  let i := dciHandle e % 2 ^ 24
  Tb.has s.ss.reqs (dciReq i) || (s.work.steward ++ s.work.deferred).any fun it => it.session = some i && it.isDci

/-- A work entry fetched and checked (R268): `own` gives its effects, or the status of its completion.
DESIGN CHOICE (log 144). -/
def State.dciEntry (s : State) (e : Cmd) (op : Nat) (own : State → Checked (List Effect)) : Res :=
  if !s.canFetchDci || s.dciBusy e then .next s
  else if s.hostAbsent .port0 (s.dci.wqBase.toNat + 64 * s.dci.wqHead) then .next { s with dci.wqErr := true, dci.stopped := true }
  else
    let s := { s with dci.wqHead := (s.dci.wqHead + 1) % 2 ^ s.dci.wqLog2.toNat }
    let t := { s with freeCtr := s.freeCtr + 1 }
    let fail (st : Status) : State := t.stage [.dciComplete (dciTag e) (dciOp e) st []]
    if !dciClean e op then .next (fail .eRange)
    else match own s with
      | .error err => .next (fail err.1)
      | .ok effs => .next (t.stage effs (if op = 2 || op = 3 || op = 5 then some (dciHandle e % 2 ^ 24) else none))

/-- Firmware runs (R266): after cause 1 only Flyer work is available. The status of other work is then not stated: a free value.
DESIGN CHOICE (log 86). -/
def State.needFirmware (s : State) : Checked Unit :=
  if s.dci.cause = 1 then .error ((match (Config.freeValue s.freeCtr).toNat % 15 + 1 with
    | 1 => .eRange | 2 => .eLength | 3 => .eState | 4 => .eNoent | 5 => .eQuota | 6 => .eEnergy | 7 => .eVersion | 8 => .eAuth
    | 9 => .eDigest | 10 => .eTimeout | 11 => .eBusy | 12 => .eEpoch | 13 => .eMixedStep | 14 => .eLifecycle | _ => .eInternal), [])
  else .ok ()

/-- Bytes of host memory at port 0 that an entry names (R268). -/
def State.dciRead (s : State) (a n : Nat) : Checked Bytes := want .eTimeout (s.reader .port0 a n)

/-! ### CREATE, INPUT, STEP, DESTROY -/

/-- CREATE (R171, R268): the seed comes from the generator. A TENANT above 63 breaks its field's range (R269). -/
def checkDciCreate (e : Cmd) (v : State) : Checked (List Effect) := do
  v.needFirmware
  must .eRange (fld e 16 8 % 16 = 0 && fld e 24 1 ≤ 63)
  let b ← v.dciRead (fld e 16 8) 64
  must .eRange (zeroAt b 48 16)
  must .eNoent (Tb.has v.ten.tenants (fld e 24 1))
  let r ← v.view.createSession (fld e 24 1) (fld e 25 1) (digestOf (b.take 48)) ((Config.freeValue v.freeCtr).truncate 128)
  return r.2 ++ [.dciComplete (dciTag e) 1 .ok (toLE 8 r.1)]

/-- The session of an INPUT or a STEP, with its model, where it may take a turn. -/
def State.dciSession (v : State) (e : Cmd) : Checked (Nat × Session × Model) := do
  let x ← v.view.handle (dciHandle e)
  must .eState (x.2.state == .idle)
  let m ← want .eNoent (v.modelOf x.2.model)
  must .eNoent (m.2.state == .active)
  return (x.1, x.2, m.2)

/-- The page and spool reservation of a turn (R130, R175). -/
def State.dciFits (v : State) (i : Nat) (x : Session) (m : Model) (count : Nat) : Checked Unit := do
  must .eLength (v.spoolRoom i x (4096 + 8 * count))
  must .eQuota (v.reserveOk i x.tenant m.arch.shape x.psize x.condensed (v.dciPages i count) (4096 + 8 * count))

/-- INPUT (R134, R268): a TURN entry with REQ_ID 0 and the INPUT entries; its prefill units follow.
DESIGN CHOICE (log 144). -/
def checkDciInput (e : Cmd) (v : State) : Checked (List Effect) := do
  v.needFirmware
  let n := fld e 24 4
  must .eRange (1 ≤ n && n ≤ 1048576 && fld e 16 8 % 16 = 0)
  let b ← v.dciRead (fld e 16 8) (4 * n)
  let y ← v.dciSession e
  let toks := words4 n b
  must .eRange (toks.all (· < y.2.2.arch.vocab))
  must .eLength (y.2.1.hist.length + n ≤ y.2.2.arch.maxPos)
  v.dciFits y.1 y.2.1 y.2.2 n
  let turn := payTurn 0 v.ten.map.epoch 0 0 ⟨0, none, none, none⟩ 0 0 []
  return [.dciInput (dciTag e) y.1 toks, .spool y.1 0x02 0 turn] ++
    (inputEntries y.2.1.hist.length toks).map fun p => (.spool y.1 0x03 0 p : Effect)

/-- The sampling parameters of a STEP (R75, R268). -/
def dciParams (e : Cmd) : Sampling.Params :=
  let on (i : Nat) : Bool := (fld e 44 4).testBit i
  { temperature := BitVec.ofNat 32 (fld e 28 4), topK := if on 0 then some (fld e 32 4) else none
    topP := if on 1 then some (BitVec.ofNat 32 (fld e 36 4)) else none
    minP := if on 2 then some (BitVec.ofNat 32 (fld e 40 4)) else none }

/-- STEP (R268, R269): one DECODE unit with k = 0. -/
def checkDciStep (e : Cmd) (v : State) : Checked (List Effect) := do
  v.needFirmware
  must .eRange (dciParams e).inRange
  let y ← v.dciSession e
  must .eRange (y.2.1.hist.length ≠ 0)
  must .eLength (y.2.1.hist.length < y.2.2.arch.maxPos)
  v.dciFits y.1 y.2.1 y.2.2 1
  return [.dciStep (dciTag e) y.1 (dciParams e)]

/-- DESTROY (R172, R268). -/
def checkDciDestroy (e : Cmd) (v : State) : Checked (List Effect) := do
  v.needFirmware
  let x ← v.view.handle (dciHandle e)
  destroyable x.2.state
  return [.sessDestroy x.1, .dciComplete (dciTag e) 5 .ok []]

/-- DCI_CREATE (R268). -/
def execDciCreate (e : Cmd) (s : State) : Res := s.dciEntry e 1 (checkDciCreate e)

/-- DCI_INPUT (R268). -/
def execDciInput (e : Cmd) (s : State) : Res := s.dciEntry e 2 (checkDciInput e)

/-- DCI_STEP (R268). -/
def execDciStep (e : Cmd) (s : State) : Res := s.dciEntry e 3 (checkDciStep e)

/-- DCI_DESTROY (R268). -/
def execDciDestroy (e : Cmd) (s : State) : Res := s.dciEntry e 5 (checkDciDestroy e)

/-! ### Flyer descriptors (R209 to R215) -/

/-- Where a tile lies. -/
inductive Place where
  | dev (va : Nat)
  | host (sp : HostSpace) (addr : Nat)
  | ats (sp : HostSpace) (addr : Nat)
  | peer (addr : Nat)
  deriving DecidableEq, Repr, Inhabited

/-- The tile sizes of a kind (R209). -/
def tileSizeOk (kind n : Nat) : Bool :=
  match kind with
  | 0 => 16 ≤ n && n ≤ 65536 && n % 16 = 0
  | 1 => n = 8704 | 2 => n = 16896 | 3 => n = 32768
  | 4 => [16, 32, 64, 128].any fun p => [128, 256].any fun d => n = partLen p d false || n = partLen p d true
  | 5 => n = 65536
  | _ => 1 ≤ n && n ≤ 1048576

/-- Checks 1 and 2 of R212. -/
def descriptorFields (d : Bytes) : Bool :=
  let src := fieldAt d 2 1
  let dst := fieldAt d 3 1
  let crypt := fieldAt d 4 1
  let peer := fieldAt d 5 1
  let twine := (fieldAt d 0 1 = 1 && src = 4) || dst = 4
  (fieldAt d 0 1 = 1 || fieldAt d 0 1 = 2) && fieldAt d 1 1 ≤ 6 && src ≤ 4 && dst ≤ 4 && crypt ≤ 4 &&
  (if twine then peer ≤ 63 || peer = 0xFF else peer = 0) && fieldAt d 6 2 ≤ 4095 &&
  (crypt ≠ 0 || (fieldAt d 6 2 = 0 && fieldAt d 8 4 = 0)) && fieldAt d 12 4 ≤ 65536 &&
  (fieldAt d 44 1 ≤ 63 || fieldAt d 44 1 = 0xFF) && fieldAt d 45 1 ≤ 1 && zeroAt d 46 2 && zeroAt d 52 4 &&
  (3 ≤ crypt || fieldAt d 64 8 = 0) && (peer = 0xFF || fieldAt d 72 8 = 0) && fieldAt d 12 4 ≠ 0

/-- The host memory of a space code (R211). CXL.mem lies at the port that the straps set to CXL mode (R384). -/
def State.spaceOf (s : State) (space : Nat) : HostSpace :=
  if space = 1 then .port0 else if space = 2 then .port1 else if s.glb.straps.getLsbD 4 then .cxl0 else .cxl1

/-- The translation entry of a page (R215). -/
def State.entryOf (s : State) (page : Nat) : Nat × BitVec 32 × Nat := (Tb.get s.ats.entries page).getD (Config.translation page)

/-- An entry maps a frame of a page size. -/
def entryMaps (c : BitVec 32) (small : Bool) : Bool := c.getLsbD 0 && c.getLsbD 1 = small

/-- An access that an entry permits (R215): system traffic, TENANT 0xFF, reaches system pages only. -/
def entryPermits (c : BitVec 32) (tenant : Nat) (write : Bool) : Bool :=
  (!write || c.getLsbD 2) && (c.getLsbD 14 || c.toNat / 256 % 64 = tenant)

/-- Where a tile lies: its address, and the place and length of each of its parts, one for each small page that it touches. -/
structure Tile where
  va : Nat
  parts : List (Place × Nat)
  deriving DecidableEq, Repr, Inhabited

/-- The place of an address behind a small page's entry (R214, R215). -/
def State.smallPlace (s : State) (a : Nat) : Place :=
  let e := s.entryOf (a / 65536)
  let sp := e.2.1.toNat / 8 % 8
  if sp = 0 then .dev (e.1 + a % 65536)
  else if e.2.1.getLsbD 27 then .ats (s.spaceOf sp) (e.1 + a % 65536) else .host (s.spaceOf sp) (e.1 + a % 65536)

/-- A run of small pages cut at the page bounds: at most `fuel` pages. DESIGN CHOICE (log 89). -/
def State.smallParts (s : State) (a n : Nat) : Nat → List (Place × Nat)
  | 0 => []
  | fuel + 1 =>
    let k := Nat.min n (65536 - a % 65536)
    if n = 0 then [] else (s.smallPlace a, k) :: s.smallParts (a + k) (n - k) fuel

/-- Where n bytes at an address of a space lie, with the status of checks 5 and 6 of R212 that they fail. Stacked memory is always mapped,
and a translated stacked page keeps its address: a frame that replaces another changes none (R214). DESIGN CHOICE (log 89). -/
def State.placeOf (s : State) (space a n tenant : Nat) (write : Bool) : Except Status Tile :=
  let ctls (size : Nat) := (List.range ((a % size + n - 1) / size + 1)).map fun i => (s.entryOf (a / size + i)).2.1
  if space = 0 then
    if a < 0xC000000000 then
      if 0xC000000000 < a + n then .error .eLength
      else if (ctls 2097152).all fun c => entryPermits c tenant write then .ok ⟨a, [(.dev a, n)]⟩ else .error .eRange
    else if 0x10000000000 ≤ a ∧ a < 0x1005A000000 then (if a + n ≤ 0x1005A000000 then .ok ⟨a, [(.dev a, n)]⟩ else .error .eLength)
    else if 0x100000000000 ≤ a ∧ a < 0x200000000000 then
      if 0x200000000000 < a + n || (ctls 65536).any (fun c => !entryMaps c true) then .error .eLength
      else if !((ctls 65536).all fun c => entryPermits c tenant write && c.toNat / 8 % 8 < 4) then .error .eRange
      else .ok ⟨a, s.smallParts a n 18⟩
    else .error .eRange
  else if space = 4 then .ok ⟨a, [(.peer a, n)]⟩
  else
    let sp := s.spaceOf space
    let cut := s.ten.map.stores.any fun k => k.2.space = sp && k.2.base ≤ a && a < k.2.base + k.2.len && k.2.base + k.2.len < a + n
    if cut || 2 ^ 64 < a + n then .error .eLength else .ok ⟨a, [(.host sp a, n)]⟩

/-- The address of tile i on a side of a descriptor. -/
def tileAddr (d : Bytes) (dst : Bool) (i : Nat) : Nat :=
  let step := if dst then fieldAt d 40 4 else fieldAt d 36 4
  (if dst then fieldAt d 24 8 else fieldAt d 16 8) + i * (if step = 0 then fieldAt d 32 4 else step)

/-- The places of all tiles of a side: a length error of any tile comes before a range error (R212). -/
def State.placesOf (s : State) (d : Bytes) (dst : Bool) : Except Status (List Tile) :=
  let l := (List.range (fieldAt d 12 4)).map fun i =>
    s.placeOf (if dst then fieldAt d 3 1 else fieldAt d 2 1) (tileAddr d dst i) (fieldAt d 32 4) (fieldAt d 44 1) dst
  if l.any fun r => match r with | .error .eLength => true | _ => false then .error .eLength else l.mapM id

/-- The places of the tags of a GCM descriptor, in tile order. -/
def State.tagPlaces (s : State) (d : Bytes) : Except Status (List Tile) :=
  let l := (List.range (if fieldAt d 4 1 < 3 then 0 else fieldAt d 12 4)).map fun i =>
    s.placeOf 0 (fieldAt d 64 8 + 16 * i) 16 (fieldAt d 44 1) (fieldAt d 4 1 = 4)
  if l.any fun r => match r with | .error .eLength => true | _ => false then .error .eLength else l.mapM id

/-- A byte at a device virtual address: what a descriptor wrote there, else zero in stacked memory that a lifecycle transition has zeroed
(R309), else a free value (log entry 6). DESIGN CHOICE (log 89). -/
def State.devByte (s : State) (a : Nat) : Byte :=
  (Memory.read s.dev a).getD (if s.sec.zeroed && !(0x10000000000 ≤ a && a < 0x1005A000000) then 0 else Config.deviceByte s.freeCtr a)

/-- The bytes of a part of a tile at its source: what a Twine peer holds is a free value. -/
def State.partBytesAt (s : State) (p : Place) (n : Nat) : Checked Bytes :=
  match p with
  | .dev a => .ok ((List.range n).map fun i => s.devByte (a + i))
  | .host sp a => want .eTimeout (s.reader sp a n)
  | .ats sp a => want .eTimeout (s.reader sp a n)
  | .peer a => .ok ((List.range n).map fun i => Config.deviceByte s.freeCtr (2 ^ 64 + a + i))

/-- The bytes of a tile at its source. -/
def State.tileBytes (s : State) (t : Tile) : Checked Bytes := (t.parts.mapM fun e => s.partBytesAt e.1 e.2).map List.flatten

/-- AES-256-XTS over a tile (R313): 4,096-byte data units, 128-byte ones behind the header granule for a KV part; the tweak is the
device virtual address of the unit. -/
def xtsTile (f : Bytes → Nat → Bytes → Bytes) (key : Bytes) (kind va : Nat) (b : Bytes) : Bytes :=
  let head := if kind = 4 then 128 else 0
  let unit := if kind = 4 then 128 else 4096
  b.take head ++ (List.range (ceilDiv (b.length - head) unit)).flatMap fun i =>
    f key (va + head + unit * i) (sliceAt b (head + unit * i) (Nat.min unit (b.length - head - unit * i)))

/-- The page key of a slot (R310): a model's, or a tenant generation's. -/
def KeySlot.pageKey (k : KeySlot) (slot : Nat) : Bytes :=
  if k.kind == .model then Sha.hkdf (keyBytes k.key) (label "E9 MPAGE") 64
  else Sha.hkdf (keyBytes k.key) (label "E9 PAGE" ++ toLE 2 slot ++ toLE 4 k.gen) 64

/-- The GCM key of a slot (R81, R179, R310): the model or transport key itself; a hank key, whose HANK_ID the descriptor does not
name: a free value. -/
def KeySlot.gcmKey (k : KeySlot) (slot draw : Nat) : Bytes :=
  if k.kind == .model || k.kind == .transport then keyBytes k.key
  else hankKey k.key slot k.gen ((Config.freeValue draw).toNat % 2 ^ 64)

/-- One tile moved (R211): its bytes after the descriptor's cipher, and the tag that it writes. The descriptor names no additional
authenticated data: there is none. -/
def State.moveTile (s : State) (d : Bytes) (key : Option KeySlot) (i : Nat) (src dst tagAt : Tile) : Checked (Bytes × Option Bytes) := do
  let b ← if fieldAt d 0 1 = 2 then Except.ok (zeros (fieldAt d 32 4)) else s.tileBytes src
  let slot := fieldAt d 6 2
  let iv := sliceAt d 48 4 ++ toLE 8 (fieldAt d 56 8 + i)
  match fieldAt d 4 1, key with
  | 1, some k => return (xtsTile Aes.xtsDecrypt (k.pageKey slot) (fieldAt d 1 1) src.va b, none)
  | 2, some k => return (xtsTile Aes.xtsEncrypt (k.pageKey slot) (fieldAt d 1 1) dst.va b, none)
  | 3, some k =>
    let tag ← s.tileBytes tagAt
    let p ← want .eInternal (Aes.gcmDecrypt (k.gcmKey slot s.freeCtr) iv [] b tag)
    return (p, none)
  | 4, some k =>
    let c := Aes.gcmEncrypt (k.gcmKey slot s.freeCtr) iv [] b
    return (c.1, some c.2)
  | _, _ => return (b, none)

/-- The write of bytes at one place. -/
def partWrite (d : Bytes) (p : Place) (b : Bytes) : Effect :=
  match p with
  | .dev a => .devWrite a b
  | .host sp a => .hostWrite sp a b
  | .ats sp a => .hostWrite sp a b
  | .peer a => .send (if fieldAt d 5 1 = 0xFF then .device (fieldAt d 72 8) else .rank (fieldAt d 5 1)) (.tile a b)

/-- The writes of bytes at the parts of a tile. -/
def partWrites (d : Bytes) : List (Place × Nat) → Bytes → List Effect
  | [], _ => []
  | (p, n) :: ps, b => partWrite d p (b.take n) :: partWrites d ps (b.drop n)

/-- The writes of a moved tile and of its tag. -/
def tileWrite (d : Bytes) (dst tagAt : Tile) (r : Bytes × Option Bytes) : List Effect :=
  partWrites d dst.parts r.1 ++ (r.2.map (partWrites d tagAt.parts)).getD []

/-- The sides of a descriptor that passes R212: the places of its tiles at the source and at the destination, and of its tags. MODE
names when the tiles move (R211); they all land with the entry's commit either way. DESIGN CHOICE (log 91). -/
structure FlyerPlaces where
  src : List Tile
  dst : List Tile
  tags : List Tile

/-- Every place. -/
def FlyerPlaces.all (p : FlyerPlaces) : List Tile := p.dst ++ p.src ++ p.tags

/-- The checks of R212. -/
def State.flyerPlaces (s : State) (d : Bytes) : Checked FlyerPlaces := do
  must .eRange (descriptorFields d)
  must .eLength (tileSizeOk (fieldAt d 1 1) (fieldAt d 32 4))
  must .eRange (fieldAt d 16 8 % 16 = 0 && fieldAt d 24 8 % 16 = 0 && fieldAt d 36 4 % 16 = 0 && fieldAt d 40 4 % 16 = 0 &&
    fieldAt d 64 8 % 16 = 0)
  let copy := fieldAt d 0 1 = 1
  let src := if copy then s.placesOf d false else .ok []
  let long (r : Except Status (List Tile)) : Bool := match r with | .error .eLength => true | _ => false
  must .eLength (!([src, s.placesOf d true, s.tagPlaces d].any long))
  return ⟨← lift src, ← lift (s.placesOf d true), ← lift (s.tagPlaces d)⟩

/-- The effects of a descriptor (R211 to R213), or the first check that fails (R212). A slot that does not hold the named
generation is E_INTERNAL (R314). DESIGN CHOICE (log 89, 90). -/
def State.flyer (s : State) (d : Bytes) : Checked (List Effect) := do
  let pl ← s.flyerPlaces d
  let key := (Tb.get s.sec.slots (fieldAt d 6 2)).filter fun k => k.gen = fieldAt d 8 4
  must .eInternal (fieldAt d 4 1 = 0 || key.isSome)
  let effs ← pl.dst.zipIdx.mapM fun (p, i) => do
    let r ← s.moveTile d key i (pl.src.getD i default) p (pl.tags.getD i default)
    return tileWrite d p (pl.tags.getD i default) r
  return effs.flatten

/-- FLYER (R211, R268). -/
def checkDciFlyer (e : Cmd) (v : State) : Checked (List Effect) := do
  must .eRange (fld e 16 8 % 16 = 0)
  let d ← v.dciRead (fld e 16 8) 80
  let effs ← v.flyer d
  return effs ++ [.dciComplete (dciTag e) 4 .ok []]

/-- A page that a place needs: one known not present, or, behind an entry with ATS, one whose translation is not cached (R216). -/
def State.placePage (s : State) (n : Nat) (p : Place) : Option (HostSpace × Nat) :=
  match p with
  | .host sp a => (s.absentPage sp a n).map fun g => (sp, g)
  | .ats sp a => match s.absentPage sp a n with
    | some g => some (sp, g)
    | none => ((List.range ((a % 65536 + n - 1) / 65536 + 1)).find? fun i =>
        !(s.ats.cache.any fun c => c.1 = sp && c.2.1 = a / 65536 + i)).map fun i => (sp, a / 65536 + i)
  | _ => none

/-- A HOUSE unit is rewriting a page of a tile in device memory (R215, R217). -/
def State.placeBusy (s : State) (t : Tile) : Bool :=
  let n := (t.parts.map (·.2)).sum
  let busy (size : Nat) : Bool := (List.range ((t.va % size + n - 1) / size + 1)).any fun i => (s.entryOf (t.va / size + i)).2.1.getLsbD 6
  match t.parts.head? with
  | some (.dev _, _) => if t.va < 0xC000000000 then busy 2097152 else 0x100000000000 ≤ t.va && busy 65536
  | some (.ats _ _, _) => busy 65536
  | _ => false

/-- The places of an entry's descriptor, where all pass their checks. -/
def State.flyerReady (s : State) (e : Cmd) : Option FlyerPlaces :=
  if !dciClean e 4 || fld e 16 8 % 16 ≠ 0 then none else do
    let d ← s.readHost .port0 (fld e 16 8) 80
    (s.flyerPlaces d).toOption

/-- The first page that the transfer of an entry waits for (R217, R218). DESIGN CHOICE (log 91). -/
def State.flyerPage (s : State) (e : Cmd) : Option (HostSpace × Nat) :=
  (s.flyerReady e).bind fun r => (r.all.flatMap (·.parts)).findSome? fun p => s.placePage p.2 p.1

/-- The transfer of an entry waits for a commit to clear BUSY (R217, R218). -/
def State.flyerBusy (s : State) (e : Cmd) : Bool := ((s.flyerReady e).map fun r => r.all.any s.placeBusy).getD false

/-- The error record of a descriptor whose slot does not hold the key that it names (R314). -/
def State.noteFlyerMiss (s : State) (e : Cmd) : State :=
  match s.flyerReady e, s.readHost .port0 (fld e 16 8) 80 with
  | some _, some d =>
    if fieldAt d 4 1 = 0 || ((Tb.get s.sec.slots (fieldAt d 6 2)).filter fun k => k.gen = fieldAt d 8 4).isSome then s
    else s.traceRec 0x8007 16 (sliceAt d 6 2 ++ sliceAt d 8 4)
  | _, _ => s

/-- DCI_FLYER (R268): a transfer that needs an absent page waits for it, and fails with its page request (R219). -/
def execDciFlyer (e : Cmd) (s : State) : Res :=
  if !s.canFetchDci || s.flyerBusy e then .next s else
  match s.waitFailed 64 with
  | some st => (s.waitOver 64).dciEntry e 4 fun _ => .error (st, [])
  | none => match s.flyerPage e with
    | some g => .next (s.waitOn 64 g.1 g.2)
    | none => (s.noteFlyerMiss e).dciEntry e 4 (checkDciFlyer e)

end Sys2Proof.Machine
end

