-- ==== Sys2Proof/Machine/Board.lean ====
section
/-! DEFINITION. Resets, boot, rails, clocks, the thermal trip, and JTAG (R306 to R309, R367, R369 to R373, R377, R384, R388, R390). -/
namespace Sys2Proof.Machine

/-! ### What a reset keeps (R371) -/

/-- A cold reset: everything but fuses, the BIST record and the boot flash goes (R371). The memories outside the device, the queue
and the model's clock and free counter are no part of the device. -/
def State.cleared (s : State) : State :=
  { State.reset with
    pending := s.pending, timeUs := s.timeUs, freeCtr := s.freeCtr, host0 := s.host0, host1 := s.host1, cxl0 := s.cxl0, cxl1 := s.cxl1
    glb := { State.reset.glb with lifecycle := s.glb.lifecycle }
    sec := { State.reset.sec with
      vault := s.sec.vault, identityFused := s.sec.identityFused, certFused := s.sec.certFused, rootDestroyed := s.sec.rootDestroyed }
    pwr := { State.reset.pwr with record := s.pwr.record, runs := s.pwr.runs, recordLifecycle := s.pwr.recordLifecycle } }

/-- A warm reset (R371): debug sticky bits, counters, the challenge, the host links, BOARD_W, the operating point and the straps are
kept besides; the boot sequence runs from step 3. -/
def State.warm (s : State) : State :=
  let c := s.cleared
  { c with
    glb := { c.glb with bootStage := 2, link0 := s.glb.link0, link1 := s.glb.link1, straps := s.glb.straps
                        signatureOk := s.glb.signatureOk, thermal := s.glb.thermal }
    sec := { c.sec with sticky := s.sec.sticky, challenge := s.sec.challenge, zeroed := s.sec.zeroed }
    ports := Vector.ofFn fun p : Fin 20 => { Port.reset with
      retries := (s.ports[p]).retries, fecUncorr := (s.ports[p]).fecUncorr }
    dbg := { c.dbg with units := s.dbg.units, memory := s.dbg.memory, roving := s.dbg.roving, mailbox := s.dbg.mailbox
                        trace := s.dbg.trace, power := s.dbg.power }
    tk := { c.tk with table := defaultTable s.pwr.boardW }
    pwr := { c.pwr with boardW := s.pwr.boardW, point := s.pwr.point } }

/-- COLD_RESET (R371): power-up, or PWR_RST_N low. -/
def execColdReset (s : State) : Res := .next s.cleared

/-- WARM_RESET (R242, R371): written 1 by the physical function. -/
def execWarmReset (s : State) : Res := if s.bar then .next s.warm else .next s

/-! ### Boot (R369, R372, R373, R384) -/

/-- The crystal wait of a strap code in µs (R369). -/
def oscWaitUs (code : Nat) : Nat :=
  [500, 1000, 1500, 2000, 3000, 4000, 6000, 8000, 12000, 16000, 20000, 24000, 32000, 40000, 48000, 64000].getD code 0

/-- BOOT (R369, R372, R384): the rising edge of PWR_RST_N samples the straps and the wait begins; `signatureOk` tells whether the boot
image in the flash verifies. -/
def execBoot (straps : BitVec 9) (signatureOk : Bool) (s : State) : Res :=
  if s.glb.mode != .boot || s.glb.bootStage ≠ 0 then .next s else
  .next { s with glb.straps := straps, glb.signatureOk := signatureOk, glb.bootStage := 1
                 glb.bootUntilUs := s.timeUs + oscWaitUs (straps.toNat % 16) }

/-- OSC_WAIT_DONE (R369, R372 step 2): the PLLs start and the host ports train. DESIGN CHOICE (log 95). -/
def execOscWaitDone (s : State) : Res :=
  if s.glb.mode != .boot || s.glb.bootStage ≠ 1 then .next s else
  .next { s.atTime s.glb.bootUntilUs with glb.bootStage := 2, glb.link0 := true, glb.link1 := true }

/-- The key slots that boot restores from the vault (R311): each generation as DORMANT, but one that was DRAINING without KEEP. In
MANUFACTURE and RMA the Warden holds no key slot (R307). -/
def State.dormantSlots (s : State) : Tbl KeySlot :=
  if s.glb.lifecycle == .manufacture || s.glb.lifecycle == .rma then [] else
  (s.sec.vault.filter fun e => !(e.2.kind == .draining && !e.2.keep)).map fun e => (e.1, { e.2 with kind := .dormant })

/-- The device is ready (R372 step 8, R23, R24, R36, R361): the vault is restored, the first tick begins under the default table. -/
def State.comeReady (s : State) : State :=
  let a := s.pwr.boardW * 500
  let s := { s with
    glb := { s.glb with ready := true, mode := .nci, bootStage := 4, stewardUs := s.timeUs }
    sec.slots := s.dormantSlots
    tk := { s.tk with tick := 0, startUs := s.timeUs, table := defaultTable s.pwr.boardW, allowLeft := a }
    pwr := { s.pwr with allow := a, whorlA := a, settled := 0 } }
  if (s.pwr.record.map fun r => r.2.2.any fun f => f.repair = 0).getD false then s.addUnit .bistUpkeep none none 1 0 false else s

/-- BOOT_COMPLETE (R372, R373): the sequence runs to its end, or stops: at step 3 in BLANK and SCRAPPED, at step 4 in direct host
mode with cause 1 where the boot image does not verify (R264), after step 5 on the BIST record. -/
def execBootComplete (s : State) : Res :=
  if s.glb.mode != .boot || s.glb.bootStage ≠ 2 then .next s
  else if s.glb.lifecycle == .blank || s.glb.lifecycle == .scrapped then .next { s with glb.bootStage := 3 }
  else if !s.glb.signatureOk then
    .next ({ s with glb.mode := .direct, glb.bootStage := 4, dci.active := true, dci.cause := 1, tk.startUs := s.timeUs
                    tk.table := defaultTable s.pwr.boardW }.setSticky 3)
  else if s.bistStops then .next { s with glb.bistFail := true, glb.bootStage := 3 }
  else .next s.comeReady

/-! ### Faults of the board (R270, R367, R370, R388, R390) -/

/-- The device halts and keeps no state (R370). DEDUCED (log 94). -/
def State.haltLost (s : State) : State := { s.cleared with glb.mode := .halted }

/-- RAIL_FAULT (R370). -/
def execRailFault (s : State) : Res := if s.glb.mode == .halted then .next s else .next s.haltLost

/-- THERMAL_TRIP (R388, R390): as under R370, and PWR_ALERT_N stays low until power is removed. -/
def execThermalTrip (s : State) : Res := .next { s.haltLost with glb.thermal := true }

/-- XTAL_LOSS (R367). -/
def execXtalLoss (s : State) : Res := .next s.halt

/-- HOST_CLOCK_LOSS (R367). DEDUCED (log 94). -/
def execHostClockLoss (s : State) : Res := .next { s with glb.link0 := false, glb.link1 := false }

/-- TWINE_CLOCK_LOSS (R270, R367): the five ports of the reference go down. -/
def execTwineClockLoss (k : Fin 4) (s : State) : Res :=
  .next (((List.finRange 20).filter fun p => p.val / 5 = k.val).foldl (fun s p => s.downPort p) s)

/-- PCIE_PERST (R388): the fundamental reset of a host port's link. DEDUCED (log 94). -/
def execPciePerst (p : Fin 2) (s : State) : Res :=
  .next (if p = 0 then { s with glb.link0 := false } else { s with glb.link1 := false })

/-! ### JTAG (R306 to R309, R373, R377) -/

/-- LC_CHALLENGE (R308): 32 random bytes, kept. -/
def execLcChallenge (s : State) : Res :=
  let d := s.drawFree
  let c : BitVec 256 := d.1.truncate 256
  .next { d.2 with sec.challenge := some c, sec.jtagOut := toLE 32 c.toNat }

/-- The transitions of R308. -/
def lifecycleStep : Lifecycle → Lifecycle → Bool
  | .blank, .manufacture => true | .manufacture, .provisioned => true | .manufacture, .scrapped => true
  | .provisioned, .field => true | .field, .rma => true | .rma, .field => true | .rma, .scrapped => true
  | _, _ => false

/-- The token of LC_ADVANCE is accepted (R308, R309). -/
def State.tokenOk (s : State) (t : Bytes) : Option Lifecycle :=
  (Lifecycle.ofCode (fieldAt t 7 1)).filter fun to_ =>
    let l := s.glb.lifecycle
    fieldAt t 0 4 = 0x4B4F5443 && fieldAt t 4 2 = 1 && fieldAt t 6 1 = l.code && lifecycleStep l to_ &&
    fieldAt t 8 8 = (if l == .blank then 0 else Config.deviceId.toNat) &&
    (s.sec.challenge.map fun c => sliceAt t 16 32 == toLE 32 c.toNat).getD false && zeroAt t 48 48 &&
    Ecc.verify (toBE 97 Config.lifecycleKey.toNat) (t.take 96) (sliceAt t 96 96) &&
    (to_ != .provisioned || (s.sec.identityFused && s.sec.certFused))

/-- The effects of a transition (R307, R309): keys and identity; erasing keys and memory comes with a restart of the boot sequence,
since the transition completes before the device next reports ready. DESIGN CHOICE (log 95). -/
def State.advanceTo (s : State) (to_ : Lifecycle) : State :=
  let from_ := s.glb.lifecycle
  match from_, to_ with
  | .blank, _ => { s with glb.lifecycle := to_, glb.bootStage := 2, sec.identityFused := true }
  | .field, .rma | .rma, .field =>
    let w := s.warm
    { w with
      glb := { w.glb with lifecycle := to_ }
      sec := { w.sec with vault := [], slots := [], zeroed := true, jtagRefused := s.sec.jtagRefused } }
  | _, .scrapped =>
    { s with glb := { s.glb with lifecycle := .scrapped, ready := false, mode := .boot, bootStage := 3 }
             sec := { s.sec with rootDestroyed := true, identityFused := false, slots := [] } }
  | _, _ => { s with glb.lifecycle := to_ }

/-- LC_ADVANCE (R308): a refusal is recorded in the JTAG status bit. -/
def execLcAdvance (token : BitVec 1536) (s : State) : Res :=
  match s.tokenOk (toLE 192 token.toNat) with
  | some l => .next (s.advanceTo l)
  | none => .next { s with sec.jtagRefused := true }

/-- Full JTAG and the raw test engine are open (R307). -/
def Lifecycle.open_ (l : Lifecycle) : Bool := l == .blank || l == .manufacture || l == .rma

/-- BIST_READ (R373, R306): the record of a device that has stopped on it, or where JTAG is open. DEDUCED (log 96). -/
def execBistRead (s : State) : Res :=
  if (s.glb.bistFail && s.glb.bootStage = 3) || s.glb.lifecycle.open_ then .next ({ s with sec.jtagOut := s.bistBytes }.setSticky 2)
  else .next s

/-- RAW_TEST_ENGINE (R306, R307, R377): reached by a JTAG instruction that none of bit 2's exceptions names.
DEDUCED (log 96). -/
def execRawTestEngine (s : State) : Res :=
  if s.glb.lifecycle.open_ then .next ((s.setSticky 2).setSticky 4) else .next s

end Sys2Proof.Machine
end

