-- ==== Sys2Proof/Machine/Watch.lean ====
section
/-! DEFINITION. Translations and page requests, delayed writes, watchdogs, hang dumps, the end of the self-test, and restored
records (R216 to R220, R246, R265, R338, R339, R356 to R358, R375, R378). -/
namespace Sys2Proof.Machine

/-! ### Translations (R216 to R219) -/

/-- Units that wait for a page go on, in a slot that starts after this (R217). -/
def State.resumeUnits (s : State) (sp : HostSpace) (page : Nat) : State :=
  let open_ := s.tk.slots.map (·.1)
  let f (u : UnitRec) : UnitRec := if u.paused = some (sp, page) then { u with paused := none, notIn := open_ } else u
  { s with work.queue := s.work.queue.map f }

/-- A page becomes present. -/
def State.pageIn (s : State) (sp : HostSpace) (page : Nat) : State :=
  { s with ats.absent := s.ats.absent.filter (· != (sp, page))
           ats.requests := s.ats.requests.filter fun r => !(r.1 = sp && r.2.1 = page)
           ats.waits := s.ats.waits.filter fun w => !(w.2.1 = sp && w.2.2.1 = page) }.resumeUnits sp page

/-- The units that wait for a page leave their queue and fail with their transfers; waiting loads and work entries fail (R219). -/
def State.failPage (s : State) (sp : HostSpace) (page : Nat) (st : Status) : State :=
  let hit := s.work.queue.filter fun u => u.paused = some (sp, page)
  let s := { s with
    work.queue := s.work.queue.filter fun u => u.paused ≠ some (sp, page)
    ats.requests := s.ats.requests.filter fun r => !(r.1 = sp && r.2.1 = page)
    ats.waits := s.ats.waits.map fun (w : Nat × HostSpace × Nat × Option Status) =>
      if w.2.1 = sp && w.2.2.1 = page then (w.1, sp, page, some st) else w }
  let s := hit.foldl (fun s u => match u.kind with
    | .parkTile c _ => s.stage (s.copyFailEffects c st) u.session
    | .reviveTile v _ => s.stage (s.reviveFailEffects v st) u.session
    | .chkptTile _ => s.stage (s.chkptGiveUp st)
    | .reshard slot ch =>
      let s := match Tb.get s.img.models slot with | some m => s.endBound m.digest st | none => s
      s.stage [.reshard slot ch none]
    | _ => s) s
  if sp ≠ .port0 then s else
  (s.img.models.filter fun m => m.2.state == .loading && m.2.addr / 65536 ≤ page && page ≤ (m.2.addr + m.2.len) / 65536).foldl
    (fun s m => s.failLoad m.1 m.2 st) s

/-- ATS_RESPONSE (R216): a translation is cached; where the page is not present, a page request goes out. -/
def execAtsResponse (space : HostSpace) (page : Nat) (frame : Option Nat) (s : State) : Res :=
  let s := s.count 3 5 1
  match frame with
  | some f =>
    let s := s.pageIn space page
    .next { s with ats.cache := (s.ats.cache.filter fun c => !(c.1 = space && c.2.1 = page)) ++ [(space, page, f)] }
  | none =>
    let asked := s.ats.requests.any fun r => r.1 = space && r.2.1 = page
    let known := s.ats.absent.contains (space, page)
    let s := { s with
      ats.absent := if known then s.ats.absent else s.ats.absent ++ [(space, page)]
      ats.cache := s.ats.cache.filter fun c => !(c.1 = space && c.2.1 = page) }
    .next (if asked then s else { s with ats.requests := s.ats.requests ++ [(space, page, s.timeUs)] }.count 3 6 1)

/-- PAGE_RESPONSE (R217, R219): the fault resolves, or the host refuses the page. -/
def execPageResponse (space : HostSpace) (page : Nat) (ok : Bool) (s : State) : Res :=
  if !(s.ats.requests.any fun r => r.1 = space && r.2.1 = page) then .next s
  else .next (if ok then s.pageIn space page else s.failPage space page .eRange)

/-- PAGE_REQUEST_TIMEOUT (R219): 100 ms without a response. -/
def execPageRequestTimeout (space : HostSpace) (page : Nat) (s : State) : Res :=
  match s.ats.requests.find? fun r => r.1 = space && r.2.1 = page with
  | none => .next s
  | some r => if s.pointReached (r.2.2 + 100000) then .next (s.failPage space page .eTimeout) else .next s

/-- ATS_INVALIDATION (R216): later tiles translate again. -/
def execAtsInvalidation (space : HostSpace) (page : Nat) (s : State) : Res :=
  .next { s with ats.cache := s.ats.cache.filter fun c => !(c.1 = space && c.2.1 = page) }

/-- A request's delayed records written into its ring (R220). -/
def State.flushRing (s : State) (r : Nat) : State :=
  match Tb.get s.ss.reqs r with
  | none => s
  | some q =>
    if q.delayed.isEmpty || s.rangeAbsent .port0 q.ringAddr (32 * q.ringCount) || s.hostAbsent .port0 q.indexAddr then s else
    let l := q.delayed
    let s := s.updReq r fun q => { q with delayed := [] }
    if (s.mbx[mboxFin q.mbox]).gen ≠ q.mboxGen then s else
    l.foldl (fun s b => match Tb.get s.ss.reqs r with | some q => s.writeRing r q b.2 | none => s) s

/-- The delayed records of requests that are over (R220), unless their mailbox was reset (R241). -/
def State.flushLate (s : State) : State :=
  let wait (l : LateRing) : Bool := s.rangeAbsent .port0 l.ringAddr (32 * l.ringCount) || s.hostAbsent .port0 l.indexAddr
  let due := s.ss.lateRings.filter fun l => !wait l
  let s := { s with ss.lateRings := s.ss.lateRings.filter wait }
  due.foldl (fun s l =>
    if (s.mbx[mboxFin l.mbox]).gen ≠ l.mboxGen then s else
    let s := l.records.zipIdx.foldl (fun s b =>
      s.writeHost .port0 (l.ringAddr + 32 * ((l.producer + b.2) % 2 ^ 32 % l.ringCount)) b.1) s
    s.writeHost .port0 l.indexAddr (toLE 4 ((l.producer + l.records.length) % 2 ^ 32))) s

/-- A mailbox's delayed completions written into its queue (R220). -/
def State.flushCq (s : State) (m : Fin 64) : State :=
  let b := s.mbx[m]
  if b.delayed.isEmpty || s.rangeAbsent .port0 b.cqBase.toNat (32 * b.cqSize) then s else
  let l := b.delayed
  l.foldl (fun s c => s.writeCq m c.1 c.2) (s.updMbx m fun b => { b with
    delayed := [], debts := b.debts - l.countP fun c => c.2.kind ≠ 2 })

/-- The delayed completions of direct host mode written into their queue (R220). -/
def State.flushDci (s : State) : State :=
  if s.dciWaits then s else
  let l := s.dci.delayed
  l.foldl State.writeDci { s with dci.delayed := [] }

/-- DELAYED_RING_WRITE (R220): in a commit window in which the page's translation is present. -/
def execDelayedRingWrite (space : HostSpace) (page : Nat) (s : State) : Res :=
  if !s.tk.windowOpen || space ≠ .port0 || s.ats.absent.contains (space, page) then .next s else
  let s := ((s.ss.reqs.map (·.1)).foldl (fun s r => s.flushRing r) s).flushLate
  .next ((List.finRange 64).foldl State.flushCq s).flushDci

/-! ### Watchdogs and hangs (R246, R265, R356, R358) -/

/-- MAILBOX_WATCHDOG (R246). -/
def execMailboxWatchdog (m : Fin 64) (s : State) : Res :=
  let b := s.mbx[m]
  match b.wdogFrom with
  | none => .next s
  | some t =>
    let d := t + 1000 * b.wdogMs
    if !b.enabled || !b.wdogEn || b.sqHead = b.sqTail || !s.pointReached d then .next s else
    .next (((s.atTime d).updMbx m fun b => { b.raise b.wdog with wdog := true, wdogFrom := none, wdogFired := true }).declareHang 1 m.val)

/-- STEWARD_WATCHDOG (R264, R265): 100 ms have passed without a restart by a Steward core, and direct host mode is entered with cause
2 at the coming commit point. Sooner it can only be a fatal trap of a Steward core, of which the row says nothing: whether there was one
is a free value. DESIGN CHOICE (log 132). -/
def execStewardWatchdog (s : State) : Res :=
  if !s.serving then .next s
  else if s.pointReached (s.glb.stewardUs + 100000) then .next { s with dci.entering := some 2 }
  else
    let d := s.drawFree
    .next (if d.1.getLsbD 0 then { d.2 with dci.entering := some 2 } else d.2)

/-- TICK_WATCHDOG (R356): the trace block has found a commit or a release of engines overdue. -/
def execTickWatchdog (s : State) : Res := if s.ticking then .next (s.declareHang 0 0) else .next s

/-- HANG_DUMP_TIMEOUT (R358): the copy has not ended; the dump stays staged. -/
def execHangDumpTimeout (s : State) : Res :=
  match s.dbg.dumpCmd with
  | none => .next s
  | some (c, t, _) =>
    if s.pointReached t then .next ({ s with dbg.dumpCmd := none }.stage [.complete c .eTimeout []]) else .next s

/-! ### The self-test's end (R374, R375, R378) -/

/-- BIST_RUN_DONE: the record is replaced, or on a refusal marked REFUSED with the entries of the run before; SHUT becomes 3.
DEDUCED (log 96). -/
def execBistRunDone (run : BistRun) (s : State) : Res :=
  if s.pwr.shut ≠ 2 then .next s else
  match run with
  | .refused =>
    let old := s.pwr.record.getD (4, [], [])
    .next { s with pwr := { s.pwr with shut := 3, record := some (3, old.2.1, old.2.2) } }
  | .ran bs fs =>
    let fs := fs.take 4096
    .next { s with pwr := { s.pwr with
      shut := 3, record := some (bistResult bs fs, bs, fs), runs := Nat.min (s.pwr.runs + 1) 0xFFFFFFFF
      recordLifecycle := s.glb.lifecycle.code } }

/-! ### Restored records (R338, R339) -/

/-- The records of the restore under way that are staged. -/
def State.recordsStaged (s : State) : List Nat :=
  (s.work.steward ++ s.work.deferred).flatMap fun i => i.effs.filterMap fun e => match e with
    | .restoreRecord j => some j
    | _ => none

/-- RESTORE_RECORD (R339): one session's record is read and placed; the last one completes RESTORE. A read that fails ends it with
E_TIMEOUT, a tile that differs from the verified digest with E_DIGEST. In a group the accepting member completes it once all members have
reported their last record. DEDUCED (log 97); DESIGN CHOICE (log 138). -/
def execRestoreRecord (idx : Nat) (ok : Bool) (s : State) : Res :=
  match s.restore with
  | none => .next s
  | some k =>
    let done := s.recordsStaged
    if !k.todo.contains idx || done.contains idx then .next s
    else if !ok then .next (s.stage (k.giveUp s .eTimeout))
    else match s.restoreEntry k idx with
      | none => .next (s.stage (k.giveUp s .eDigest))
      | some (sh, e) =>
        let last := k.todo.all fun j => j = idx || done.contains j
        .next (s.stage (s.restoreEntries k sh e idx ++ [.restoreRecord idx] ++ if last then k.lastEffects s else []) (some idx))

end Sys2Proof.Machine
end

