-- ==== Sys2Proof/Machine/Dispatch.lean ====
section
/-! DEFINITION. One arm for each command of the table: a direct call of its meaning. -/
namespace Sys2Proof.Machine

def exec (i : Instr) (s : State) : Host.Outcome State Fault Refusal :=
  match i with
  | .negotiate m c => Sys2Proof.Machine.execNegotiate m c s
  | .openChannel m c => Sys2Proof.Machine.execOpenChannel m c s
  | .closeChannel m c => Sys2Proof.Machine.execCloseChannel m c s
  | .query m c => Sys2Proof.Machine.execQuery m c s
  | .loadModel m c => Sys2Proof.Machine.execLoadModel m c s
  | .evictModel m c => Sys2Proof.Machine.execEvictModel m c s
  | .loadAdapter m c => Sys2Proof.Machine.execLoadAdapter m c s
  | .retireAdapter m c => Sys2Proof.Machine.execRetireAdapter m c s
  | .loadGrammar m c => Sys2Proof.Machine.execLoadGrammar m c s
  | .loadVocab m c => Sys2Proof.Machine.execLoadVocab m c s
  | .sessionCreate m c => Sys2Proof.Machine.execSessionCreate m c s
  | .sessionDestroy m c => Sys2Proof.Machine.execSessionDestroy m c s
  | .park m c => Sys2Proof.Machine.execPark m c s
  | .revive m c => Sys2Proof.Machine.execRevive m c s
  | .handoffOffer m c => Sys2Proof.Machine.execHandoffOffer m c s
  | .handoffCommit m c => Sys2Proof.Machine.execHandoffCommit m c s
  | .queryOwner m c => Sys2Proof.Machine.execQueryOwner m c s
  | .adopt m c => Sys2Proof.Machine.execAdopt m c s
  | .claim m c => Sys2Proof.Machine.execClaim m c s
  | .purge m c => Sys2Proof.Machine.execPurge m c s
  | .submit m c => Sys2Proof.Machine.execSubmit m c s
  | .cancel m c => Sys2Proof.Machine.execCancel m c s
  | .resume m c => Sys2Proof.Machine.execResume m c s
  | .retract m c => Sys2Proof.Machine.execRetract m c s
  | .storeCreate m c => Sys2Proof.Machine.execStoreCreate m c s
  | .insert m c => Sys2Proof.Machine.execInsert m c s
  | .delete m c => Sys2Proof.Machine.execDelete m c s
  | .storeQuery m c => Sys2Proof.Machine.execStoreQuery m c s
  | .compact m c => Sys2Proof.Machine.execCompact m c s
  | .checkpoint m c => Sys2Proof.Machine.execCheckpoint m c s
  | .restore m c => Sys2Proof.Machine.execRestore m c s
  | .verifyReel m c => Sys2Proof.Machine.execVerifyReel m c s
  | .tenantCreate m c => Sys2Proof.Machine.execTenantCreate m c s
  | .attest m c => Sys2Proof.Machine.execAttest m c s
  | .keyRotate m c => Sys2Proof.Machine.execKeyRotate m c s
  | .schedLoad m c => Sys2Proof.Machine.execSchedLoad m c s
  | .gateListLoad m c => Sys2Proof.Machine.execGateListLoad m c s
  | .shaperSet m c => Sys2Proof.Machine.execShaperSet m c s
  | .energySet m c => Sys2Proof.Machine.execEnergySet m c s
  | .traceCfg m c => Sys2Proof.Machine.execTraceCfg m c s
  | .traceTrigger m c => Sys2Proof.Machine.execTraceTrigger m c s
  | .hangDump m c => Sys2Proof.Machine.execHangDump m c s
  | .countersRead m c => Sys2Proof.Machine.execCountersRead m c s
  | .groupJoin m c => Sys2Proof.Machine.execGroupJoin m c s
  | .groupShrink m c => Sys2Proof.Machine.execGroupShrink m c s
  | .routeMapSet m c => Sys2Proof.Machine.execRouteMapSet m c s
  | .shutdown m c => Sys2Proof.Machine.execShutdown m c s
  | .bistResults m c => Sys2Proof.Machine.execBistResults m c s
  | .dciCreate e => Sys2Proof.Machine.execDciCreate e s
  | .dciInput e => Sys2Proof.Machine.execDciInput e s
  | .dciStep e => Sys2Proof.Machine.execDciStep e s
  | .dciFlyer e => Sys2Proof.Machine.execDciFlyer e s
  | .dciDestroy e => Sys2Proof.Machine.execDciDestroy e s
  | .dciReqSet => Sys2Proof.Machine.execDciReqSet s
  | .dciReqClear => Sys2Proof.Machine.execDciReqClear s
  | .warmReset => Sys2Proof.Machine.execWarmReset s
  | .mbxEnable m => Sys2Proof.Machine.execMbxEnable m s
  | .mbxDisable m => Sys2Proof.Machine.execMbxDisable m s
  | .sqTailWrite m v hw => Sys2Proof.Machine.execSqTailWrite m v hw s
  | .cqHeadWrite m v hw => Sys2Proof.Machine.execCqHeadWrite m v hw s
  | .tickCtrlWrite v => Sys2Proof.Machine.execTickCtrlWrite v s
  | .tickNowLoRead => Sys2Proof.Machine.execTickNowLoRead s
  | .satClear r => Sys2Proof.Machine.execSatClear r s
  | .dciEnableWrite v => Sys2Proof.Machine.execDciEnableWrite v s
  | .dciWqTailWrite v hw => Sys2Proof.Machine.execDciWqTailWrite v hw s
  | .dciCqHeadWrite v => Sys2Proof.Machine.execDciCqHeadWrite v s
  | .registerWrite f off v => Sys2Proof.Machine.execRegisterWrite f off v s
  | .lcChallenge => Sys2Proof.Machine.execLcChallenge s
  | .lcAdvance token => Sys2Proof.Machine.execLcAdvance token s
  | .bistRead => Sys2Proof.Machine.execBistRead s
  | .rawTestEngine => Sys2Proof.Machine.execRawTestEngine s
  | .coldReset => Sys2Proof.Machine.execColdReset s
  | .boot straps signatureOk => Sys2Proof.Machine.execBoot straps signatureOk s
  | .oscWaitDone => Sys2Proof.Machine.execOscWaitDone s
  | .bootComplete => Sys2Proof.Machine.execBootComplete s
  | .railFault => Sys2Proof.Machine.execRailFault s
  | .thermalTrip => Sys2Proof.Machine.execThermalTrip s
  | .xtalLoss => Sys2Proof.Machine.execXtalLoss s
  | .hostClockLoss => Sys2Proof.Machine.execHostClockLoss s
  | .twineClockLoss k => Sys2Proof.Machine.execTwineClockLoss k s
  | .pciePerst p => Sys2Proof.Machine.execPciePerst p s
  | .functionLevelReset f => Sys2Proof.Machine.execFunctionLevelReset f s
  | .commitPoint => Sys2Proof.Machine.execCommitPoint s
  | .tickInEdge sinceUs => Sys2Proof.Machine.execTickInEdge sinceUs s
  | .tickMarker port tick root => Sys2Proof.Machine.execTickMarker port tick root s
  | .pinLoss => Sys2Proof.Machine.execPinLoss s
  | .pinRestore => Sys2Proof.Machine.execPinRestore s
  | .tickFault marker => Sys2Proof.Machine.execTickFault marker s
  | .whorlBoundary measuredUj => Sys2Proof.Machine.execWhorlBoundary measuredUj s
  | .operatingPointStep ok => Sys2Proof.Machine.execOperatingPointStep ok s
  | .peakTrip => Sys2Proof.Machine.execPeakTrip s
  | .schedActivate => Sys2Proof.Machine.execSchedActivate s
  | .verdictDeadline => Sys2Proof.Machine.execVerdictDeadline s
  | .verdictWaitExpiry => Sys2Proof.Machine.execVerdictWaitExpiry s
  | .slotStart k => Sys2Proof.Machine.execSlotStart k s
  | .slotEnd k => Sys2Proof.Machine.execSlotEnd k s
  | .unitEnded u => Sys2Proof.Machine.execUnitEnded u s
  | .commitWindowOpen hw => Sys2Proof.Machine.execCommitWindowOpen hw s
  | .coordinatorDeadline => Sys2Proof.Machine.execCoordinatorDeadline s
  | .mirrorAckDeadline => Sys2Proof.Machine.execMirrorAckDeadline s
  | .inDoubtExpiry u => Sys2Proof.Machine.execInDoubtExpiry u s
  | .tokenize u => Sys2Proof.Machine.execTokenize u s
  | .prefixLookup u => Sys2Proof.Machine.execPrefixLookup u s
  | .prefillSlice u => Sys2Proof.Machine.execPrefillSlice u s
  | .decodeStep u => Sys2Proof.Machine.execDecodeStep u s
  | .decodeUnitCreate r => Sys2Proof.Machine.execDecodeUnitCreate r s
  | .ringRoomTimeout r => Sys2Proof.Machine.execRingRoomTimeout r s
  | .stallHoldExpiry r => Sys2Proof.Machine.execStallHoldExpiry r s
  | .parkTile u => Sys2Proof.Machine.execParkTile u s
  | .parkTileTimeout u => Sys2Proof.Machine.execParkTileTimeout u s
  | .reviveTile u => Sys2Proof.Machine.execReviveTile u s
  | .reviveTileTimeout u => Sys2Proof.Machine.execReviveTileTimeout u s
  | .searchPass u => Sys2Proof.Machine.execSearchPass u s
  | .storeQueryDeadline q => Sys2Proof.Machine.execStoreQueryDeadline q s
  | .chkptTile u => Sys2Proof.Machine.execChkptTile u s
  | .chkptTileTimeout u => Sys2Proof.Machine.execChkptTileTimeout u s
  | .reelWrite => Sys2Proof.Machine.execReelWrite s
  | .compactBuild u => Sys2Proof.Machine.execCompactBuild u s
  | .prune u => Sys2Proof.Machine.execPrune u s
  | .purgeSweep u => Sys2Proof.Machine.execPurgeSweep u s
  | .purgeTimeout p => Sys2Proof.Machine.execPurgeTimeout p s
  | .reencryptionSweep u => Sys2Proof.Machine.execReencryptionSweep u s
  | .modelShardFree u => Sys2Proof.Machine.execModelShardFree u s
  | .evictDrainDeadline slot => Sys2Proof.Machine.execEvictDrainDeadline slot s
  | .adapterFree u => Sys2Proof.Machine.execAdapterFree u s
  | .modelChunkRead slot chunk => Sys2Proof.Machine.execModelChunkRead slot chunk s
  | .modelChunkTimeout slot chunk => Sys2Proof.Machine.execModelChunkTimeout slot chunk s
  | .modelActivate slot => Sys2Proof.Machine.execModelActivate slot s
  | .groupWaitTimeout x => Sys2Proof.Machine.execGroupWaitTimeout x s
  | .groupApply x => Sys2Proof.Machine.execGroupApply x s
  | .vaultWriteDone => Sys2Proof.Machine.execVaultWriteDone s
  | .releaseKeyExpiry id => Sys2Proof.Machine.execReleaseKeyExpiry id s
  | .routeMapActivate => Sys2Proof.Machine.execRouteMapActivate s
  | .epochDrainDeadline => Sys2Proof.Machine.execEpochDrainDeadline s
  | .holdTimeout idx => Sys2Proof.Machine.execHoldTimeout idx s
  | .handoffOfferDeadline h => Sys2Proof.Machine.execHandoffOfferDeadline h s
  | .handoffAcceptDeadline h => Sys2Proof.Machine.execHandoffAcceptDeadline h s
  | .ownerQueryRetry h => Sys2Proof.Machine.execOwnerQueryRetry h s
  | .handoffSettleTimeout h => Sys2Proof.Machine.execHandoffSettleTimeout h s
  | .offer src msg => Sys2Proof.Machine.execOffer src msg s
  | .accept src msg => Sys2Proof.Machine.execAccept src msg s
  | .handoffMsgCommit src msg => Sys2Proof.Machine.execHandoffMsgCommit src msg s
  | .handoffMsgAbort src msg => Sys2Proof.Machine.execHandoffMsgAbort src msg s
  | .queryOwnerMsg src msg => Sys2Proof.Machine.execQueryOwnerMsg src msg s
  | .ownerReply src msg => Sys2Proof.Machine.execOwnerReply src msg s
  | .hankTile src h tile data => Sys2Proof.Machine.execHankTile src h tile data s
  | .ready rank key => Sys2Proof.Machine.execReady rank key s
  | .notReady rank key => Sys2Proof.Machine.execNotReady rank key s
  | .commit rank key => Sys2Proof.Machine.execCommit rank key s
  | .abandon rank key => Sys2Proof.Machine.execAbandon rank key s
  | .decisionQuery rank key => Sys2Proof.Machine.execDecisionQuery rank key s
  | .tableDigest rank id digest => Sys2Proof.Machine.execTableDigest rank id digest s
  | .tableVerdict go => Sys2Proof.Machine.execTableVerdict go s
  | .loaded rank digest lastVersion => Sys2Proof.Machine.execLoaded rank digest lastVersion s
  | .failed rank digest status => Sys2Proof.Machine.execFailed rank digest status s
  | .activate digest tick version => Sys2Proof.Machine.execActivate digest tick version s
  | .abort digest => Sys2Proof.Machine.execAbort digest s
  | .forward rank c body => Sys2Proof.Machine.execForward rank c body s
  | .mirror rank key entries => Sys2Proof.Machine.execMirror rank key entries s
  | .mirrorAck rank key => Sys2Proof.Machine.execMirrorAck rank key s
  | .act rank body => Sys2Proof.Machine.execAct rank body s
  | .move rank item => Sys2Proof.Machine.execMove rank item s
  | .topk rank stamp query hits => Sys2Proof.Machine.execTopk rank stamp query hits s
  | .traceMsg rank body => Sys2Proof.Machine.execTraceMsg rank body s
  | .status rank tick counts => Sys2Proof.Machine.execStatus rank tick counts s
  | .memberLost rank => Sys2Proof.Machine.execMemberLost rank s
  | .shrink survivors tick => Sys2Proof.Machine.execShrink survivors tick s
  | .widthChange => Sys2Proof.Machine.execWidthChange s
  | .sessionMove u => Sys2Proof.Machine.execSessionMove u s
  | .reshardTile u => Sys2Proof.Machine.execReshardTile u s
  | .shrinkTimeout => Sys2Proof.Machine.execShrinkTimeout s
  | .joinAck rank status => Sys2Proof.Machine.execJoinAck rank status s
  | .joinPropose joinTick table => Sys2Proof.Machine.execJoinPropose joinTick table s
  | .joinGo tick copy => Sys2Proof.Machine.execJoinGo tick copy s
  | .joinTimeout => Sys2Proof.Machine.execJoinTimeout s
  | .hello via body => Sys2Proof.Machine.execHello via body s
  | .linkTrained port lanes => Sys2Proof.Machine.execLinkTrained port lanes s
  | .portRetrain port => Sys2Proof.Machine.execPortRetrain port s
  | .portDown port => Sys2Proof.Machine.execPortDown port s
  | .retry port seq => Sys2Proof.Machine.execRetry port seq s
  | .linkRetryTimeout port => Sys2Proof.Machine.execLinkRetryTimeout port s
  | .echo port ns => Sys2Proof.Machine.execEcho port ns s
  | .echoReply port ns nowNs => Sys2Proof.Machine.execEchoReply port ns nowNs s
  | .keyPhaseSwitch port => Sys2Proof.Machine.execKeyPhaseSwitch port s
  | .linkShaperRefill port => Sys2Proof.Machine.execLinkShaperRefill port s
  | .gateTakeover port => Sys2Proof.Machine.execGateTakeover port s
  | .gateEntrySwitch port entry => Sys2Proof.Machine.execGateEntrySwitch port entry s
  | .atsResponse space page frame => Sys2Proof.Machine.execAtsResponse space page frame s
  | .pageResponse space page ok => Sys2Proof.Machine.execPageResponse space page ok s
  | .pageRequestTimeout space page => Sys2Proof.Machine.execPageRequestTimeout space page s
  | .atsInvalidation space page => Sys2Proof.Machine.execAtsInvalidation space page s
  | .delayedRingWrite space page => Sys2Proof.Machine.execDelayedRingWrite space page s
  | .mailboxWatchdog m => Sys2Proof.Machine.execMailboxWatchdog m s
  | .stewardWatchdog => Sys2Proof.Machine.execStewardWatchdog s
  | .tickWatchdog => Sys2Proof.Machine.execTickWatchdog s
  | .hangDumpTimeout => Sys2Proof.Machine.execHangDumpTimeout s
  | .bistRunDone run => Sys2Proof.Machine.execBistRunDone run s
  | .flit port flit fecOk => Sys2Proof.Machine.execFlit port flit fecOk s
  | .stewardRestart => Sys2Proof.Machine.execStewardRestart s
  | .restoreRecord idx ok => Sys2Proof.Machine.execRestoreRecord idx ok s
  | .bistResultUpkeep u => Sys2Proof.Machine.execBistResultUpkeep u s
  | .wdogEnWrite m v => Sys2Proof.Machine.execWdogEnWrite m v s

end Sys2Proof.Machine
end

