-- ==== Sys2Proof/WellFormed.lean ====
section
/-! DEFINITION. Which commands are well-formed: the bytes of a row spell that row's command, and what a row says of its
operands holds. A command that is not well-formed has a meaning all the same; the rows' statements do not need it. -/
namespace Sys2Proof
open Machine

/-- A host command of group 0x01 to 0x03: its mailbox, its 64 bytes and its row's OPCODE (R258). -/
def Instr.hostCall13 (i : Instr) : Option (Fin 64 × Cmd × Nat) :=
  match i with
  | .negotiate m c => some (m, c, 0x0101)
  | .openChannel m c => some (m, c, 0x0102)
  | .closeChannel m c => some (m, c, 0x0103)
  | .query m c => some (m, c, 0x0104)
  | .loadModel m c => some (m, c, 0x0201)
  | .evictModel m c => some (m, c, 0x0202)
  | .loadAdapter m c => some (m, c, 0x0203)
  | .retireAdapter m c => some (m, c, 0x0204)
  | .loadGrammar m c => some (m, c, 0x0205)
  | .loadVocab m c => some (m, c, 0x0206)
  | .sessionCreate m c => some (m, c, 0x0301)
  | .sessionDestroy m c => some (m, c, 0x0302)
  | .park m c => some (m, c, 0x0303)
  | .revive m c => some (m, c, 0x0304)
  | .handoffOffer m c => some (m, c, 0x0305)
  | .handoffCommit m c => some (m, c, 0x0306)
  | .queryOwner m c => some (m, c, 0x0307)
  | .adopt m c => some (m, c, 0x0308)
  | .claim m c => some (m, c, 0x0309)
  | .purge m c => some (m, c, 0x030A)
  | _ => none

/-- A host command of group 0x04 to 0x0F (R258). -/
def Instr.hostCall4F (i : Instr) : Option (Fin 64 × Cmd × Nat) :=
  match i with
  | .submit m c => some (m, c, 0x0401)
  | .cancel m c => some (m, c, 0x0402)
  | .resume m c => some (m, c, 0x0403)
  | .retract m c => some (m, c, 0x0404)
  | .storeCreate m c => some (m, c, 0x0501)
  | .insert m c => some (m, c, 0x0502)
  | .delete m c => some (m, c, 0x0503)
  | .storeQuery m c => some (m, c, 0x0504)
  | .compact m c => some (m, c, 0x0505)
  | .checkpoint m c => some (m, c, 0x0601)
  | .restore m c => some (m, c, 0x0602)
  | .verifyReel m c => some (m, c, 0x0603)
  | .tenantCreate m c => some (m, c, 0x0701)
  | .attest m c => some (m, c, 0x0702)
  | .keyRotate m c => some (m, c, 0x0703)
  | .schedLoad m c => some (m, c, 0x0801)
  | .gateListLoad m c => some (m, c, 0x0802)
  | .shaperSet m c => some (m, c, 0x0803)
  | .energySet m c => some (m, c, 0x0804)
  | .traceCfg m c => some (m, c, 0x0901)
  | .traceTrigger m c => some (m, c, 0x0902)
  | .hangDump m c => some (m, c, 0x0903)
  | .countersRead m c => some (m, c, 0x0904)
  | .groupJoin m c => some (m, c, 0x0A01)
  | .groupShrink m c => some (m, c, 0x0A02)
  | .routeMapSet m c => some (m, c, 0x0A03)
  | .shutdown m c => some (m, c, 0x0F01)
  | .bistResults m c => some (m, c, 0x0F02)
  | _ => none

/-- A host command: its mailbox, its 64 bytes and its row's OPCODE. -/
def Instr.hostCall (i : Instr) : Option (Fin 64 × Cmd × Nat) := i.hostCall13.orElse fun _ => i.hostCall4F

/-- A work entry of the DCI: its 64 bytes and its row's OP (R268). -/
def Instr.dciCall (i : Instr) : Option (Cmd × Nat) :=
  match i with
  | .dciCreate e => some (e, 1)
  | .dciInput e => some (e, 2)
  | .dciStep e => some (e, 3)
  | .dciFlyer e => some (e, 4)
  | .dciDestroy e => some (e, 5)
  | _ => none

/-- A handoff message: its 128 bytes and its row's TYPE (R188). -/
def Instr.handoffCall (i : Instr) : Option (BitVec 1024 × Nat) :=
  match i with
  | .offer _ b => some (b, 1)
  | .accept _ b => some (b, 2)
  | .handoffMsgCommit _ b => some (b, 3)
  | .handoffMsgAbort _ b => some (b, 4)
  | .queryOwnerMsg _ b => some (b, 5)
  | .ownerReply _ b => some (b, 6)
  | _ => none

/-- What the host writes to its own memory before a doorbell or a commit window. -/
def Instr.hostStores (i : Instr) : List (Nat × Bytes) :=
  match i with
  | .sqTailWrite _ _ hw => hw
  | .cqHeadWrite _ _ hw => hw
  | .dciWqTailWrite _ hw => hw
  | .commitWindowOpen hw => hw
  | _ => []

/-- The OPCODE is the row's, or one that no row has (R255 step 1). -/
def opcodeOk (c : Cmd) (op : Nat) : Bool := decide (Cmd.op c = op) || (specOf (Cmd.op c)).isNone

/-- The OP of a work entry is the row's, or a reserved one (R268). -/
def dciOpOk (e : Cmd) (op : Nat) : Bool := decide (fld e 0 1 = op) || decide (fld e 0 1 = 0) || decide (5 < fld e 0 1)

/-- TYPE is byte 0 of a handoff message (R188). -/
def handoffTypeOk (b : BitVec 1024) (ty : Nat) : Bool := decide (b.toNat % 256 = ty)

/-- Host addresses are 64 bits wide (R257). -/
def storesOk (hw : List (Nat × Bytes)) : Bool := hw.all fun w => decide (w.1 + w.2.length ≤ 2 ^ 64)

/-- Lengths that a row gives its byte strings: a tile is 64 KiB (R189), a HELLO body has its 12 bytes at least (R278), a BIST
record has at most 4,096 fault entries (R378). -/
def Instr.lengthsOk (i : Instr) : Bool :=
  match i with
  | .hankTile _ _ _ data => decide (data.length = 65536)
  | .hello _ body => decide (12 ≤ body.length)
  | .bistRunDone (.ran _ fs) => decide (fs.length ≤ 4096)
  | _ => true

/-- A command is well-formed. -/
def Instr.wf (i : Instr) : Bool :=
  ((i.hostCall.map fun h => opcodeOk h.2.1 h.2.2).getD true) && ((i.dciCall.map fun h => dciOpOk h.1 h.2).getD true) &&
  ((i.handoffCall.map fun h => handoffTypeOk h.1 h.2).getD true) && storesOk i.hostStores && i.lengthsOk

end Sys2Proof
end

