-- ==== Sys2Proof/Safety.lean ====
section
/-! DEFINITION. What a safe state of the block is, and the few words in which the statements speak of Steward's service. -/
namespace Sys2Proof

/-- Power is lost or removed: all that clears the debug sticky bits (R306, R370, R371, R388). -/
def Instr.powers (i : Instr) : Bool :=
  match i with
  | .coldReset => true
  | .railFault => true
  | .thermalTrip => true
  | _ => false

/-- The tick number is set or moves: a commit point, a join, a boot or a reset (R23, R291, R371). -/
def Instr.setsTick (i : Instr) : Bool :=
  match i with
  | .commitPoint => true
  | .joinGo _ _ => true
  | .bootComplete => true
  | .coldReset => true
  | .warmReset => true
  | .railFault => true
  | .thermalTrip => true
  | .lcAdvance _ => true
  | _ => false

namespace Machine

/-- The four host memories are in canonical form. -/
def State.memoryOk (s : State) : Bool :=
  Memory.wf s.host0 && Memory.wf s.host1 && Memory.wf s.cxl0 && Memory.wf s.cxl1

/-- Every debug sticky bit of `s` is set in `t` (R306). -/
def stickyKept (s t : State) : Prop := s.sec.sticky &&& t.sec.sticky = s.sec.sticky

/-! ### Steward's service of one command (R244 to R247, R255) -/

/-- The host address of the slot that Steward fetches next (R244). -/
def State.slotAddr (s : State) (m : Fin 64) : Nat := (s.mbx[m]).sqBase.toNat + 64 * (s.mbx[m]).sqHead

/-- Steward fetches the command, and it passes steps 1 to 5 and the reserved part of step 6 of R255 under the row `op`; a load does not
pause for a page of its image (R217). -/
def State.serves (s : State) (m : Fin 64) (c : Cmd) (op : Nat) : Prop :=
  s.canFetch m (owedBy (Cmd.op c)) = true ∧ s.hostAbsent .port0 (s.slotAddr m) = false ∧
    ∃ k, specOf op = some k ∧ ((s.fetched m c).view).common m k c = .ok () ∧ s.loadPause m c = none

/-- What the checks of the command see (R247). -/
def State.sees (s : State) (m : Fin 64) (c : Cmd) : State := (s.fetched m c).view

/-- What the checks of the command are given. -/
def State.given (s : State) (m : Fin 64) (c : Cmd) : Ctx := (s.fetched m c).ctx m s.nextCmd c

/-- The command is fetched and completes: it is accepted, and its effects, its completion among them, are staged and become visible
together at the coming commit point (R45, R247). -/
def State.takes (s : State) (m : Fin 64) (c : Cmd) (effs : List Effect) : State :=
  (s.fetched m c).acceptCmd (s.given m c) effs

/-- The command is fetched and rejected: only its completion is staged (R255), and for a load of a group the other members are told (R92). -/
def State.rejects (s : State) (m : Fin 64) (c : Cmd) (st : Status) (res : Bytes) : State :=
  ((s.fetched m c).reject m s.nextCmd (Cmd.op c) st res).loadRejected (s.given m c) st

/-- The command is fetched and accepted or rejected by the answer of its checks. -/
def State.answers (s : State) (m : Fin 64) (c : Cmd) (r : Checked (List Effect)) : State :=
  match r with
  | .ok effs => s.takes m c effs
  | .error e => s.rejects m c e.1 e.2

/-! ### Service of one work entry of direct host mode (R267, R268) -/

/-- The queue with the entry fetched. -/
def State.dciFetched (s : State) : State := { s with dci.wqHead := (s.dci.wqHead + 1) % 2 ^ s.dci.wqLog2.toNat }

/-- The entry is fetched, and the fields that its OP leaves unused are zero (R268). -/
def State.dciServes (s : State) (e : Cmd) (op : Nat) : Prop :=
  s.canFetchDci = true ∧ s.dciBusy e = false ∧
    s.hostAbsent .port0 (s.dci.wqBase.toNat + 64 * s.dci.wqHead) = false ∧ dciClean e op = true

/-- The entry is fetched and its effects are staged, under the session that it works on. -/
def State.dciTakes (s : State) (effs : List Effect) (o : Option Nat) : State :=
  ({ s.dciFetched with freeCtr := s.freeCtr + 1 } : State).stage effs o

/-! ### Units (R37, R40, R45) -/

/-- What sending messages may write besides the fields of `t` named elsewhere: ports, outbox, message counts, trace, free counter. -/
def State.sentAs (s t : State) : State :=
  { s with ports := t.ports, outbox := t.outbox, dbg := t.dbg, freeCtr := t.freeCtr
           grp := { s.grp with msgSeq := t.grp.msgSeq, sentCounts := t.grp.sentCounts } }

/-- A port but for what sending over it writes: its queue, sequence, unacknowledged flits and their time, credits and shapers. -/
def Port.sentAs (x y : Port) : Port :=
  { x with txq := y.txq, txSeq := y.txSeq, retryBuf := y.retryBuf, ackUs := y.ackUs, credits := y.credits, toReturn := y.toReturn
           shapers := y.shapers }

/-- A port's part in a step that otherwise only sends: the port `p` is now `y`, every other one is as it was, but for sending. -/
def State.portNow (s : State) (p : Fin 20) (y : Port) (t : State) : Prop :=
  t.ports[p] = y.sentAs t.ports[p] ∧ ∀ q : Fin 20, q ≠ p → t.ports[q] = (s.ports[q]).sentAs t.ports[q]

/-- The unit `u` has left slot `k` finished, with its effects staged (of system work cut into pieces, with its last piece, R39); the freed
engines may have let queued units start. -/
def State.finishes (s : State) (k : Nat) (u : UnitRec) (effs : List Effect) (t : State) : Prop :=
  t.work.done = s.work.done ++ [⟨some u, k, u.session, if u.left = 0 then effs else []⟩] ∧
  (∃ more, t.work.running = (s.work.running.filter fun e => e.2.key != u.key || e.2.kind != u.kind) ++ more) ∧
  t = { s.sentAs t with
    st := t.st, ten := t.ten, tk := { s.tk with slots := t.tk.slots, allowLeft := t.tk.allowLeft }
    work := { s.work with done := t.work.done, running := t.work.running, queue := t.work.queue
                          storeCredits := t.work.storeCredits, tenantTiles := t.work.tenantTiles } }

/-- The unit `u` has left slot `k` without effect and waits again under its old stamp, one abandonment more counted. -/
def State.abandons (s : State) (k : Nat) (u : UnitRec) (t : State) : Prop :=
  t.work.done = s.work.done ∧ { u with abandons := u.abandons + 1, lastSlot := k, tags := [] } ∈ t.work.queue ∧
  t.work.running = (s.work.running.filter fun e => e.2.key != u.key || e.2.kind != u.kind) ∧
  t.tk.abandonCnt = Nat.min (s.tk.abandonCnt + 1) 0x7FFFFFFF ∧
  t = { s.sentAs t with
    ss := t.ss, st := t.st, tk := { s.tk with abandonCnt := t.tk.abandonCnt, abandonSat := t.tk.abandonSat }
    work := { s.work with running := t.work.running, queue := t.work.queue, votes := t.work.votes
                          storeCredits := t.work.storeCredits, tenantTiles := t.work.tenantTiles } }

end Machine
end Sys2Proof
end

