-- ==== Sys2Proof/Certificates/Slice0/Obligations.lean ====
section
/-! DEFINITION. The statements about the block, one Prop each. -/
open Sys2Proof Sys2Proof.Machine

/-! ### The block as a whole -/

/-- Step takes the command at the front of the queue and runs it on the state with the queue's rest; on an empty queue the
block idles, which is the model's own choice (log entry 3). -/
def Obligations.StepRunsFrontCommand : Prop :=
  (∀ (s : State) (c : Instr) (rest : List Instr), s.pending = c :: rest → step s = exec c { s with pending := rest }) ∧
  ∀ s : State, s.pending = [] → step s = .next s

/-- What a cold reset leaves (R9 and the Reset columns of R52, R242, R243, R267, R364; R24, R38, R243, R371). -/
def Obligations.ResetRegisters : Prop :=
  let s := State.reset
  s.glb.ready = false ∧ s.glb.mode = .boot ∧ s.glb.bistFail = false ∧ s.glb.rank = 0 ∧ s.glb.inGroup = false ∧
  s.glb.dciReq = false ∧ s.tk.tick = 0 ∧ s.tk.src = 0 ∧ s.tk.abandonCnt = 0 ∧ s.tk.deferCnt = 0 ∧
  s.tk.pinLoss = false ∧ s.tk.tickFault = false ∧ s.tickUs = 500 ∧
  (∀ m : Fin 64, (s.mbx[m]).enable = false ∧ (s.mbx[m]).sqBase = 0 ∧ (s.mbx[m]).cqBase = 0 ∧ (s.mbx[m]).sqTail = 0 ∧
    (s.mbx[m]).cqHead = 0 ∧ (s.mbx[m]).sqErr = false ∧ (s.mbx[m]).cfgErr = false ∧ (s.mbx[m]).wdogMs = 1000 ∧
    (s.mbx[m]).chan = .idle) ∧
  (∀ p : Fin 20, (s.ports[p]).state = .down) ∧
  s.dci.active = false ∧ s.dci.enable = false ∧ s.dci.cause = 0 ∧ s.sec.sticky = 0 ∧ s.ss.sessions = [] ∧
  s.ten.tenants = [] ∧ s.img.models = [] ∧ s.kv.pages = [] ∧ s.st.stores = [] ∧ s.pwr.boardW = 2200

/-- The host memories are canonical after reset. -/
def Obligations.ResetMemoryCanonical : Prop := State.reset.memoryOk = true

/-- Every step keeps the canonical form of the host memories. -/
def Obligations.StepKeepsMemory : Prop :=
  ∀ s t : State, s.memoryOk = true → step s = .next t → t.memoryOk = true

/-- No command but one that takes the power away clears a debug sticky bit (R306). -/
def Obligations.DebugBitsOnlyGrow : Prop :=
  ∀ (i : Instr) (s t : State), i.powers = false → exec i s = .next t → stickyKept s t

/-- The lifecycle changes only by LC_ADVANCE with a token that the device accepts, and then to the token's state (R308). -/
def Obligations.LifecycleOnlyByToken : Prop :=
  (∀ (i : Instr) (s t : State), (∀ token, i ≠ .lcAdvance token) → exec i s = .next t → t.glb.lifecycle = s.glb.lifecycle) ∧
  ∀ (token : BitVec 1536) (s : State), match s.tokenOk (toLE 192 token.toNat) with
    | some l => ∃ t, exec (.lcAdvance token) s = .next t ∧ t.glb.lifecycle = l
    | none => exec (.lcAdvance token) s = .next { s with sec.jtagRefused := true }

/-- The tick number advances by one at each commit point, and no other command moves it but a join, a boot and a reset (R23). -/
def Obligations.TickAdvancesAtCommit : Prop :=
  (∀ s : State, s.ticking = true → s.tk.windowOpen = true →
    ∃ t, exec .commitPoint s = .next t ∧ t.tk.tick = s.tk.tick + 1) ∧
  (∀ s : State, s.ticking = false ∨ s.tk.windowOpen = false → exec .commitPoint s = .next s) ∧
  ∀ (i : Instr) (s t : State), i.setsTick = false → exec i s = .next t → t.tk.tick = s.tk.tick

/-- The commands that wait keep their order: no command changes the queue (the model's queue, first in, first out). -/
def Obligations.QueueFifo : Prop :=
  ∀ (i : Instr) (s t : State), exec i s = .next t → t.pending = s.pending

/-- Every command ends in a next state: no operand and no state stops the block. -/
def Obligations.NeverStops : Prop := ∀ (i : Instr) (s : State), ∃ t, exec i s = .next t

/-! ### Host commands: service, acceptance, rejection -/

/-- What Steward does with each of the 48 host commands: none is fetched where the mailbox is not served or has no room;
a slot on an absent page is a failed fetch; a load whose image has a page that is not present waits for it; a command that fails a check is rejected with that check's status; one that
passes has its own effects staged, CANCEL's mark and HANG_DUMP's declaration at once (R217, R243, R246, R247, R255, R258). -/
def Obligations.HostCommandOutcome : Prop :=
  ∀ (i : Instr) (m : Fin 64) (c : Cmd) (op : Nat) (s : State), i.hostCall = some (m, c, op) →
    (s.canFetch m (owedBy (Cmd.op c)) = false → exec i s = .next s) ∧
    (s.canFetch m (owedBy (Cmd.op c)) = true → s.hostAbsent .port0 (s.slotAddr m) = true →
      exec i s = .next (s.fetchFailed m)) ∧
    (∀ p, s.canFetch m (owedBy (Cmd.op c)) = true → s.hostAbsent .port0 (s.slotAddr m) = false → s.loadPause m c = some p →
      exec i s = .next (s.waitOn m.val .port0 p)) ∧
    (s.canFetch m (owedBy (Cmd.op c)) = true → s.hostAbsent .port0 (s.slotAddr m) = false → s.loadPause m c = none →
      ∃ k own, specOf op = some k ∧ checkOf op = some own ∧
        match (s.sees m c).common m k c, own (s.sees m c) (s.given m c) with
        | .error e, _ => exec i s = .next (s.rejects m c e.1 e.2)
        | .ok (), .error e => exec i s = .next (s.rejects m c e.1 e.2)
        | .ok (), .ok effs => exec i s = .next (nowOf op (s.takes m c effs) (s.given m c)))

/-- Outside a group a host command changes nothing but its mailbox's own bookkeeping, the mailbox served last, the table of fetched
commands, the mailbox counters, the free counter and Steward's staged list, which grows by one item: a rejection's completion alone, or
the acceptance with its effects. A load that pauses for a page of its image writes its wait and a page request with its count besides.
CANCEL and HANG_DUMP, which act at once as well, are not meant (R3, R217, R246, R247, R255). -/
def Obligations.HostCommandFrame : Prop :=
  ∀ (i : Instr) (m : Fin 64) (c : Cmd) (op : Nat) (s t : State), i.hostCall = some (m, c, op) → op ≠ 0x0402 → op ≠ 0x0903 →
    s.grp.n ≤ 1 → s.glb.inGroup = false → exec i s = .next t →
    t = { s with mbx := t.mbx, served := t.served, cmds := t.cmds, nextCmd := t.nextCmd, freeCtr := t.freeCtr
                 work.steward := t.work.steward, dbg := { s.dbg with mailbox := t.dbg.mailbox, memory := t.dbg.memory }
                 ats := { s.ats with waits := t.ats.waits, requests := t.ats.requests } } ∧
    (loadOp (Cmd.op c) = false → t.ats = s.ats ∧ t.dbg.memory = s.dbg.memory) ∧
    (∀ k : Fin 64, k ≠ m → t.mbx[k] = s.mbx[k]) ∧
    (t.work.steward = s.work.steward ∨
      (∃ st res, t.work.steward = s.work.steward ++ [⟨none, 16, none, [.complete s.nextCmd st res]⟩]) ∨
      ∃ o effs, t.work.steward = s.work.steward ++ [⟨none, 16, o, .accepted s.nextCmd m.val c :: effs⟩])

/-! ### Host commands of groups 0x01 to 0x03 -/

/-- OPEN requires a negotiated channel and otherwise fails with E_STATE; it makes the channel open. CLOSE fails with E_BUSY
while a completion beyond its own is owed to the mailbox (a pending command's or a live request's, R246), and otherwise
returns the channel to idle (R254). -/
def Obligations.OpenAndClose : Prop :=
  (∀ (s : State) (m : Fin 64) (c : Cmd), s.serves m c 0x0102 →
    (((s.sees m c).mbx[m]).chan ≠ .negotiated → exec (.openChannel m c) s = .next (s.rejects m c .eState [])) ∧
    (((s.sees m c).mbx[m]).chan = .negotiated → exec (.openChannel m c) s = .next (s.takes m c
      [.chan m.val .opened ((s.sees m c).mbx[m]).nci, .complete s.nextCmd .ok
        (toLE 1 m.val ++ zeros 3 ++ toLE 4 (s.sees m c).ten.map.epoch ++ toLE 8 (s.sees m c).tk.tick)]))) ∧
  (∀ (s : State) (m : Fin 64) (c : Cmd), s.serves m c 0x0103 →
    (1 < ((s.sees m c).mbx[m]).debts → exec (.closeChannel m c) s = .next (s.rejects m c .eBusy [])) ∧
    (((s.sees m c).mbx[m]).debts ≤ 1 → exec (.closeChannel m c) s = .next (s.takes m c
      [.chan m.val .idle 0, .complete s.nextCmd .ok []]))) ∧
  ∀ (t : State) (m : Fin 64) (ch : Chan) (v stamp : Nat), ((t.applyPlain (.chan m.val ch v) stamp).mbx[m]).chan = ch

/-- NEGOTIATE answers the highest version that both have, and QUERY writes the item that it names to the host
(R252, R260). -/
def Obligations.NegotiateAndQuery : Prop :=
  (∀ (s : State) (m : Fin 64) (c : Cmd), s.serves m c 0x0101 → ((s.sees m c).mbx[m]).chan ≠ .opened →
    fld c 8 1 ≤ fld c 9 1 → 0x10 ≤ fld c 8 1 → fld c 8 1 ≤ 0x13 → fld c 9 1 ≤ 0x1F →
    exec (.negotiate m c) s = .next (s.takes m c [.chan m.val .negotiated (Nat.min (fld c 9 1) 0x13),
      .complete s.nextCmd .ok (toLE 1 (Nat.min (fld c 9 1) 0x13) ++ toLE 1 3 ++ toLE 1 2 ++ toLE 1 1 ++ toLE 2 0x0100 ++
        toLE 1 0x22 ++ zeros 1 ++ toLE 8 Config.deviceId.toNat)])) ∧
  ∀ (s : State) (m : Fin 64) (c : Cmd) (b : Bytes) (o : Option (Option Nat)), s.serves m c 0x0104 →
    1 ≤ fld c 8 2 → fld c 8 2 ≤ 7 → fld c 24 8 % 16 = 0 → (fld c 16 8 = 0 ∨ fld c 8 2 ∈ [3, 4, 5, 6]) →
    (s.sees m c).queryItem (fld c 8 2) (fld c 16 8) = .ok (b, o) →
    (m = 0 ∨ o = none ∨ ∃ t, o = some (some t) ∧ (s.sees m c).routeOf t = some m.val) → b.length ≤ fld c 32 4 →
    exec (.query m c) s = .next (s.takes m c
      [.hostWrite .port0 (fld c 24 8) b, .complete s.nextCmd .ok (toLE 4 b.length)])

/-- A model load that passes its checks takes a slot in the state LOADING with every chunk of its shard to read; an ACTIVE
model is evicted by retiring its slot; an adapter version is retired (R90, R91, R92, R96, R99, R101). Under the conditions named,
on the state and the command alone, each completes: exec answers the state in which it is accepted, and what its effect does at the
coming commit point is stated last (R45, R247). -/
def Obligations.ModelCommands : Prop :=
  (∀ (s : State) (m : Fin 64) (c : Cmd), s.serves m c 0x0201 →
    exec (.loadModel m c) s = .next (s.answers m c (checkLoadModel (s.sees m c) (s.given m c))) ∧
    ∀ effs, checkLoadModel (s.sees m c) (s.given m c) = .ok effs → exec (.loadModel m c) s = .next (s.takes m c effs) ∧
      ∃ k mdl,
      effs = .modelLoad k mdl :: (if (s.sees m c).glb.inGroup
        then [(s.sees m c).loadExchange (s.given m c) (.model k) mdl.digest] else []) ∧
      mdl.state = .loading ∧ mdl.addr = fld c 16 8 ∧ mdl.chunks = [] ∧ mdl.loaded = false ∧
      mdl.tenantMask = BitVec.ofNat 64 (fld c 32 8)) ∧
  (∀ (s : State) (m : Fin 64) (c : Cmd) (mdl : Model), s.serves m c 0x0202 → fld c 8 1 ≤ 7 → 1 ≤ fld c 12 4 →
    fld c 12 4 ≤ 60000 → Tb.get (s.sees m c).img.models (fld c 8 1) = some mdl → mdl.state = .active →
    exec (.evictModel m c) s = .next (s.takes m c [.modelRetire (fld c 8 1) (fld c 12 4) (s.given m c).cmd])) ∧
  (∀ (s : State) (m : Fin 64) (c : Cmd), s.serves m c 0x0203 →
    exec (.loadAdapter m c) s = .next (s.answers m c (checkLoadAdapter (s.sees m c) (s.given m c))) ∧
    ∀ effs, checkLoadAdapter (s.sees m c) (s.given m c) = .ok effs → exec (.loadAdapter m c) s = .next (s.takes m c effs) ∧
      ∃ a : AdapterVer,
      a.id = fld c 8 2 ∧ a.ver = (Tb.get (s.sees m c).img.adapterLast (fld c 8 2)).getD 0 + 1 ∧ a.retiring = false ∧
      effs = if (s.sees m c).glb.inGroup then [(s.sees m c).loadExchange (s.given m c) (.adapter a.id a) a.digest]
        else [.adapterAdd a, .complete s.nextCmd .ok (toLE 2 a.ver)]) ∧
  (∀ (s : State) (m : Fin 64) (c : Cmd) (a : AdapterVer), s.serves m c 0x0204 → fld c 8 2 ≤ 4095 →
    (s.sees m c).img.adapters.find? (fun a => a.id = fld c 8 2 && a.ver = fld c 10 2) = some a → a.retiring = false →
    exec (.retireAdapter m c) s = .next (s.takes m c [.adapterRetire a.id a.ver, .complete s.nextCmd .ok []])) ∧
  ∀ (t : State) (st : Nat),
    (∀ k mdl, Tb.get (t.applyPlain (.modelLoad k mdl) st).img.models k = some mdl) ∧
    (∀ k ms cmd mdl, Tb.get t.img.models k = some mdl →
      Tb.get (t.applyPlain (.modelRetire k ms cmd) st).img.models k =
        some { mdl with state := .retiring, drainUs := t.timeUs + 1000 * ms, cmd := cmd, drainDue := false }) ∧
    (∀ a, Tb.get (t.applyPlain (.adapterAdd a) st).img.adapterCurrent a.id = some a.ver ∧
      a ∈ (t.applyPlain (.adapterAdd a) st).img.adapters ∧
      ∀ b ∈ t.img.adapters, b.id = a.id → some b.ver = Tb.get t.img.adapterCurrent a.id →
        { b with retiring := true } ∈ (t.applyPlain (.adapterAdd a) st).img.adapters) ∧
    ∀ i v, (∀ b ∈ (t.applyPlain (.adapterRetire i v) st).img.adapters, b.id = i → b.ver = v → b.retiring = true) ∧
      Tb.get (t.applyPlain (.adapterRetire i v) st).img.adapterCurrent i ≠ some v

/-- A grammar or a vocabulary whose image passes its checks is installed with the commit, in a group through the group's exchange; one
of length 0 is unloaded where nothing uses it (R102, R142, R149). Under the conditions named, on the state and the command alone, each
completes: exec answers the state in which it is accepted, and what its effect does at the coming commit point is stated last. -/
def Obligations.GrammarAndVocabCommands : Prop :=
  (∀ (s : State) (m : Fin 64) (c : Cmd), s.serves m c 0x0205 → (s.given m c).loadFields = true → fld c 8 2 ≤ 1023 →
    (fld c 24 8 = 0 → Tb.has (s.sees m c).img.grammars (fld c 8 2) = true → (s.sees m c).grammarUsed (fld c 8 2) = false →
      exec (.loadGrammar m c) s = .next (s.takes m c [.grammarSet (fld c 8 2) none, .complete s.nextCmd .ok []])) ∧
    (fld c 24 8 ≠ 0 →
      exec (.loadGrammar m c) s = .next (s.answers m c (checkLoadGrammar (s.sees m c) (s.given m c))) ∧
      ∀ effs, checkLoadGrammar (s.sees m c) (s.given m c) = .ok effs → exec (.loadGrammar m c) s = .next (s.takes m c effs) ∧
        ∃ g, effs = if (s.sees m c).glb.inGroup then [(s.sees m c).loadExchange (s.given m c) (.grammar (fld c 8 2) g) g.digest]
          else [.grammarSet (fld c 8 2) (some g), .complete s.nextCmd .ok []])) ∧
  (∀ (s : State) (m : Fin 64) (c : Cmd), s.serves m c 0x0206 → (s.given m c).loadFields = true → fld c 8 1 ≤ 15 →
    (∀ w, fld c 24 8 = 0 → Tb.get (s.sees m c).img.vocabs (fld c 8 1) = some w → (s.sees m c).vocabUsed w.digest = false →
      exec (.loadVocab m c) s = .next (s.takes m c [.vocabSet (fld c 8 1) none, .complete s.nextCmd .ok []])) ∧
    (fld c 24 8 ≠ 0 →
      exec (.loadVocab m c) s = .next (s.answers m c (checkLoadVocab (s.sees m c) (s.given m c))) ∧
      ∀ effs, checkLoadVocab (s.sees m c) (s.given m c) = .ok effs → exec (.loadVocab m c) s = .next (s.takes m c effs) ∧
        ∃ w, effs = if (s.sees m c).glb.inGroup then [(s.sees m c).loadExchange (s.given m c) (.vocab (fld c 8 1) w) w.digest]
          else [.vocabSet (fld c 8 1) (some w), .complete s.nextCmd .ok []])) ∧
  ∀ (t : State) (i st : Nat),
    (∀ g, Tb.get (t.applyPlain (.grammarSet i (some g)) st).img.grammars i = some g) ∧
    Tb.get (t.applyPlain (.grammarSet i none) st).img.grammars i = none ∧
    (∀ v, Tb.get (t.applyPlain (.vocabSet i (some v)) st).img.vocabs i = some v) ∧
    Tb.get (t.applyPlain (.vocabSet i none) st).img.vocabs i = none

/-- SESSION_CREATE makes a session at the lowest free index with its OPEN entry; SESSION_DESTROY destroys an IDLE, PARKED or
GONE session; PARK orders a copy with its PARK entry; REVIVE orders a revival (R167, R170 to R172, R182, R183, R185). Under the
conditions named, on the state and the command alone, each completes: exec answers the state in which it is accepted, and what its
effect does at the coming commit point is stated last. -/
def Obligations.SessionCommands : Prop :=
  (∀ (s : State) (m : Fin 64) (c : Cmd) (b : Bytes) (t : Tenant) (mdl : Nat × Model) (i : Nat), s.serves m c 0x0301 →
    fld c 8 1 ≤ 63 → fld c 16 8 % 16 = 0 → (s.given m c).rd .port0 (fld c 16 8) 64 = some b →
    ((s.given m c).flag 0 = true ∨ zeroAt b 48 16 = true) → Tb.get (s.sees m c).ten.tenants (fld c 8 1) = some t →
    (s.sees m c).routeOf (fld c 8 1) = some m.val → fld c 9 1 ∈ [16, 32, 64, 128] →
    (s.sees m c).activeModel (digestOf (b.take 48)) (fld c 8 1) = .ok mdl →
    (s.sees m c).sessionsOf (fld c 8 1) < t.sessions → (s.sees m c).freeIndex = some i →
    (s.sees m c).grants (fld c 8 1) ((s.sees m c).segmentCharge i) = true →
    ∃ seed : BitVec 128, ((s.given m c).flag 0 = true → seed = BitVec.ofNat 128 (beNat (sliceAt b 48 16))) ∧
      exec (.sessionCreate m c) s = .next (s.takes m c
        [.sessCreate i (freshSession ((s.sees m c).genOf i) (fld c 8 1) (fld c 9 1) (s.sees m c).ten.map.epoch
          (digestOf (b.take 48)) seed),
         .spool i 0x01 0 (payOpen (handleOf i ((s.sees m c).genOf i)) (fld c 8 1) (fld c 9 1) 0 seed
          (digestOf (b.take 48)) mdl.2.hdr.vocabDigest),
         .complete s.nextCmd .ok (toLE 8 (handleOf i ((s.sees m c).genOf i)))])) ∧
  (∀ (s : State) (m : Fin 64) (c : Cmd) (i : Nat) (y : Session), s.serves m c 0x0302 →
    (s.sees m c).sessOf (fld c 8 8) = some (i, y) → (s.sees m c).routeOf y.tenant = some m.val →
    (y.state = .idle ∨ y.state = .parked ∨ y.state = .gone) →
    exec (.sessionDestroy m c) s = .next (s.takes m c [.sessDestroy i, .complete s.nextCmd .ok []])) ∧
  (∀ (s : State) (m : Fin 64) (c : Cmd) (i : Nat) (y : Session) (p : ParkStore), s.serves m c 0x0303 → fld c 16 1 ≤ 1 →
    fld c 40 8 % 16 = 0 → fld c 32 8 ≠ 0 → (s.sees m c).sessOf (fld c 8 8) = some (i, y) →
    (s.sees m c).routeOf y.tenant = some m.val → Tb.get (s.sees m c).ten.map.stores (fld c 17 1) = some p → p.mask.getLsbD y.tenant = true →
    fld c 24 8 % 65536 = 0 → fld c 24 8 + fld c 32 8 ≤ p.len → (s.sees m c).copying i = false →
    (s.sees m c).copyState y = true → (s.sees m c).energyOk (.parkTile 0 0) 65536 (some y.tenant) = true →
    exec (.park m c) s = .next (s.takes m c
      (.spool i 0x0E 0 (payPark (s.sees m c).ss.nextHank (fld c 16 1) (fld c 17 1) (fld c 24 8)) ::
        ((if (s.given m c).flag 0 then [] else [.sessState i .parking]) ++
        [Effect.copyStart (newCopy i (.park (fld c 17 1) (fld c 24 8) (fld c 40 8) .port0 ((s.given m c).flag 0))
          (s.given m c).cmd (fld c 16 1 = 1) (fld c 32 8) (s.sees m c).ss.nextHank)])))) ∧
  (∀ (s : State) (m : Fin 64) (c : Cmd), s.serves m c 0x0304 →
    exec (.revive m c) s = .next (s.answers m c (checkRevive (s.sees m c) (s.given m c))) ∧
    ∀ effs, checkRevive (s.sees m c) (s.given m c) = .ok effs → exec (.revive m c) s = .next (s.takes m c effs)
      ∧ ∃ r : Revival, effs = [.reviveStart r] ∧
      r.cmd = (s.given m c).cmd ∧ r.store = fld c 16 1 ∧ r.offset = fld c 24 8 ∧ r.slice = fld c 20 2 ∧
      r.fresh = decide (fld c 8 8 = 0)) ∧
  ∀ (t : State) (st : Nat),
    (∀ i y, Tb.get (t.applyPlain (.sessCreate i y) st).ss.sessions i = some y) ∧
    (∀ i, Tb.get (t.applyPlain (.sessDestroy i) st).ss.sessions i = none) ∧
    (∀ i y u, Tb.get t.ss.sessions i = some y → ∃ z, Tb.get (t.applyPlain (.sessState i u) st).ss.sessions i = some z ∧
      z.state = u ∧ z.hist = y.hist ∧ z.spool = y.spool) ∧
    (∀ k y, Tb.get t.ss.sessions k.session = some y →
      Tb.has (t.applyPlain (.copyStart k) st).ss.copies t.ss.nextCopy = true) ∧
    ∀ r, Tb.get (t.applyPlain (.reviveStart r) st).ss.revivals t.ss.nextRev = some r ∧
      ∃ z, Tb.get (t.applyPlain (.reviveStart r) st).ss.sessions r.session = some z ∧ z.state = .reviving

/-- HANDOFF_OFFER offers a session and orders its copy; HANDOFF_COMMIT refuses an offer, or verifies what has come and either
answers ACCEPT or aborts; QUERY_OWNER asks again for an ACCEPTING session; ADOPT settles a handoff by a reel (R189 to R192). Under the
conditions named, on the state and the command alone, each completes: exec answers the state in which it is accepted, and what its
effect does at the coming commit point is stated last. -/
def Obligations.HandoffCommands : Prop :=
  (∀ (s : State) (m : Fin 64) (c : Cmd) (i : Nat) (y : Session), s.serves m c 0x0305 → fld c 24 1 ≤ 1 → 10 ≤ fld c 28 4 →
    fld c 28 4 ≤ 60000 → (s.sees m c).sessOf (fld c 8 8) = some (i, y) → (s.sees m c).routeOf y.tenant = some m.val →
    y.state ≠ .offered → (s.sees m c).copying i = false → ((s.sees m c).copyState y = true ∨ y.state = .parked) →
    (s.sees m c).copyFits y = true → (s.sees m c).energyOk (.parkTile 0 0) 65536 (some y.tenant) = true → (s.sees m c).slotRoom = true →
    exec (.handoffOffer m c) s = .next (s.takes m c
      [.handoffOffer (s.sees m c).ss.nextHandoff { session := i, dst := fld c 16 8, timeoutMs := fld c 28 4
                                                   cmd := (s.given m c).cmd, deadlineUs := none, accepted := none, aborted := none
                                                   restored := false, reverted := false, full := decide (fld c 24 1 = 1)
                                                   was := (0, 0) },
       .copyStart (newCopy i (.handoff (s.sees m c).ss.nextHandoff) none (decide (fld c 24 1 = 1)) 0 (s.sees m c).ss.nextHank)])) ∧
  (∀ (s : State) (m : Fin 64) (c : Cmd) (d : HandoffDst), s.serves m c 0x0306 → fld c 16 1 ≤ 63 → fld c 17 1 ≤ 1 →
    Tb.get (s.sees m c).ss.dsts (fld c 8 8) = some d → d.offer ≠ [] → d.session = none → d.owned = false →
    (fld c 17 1 = 1 → ∃ st < 16, exec (.handoffCommit m c) s = .next (s.takes m c
      [d.abortMsg (fld c 8 8) st, .handoffRefuse (fld c 8 8) s.nextCmd .ok, .complete s.nextCmd .ok []])) ∧
    (fld c 17 1 = 0 → exec (.handoffCommit m c) s = .next (s.takes m c
      (match (s.sees m c).verifyOffer (s.given m c) (fld c 8 8) d with
        | .error e => [d.abortMsg (fld c 8 8) e.1.code, .handoffRefuse (fld c 8 8) s.nextCmd e.1, .complete s.nextCmd e.1 []]
        | .ok r => [.handoffAccept (fld c 8 8) (fld c 16 1) r,
            .send (.device d.src) (.handoff (handoffMsg 2 0 (fld c 8 8) (fieldAt d.offer 16 8)
              (handleOf r.session ((s.sees m c).genOf r.session)) 0 0 0))])))) ∧
  (∀ (s : State) (m : Fin 64) (c : Cmd) (d : HandoffDst) (i : Nat) (y : Session), s.serves m c 0x0307 →
    Tb.get (s.sees m c).ss.dsts (fld c 8 8) = some d → d.session = some i → Tb.get (s.sees m c).ss.sessions i = some y →
    y.state = .accepting →
    exec (.queryOwner m c) s = .next (s.takes m c [.ownerQuery (fld c 8 8) s.nextCmd, (s.sees m c).ownerAsk (fld c 8 8)])) ∧
  (∀ (s : State) (m : Fin 64) (c : Cmd), s.serves m c 0x0308 →
    exec (.adopt m c) s = .next (s.answers m c (checkAdopt (s.sees m c) (s.given m c))) ∧
    ∀ effs, checkAdopt (s.sees m c) (s.given m c) = .ok effs → exec (.adopt m c) s = .next (s.takes m c effs) ∧
      ∃ i y pay, (s.sees m c).sessOf (fld c 8 8) = some (i, y) ∧
      ((fld c 24 1 = 0 ∧ y.state = .accepting ∧ ∃ d fin, Tb.get (s.sees m c).ss.dsts (fld c 16 8) = some d ∧
          effs = .ownNow (fld c 16 8) :: .spool i 0x11 0 (payAcquire (fld c 16 8) d.src (fieldAt d.offer 16 8) 2) ::
            .spool i 0x15 0 pay :: (fin ++ [Effect.complete s.nextCmd .ok []])) ∨
        (fld c 24 1 = 1 ∧ y.state = .offered ∧ y.handoffId = fld c 16 8 ∧ ∃ fin,
          effs = .revert (fld c 16 8) :: .spool i 0x15 0 pay :: (fin ++ [Effect.complete s.nextCmd .ok []])))) ∧
  ∀ (t : State) (st : Nat),
    (∀ k h, ∃ u, Tb.get (t.applyPlain (.handoffOffer k h) st).ss.srcs k = some { h with was := u }) ∧
    (∀ k h y, Tb.get t.ss.sessions h.session = some y →
      ∃ z, Tb.get (t.applyPlain (.handoffOffer k h) st).ss.sessions h.session = some z ∧ z.state = .offered ∧ z.handoffId = k ∧
        z.peer = h.dst ∧ z.prior = y.state ∧ z.hist = y.hist) ∧
    (∀ k n x, Tb.get (t.applyPlain (.handoffRefuse k n x) st).ss.dsts k = none) ∧
    (∀ k r d, Tb.get t.ss.dsts k = some d → ∀ n, r.read ((((t.modelOf (digestOf (sliceAt r.header 96 48))).map (·.2.arch.headDim))).getD 128)
        (((t.modelOf (digestOf (sliceAt r.header 96 48))).map (·.2.arch.kvHeads)).getD 1) ≠ none →
      ∃ d', Tb.get (t.applyPlain (.handoffAccept k n r) st).ss.dsts k = some d' ∧ d'.session = some r.session ∧
        d'.cmd = r.cmd ∧ d'.offer = d.offer) ∧
    (∀ k n d, Tb.get t.ss.dsts k = some d → Tb.get (t.applyPlain (.ownerQuery k n) st).ss.dsts k =
      some { d with ask := some (n, t.timeUs + 100000) }) ∧
    (∀ k d i y, Tb.get t.ss.dsts k = some d → d.session = some i → Tb.get t.ss.sessions i = some y →
      ∃ z, Tb.get (t.applyPlain (.ownNow k) st).ss.sessions i = some z ∧ z.state = (if y.reqId = 0 then .idle else .busy)) ∧
    ∀ k h, Tb.get t.ss.srcs k = some h → ∃ h', Tb.get (t.applyPlain (.revert k) st).ss.srcs k = some h' ∧ h'.reverted = true

/-- CLAIM starts the delivery of a session's held output to the ring that it names; PURGE starts a sweep of the tree under
its root key (R129, R198). Under the conditions named, on the state and the command alone, each completes: exec answers the state in
which it is accepted, and what its effect does at the coming commit point is stated last. -/
def Obligations.ClaimAndPurge : Prop :=
  (∀ (s : State) (m : Fin 64) (c : Cmd) (i : Nat) (y : Session) (h : HeldOutput), s.serves m c 0x0309 → fld c 16 8 % 64 = 0 →
    ringCountOk (fld c 24 4) = true → fld c 32 8 % 16 = 0 → (s.sees m c).sessOf (fld c 8 8) = some (i, y) →
    (s.sees m c).routeOf y.tenant = some m.val → y.held = some h → h.records.length ≤ fld c 24 4 →
    Tb.has (s.sees m c).ss.claims i = false → (s.sees m c).spoolOpens i y 32 = true →
    exec (.claim m c) s = .next (s.takes m c [.claimStart i s.nextCmd m.val ((s.sees m c).mbx[m]).gen (fld c 16 8) (fld c 24 4) (fld c 32 8)])) ∧
  (∀ (s : State) (m : Fin 64) (c : Cmd) (b : Bytes) (n : Node), s.serves m c 0x030A → fld c 8 1 ≤ 63 →
    fld c 24 8 % 16 = 0 → (s.given m c).flag 0 = true → (s.given m c).rd .port0 (fld c 24 8) 128 = some b →
    zeroAt b 98 30 = true → fieldAt b 96 1 ∈ [16, 32, 64, 128] → fieldAt b 97 1 ≤ 1 →
    Tb.has (s.sees m c).ten.tenants (fld c 8 1) = true → (s.sees m c).routeOf (fld c 8 1) = some m.val →
    (s.sees m c).purgeTop ⟨fld c 8 1, digestOf (b.take 48), digestOf (sliceAt b 48 48), fieldAt b 96 1, fieldAt b 97 1 = 1⟩
      (some (fld c 12 4, fld c 16 4)) = some n →
    (s.sees m c).energyOk (.sweep 0) 1 (some (fld c 8 1)) = true →
    exec (.purge m c) s = .next (s.takes m c
      [.purge ⟨fld c 8 1, digestOf (b.take 48), digestOf (sliceAt b 48 48), fieldAt b 96 1, fieldAt b 97 1 = 1⟩
        (some n.id) s.nextCmd])) ∧
  ∀ (t : State) (st : Nat),
    (∀ i n k g r w x, Tb.get (t.applyPlain (.claimStart i n k g r w x) st).ss.claims i = some ⟨n, k, g, r, w, x, 0⟩) ∧
    ∀ k nd n, ∃ p j, Tb.get (t.applyPlain (.purge k nd n) st).kv.purges p = some j ∧ j.tenant = k.tenant ∧ j.cmd = some n ∧
      (t.applyPlain (.purge k nd n) st).hasUnit (· == .sweep p) = true

/-! ### Host commands of groups 0x04 to 0x06 -/

/-- SUBMIT makes a request with the next free REQ_ID and writes its TURN entry; CANCEL marks a live request at once; RESUME
gives a STALLED request a grammar or none; RETRACT shortens an IDLE session's history (R154, R163, R166, R263).
Under the conditions named, on the state and the command alone, each completes: exec answers the state in which it is accepted,
and what its effect does at the coming commit point is stated last. -/
def Obligations.RequestCommands : Prop :=
  (∀ (s : State) (m : Fin 64) (c : Cmd), s.serves m c 0x0401 →
    exec (.submit m c) s = .next (s.answers m c (checkSubmit (s.sees m c) (s.given m c))) ∧
    ∀ effs, checkSubmit (s.sees m c) (s.given m c) = .ok effs → exec (.submit m c) s = .next (s.takes m c effs) ∧
      ∃ i y q toks turn rest,
      (s.sees m c).sessOf (fld c 8 8) = some (i, y) ∧ y.state = .idle ∧ q.session = i ∧ q.mbox = m.val ∧ q.tag = Cmd.tg c ∧
      q.phase = .text ∧ q.out = [] ∧ q.epoch = (s.sees m c).ten.map.epoch ∧
      effs = .submit ((s.sees m c).freeReqId (s.sees m c).ss.nextReq ((s.sees m c).ss.reqs.length + 1)) q toks ::
        .spool i 0x02 0 turn :: (rest ++ [Effect.complete s.nextCmd .ok
          (toLE 4 ((s.sees m c).freeReqId (s.sees m c).ss.nextReq ((s.sees m c).ss.reqs.length + 1)))])) ∧
  (∀ (s : State) (m : Fin 64) (c : Cmd) (q : Req) (y : Session), s.serves m c 0x0402 →
    Tb.get (s.sees m c).ss.reqs (fld c 8 4) = some q → Tb.get (s.sees m c).ss.sessions q.session = some y →
    (s.sees m c).routeOf y.tenant = some m.val → y.state = .busy →
    exec (.cancel m c) s = .next ((s.takes m c [.complete s.nextCmd .ok []]).markCancel (s.given m c))) ∧
  (∀ (s : State) (m : Fin 64) (c : Cmd) (q : Req) (y : Session), s.serves m c 0x0403 → fld c 12 2 ≤ 1023 →
    Tb.get (s.sees m c).ss.reqs (fld c 8 4) = some q → Tb.get (s.sees m c).ss.sessions q.session = some y →
    (s.sees m c).routeOf y.tenant = some m.val → q.phase = .stalled → y.state = .busy → q.cancel = none →
    (s.sees m c).holdEnded (fld c 8 4) = false →
    ((s.given m c).flag 0 = true → fld c 12 2 = 0 → exec (.resume m c) s = .next (s.takes m c
      [.resume (fld c 8 4) m.val ((s.sees m c).mbx[m]).gen none none, .spool q.session 0x08 0 (digestBytes 0),
       .complete s.nextCmd .ok []])) ∧
    (∀ g mdl, (s.given m c).flag 0 = false → Tb.get (s.sees m c).img.grammars (fld c 12 2) = some g →
      (s.sees m c).modelOf y.model = some mdl → mdl.2.hdr.vocabDigest = g.vocabDigest →
      exec (.resume m c) s = .next (s.takes m c
        [.resume (fld c 8 4) m.val ((s.sees m c).mbx[m]).gen (some (fld c 12 2)) (some g),
         .spool q.session 0x08 0 (digestBytes g.digest), .complete s.nextCmd .ok []]))) ∧
  (∀ (s : State) (m : Fin 64) (c : Cmd) (i : Nat) (y : Session), s.serves m c 0x0404 → fld c 16 4 ≠ 0 →
    (s.sees m c).sessOf (fld c 8 8) = some (i, y) → (s.sees m c).routeOf y.tenant = some m.val → y.state = .idle →
    fld c 16 4 ≤ y.hist.length → (s.sees m c).spoolOpens i y 32 = true →
    exec (.retract m c) s = .next (s.takes m c (.retract i (y.hist.length - fld c 16 4) ::
      .spool i 0x0B 0 (toLE 4 (fld c 16 4) ++ toLE 4 (y.hist.length - fld c 16 4)) ::
      (if y.hist.length - fld c 16 4 < y.kvlen && (s.sees m c).reachesDropped y (y.hist.length - fld c 16 4)
        then [.spool i 0x0D 0 (toLE 4 (y.hist.length - fld c 16 4)), .complete s.nextCmd .ok []]
        else [.complete s.nextCmd .ok []])))) ∧
  ∀ (t : State) (st : Nat),
    (∀ k q toks y, Tb.get t.ss.sessions q.session = some y →
      ∃ z, Tb.get (t.applyPlain (.submit k q toks) st).ss.sessions q.session = some z ∧ z.state = .busy ∧ z.reqId = k ∧
        z.epoch = q.epoch) ∧
    (∀ k q mb gen gid g, Tb.get t.ss.reqs k = some q →
      ∃ p, Tb.get (t.applyPlain (.resume k mb gen gid g) st).ss.reqs k = some p ∧ p.phase = .decode ∧ p.firstStep = true ∧
        p.grammarId = gid ∧ p.grammar = g ∧ p.gstate = g.map (·.start) ∧ p.mbox = mb ∧ p.stallUntilUs = none) ∧
    (∀ i n y, Tb.get t.ss.sessions i = some y →
      ∃ z, Tb.get (t.applyPlain (.retract i n) st).ss.sessions i = some z ∧ z.hist = y.hist.take n) ∧
    ∀ (x : Ctx) q, Tb.get t.ss.reqs (x.f 8 4) = some q →
      Tb.get (t.markCancel x).ss.reqs (x.f 8 4) = some (q.marked t.tk.tick (x.flag 0))

/-- STORE_CREATE makes an empty store at sequence 0 or, with DESTROY, destroys one; INSERT and DELETE append their items to
the side lists and answer the first item's sequence; QUERY starts a query against the committed state; COMPACT starts a build
(R221, R225 to R228, R231). Under the conditions named, on the state and the command alone, each completes: exec answers the state in which it is accepted,
and what its effect does at the coming commit point is stated last. -/
def Obligations.StoreCommands : Prop :=
  (∀ (s : State) (m : Fin 64) (c : Cmd), s.serves m c 0x0501 →
    ((s.given m c).flag 0 = false →
      exec (.storeCreate m c) s = .next (s.answers m c (checkStoreCreate (s.sees m c) (s.given m c))) ∧
      ∀ effs, checkStoreCreate (s.sees m c) (s.given m c) = .ok effs → exec (.storeCreate m c) s = .next (s.takes m c effs) ∧
      ∃ st : Store,
        st.tenant = fld c 9 1 ∧ st.d = fld c 12 2 ∧ st.m = fld c 14 2 ∧ st.metric = fld c 10 1 ∧ st.seq = 0 ∧ st.side = [] ∧
        st.degraded = false ∧ effs = [.storeCreate (fld c 8 1) st, .complete s.nextCmd .ok []]) ∧
    (∀ st, (s.given m c).flag 0 = true → ((List.range 55).all fun i => fld c (9 + i) 1 = 0) = true →
      Tb.get (s.sees m c).st.stores (fld c 8 1) = some st → (s.sees m c).routeOf st.tenant = some m.val → st.compact = none →
      ((s.sees m c).st.queries.any fun q => q.2.store = fld c 8 1) = false →
      exec (.storeCreate m c) s = .next (s.takes m c [.storeDestroy (fld c 8 1), .complete s.nextCmd .ok []]))) ∧
  (∀ (s : State) (m : Fin 64) (c : Cmd), s.serves m c 0x0502 →
    exec (.insert m c) s = .next (s.answers m c (checkInsert (s.sees m c) (s.given m c))) ∧
    ∀ effs, checkInsert (s.sees m c) (s.given m c) = .ok effs → exec (.insert m c) s = .next (s.takes m c effs) ∧
      ∃ st es, Tb.get (s.sees m c).st.stores (fld c 8 1) = some st ∧ st.degraded = false ∧ (∀ e ∈ es, e.2.1 = false) ∧
        effs = [.storeAppend (fld c 8 1) es, .complete s.nextCmd .ok (toLE 8 (st.seq + 1))]) ∧
  (∀ (s : State) (m : Fin 64) (c : Cmd), s.serves m c 0x0503 →
    exec (.delete m c) s = .next (s.answers m c (checkDelete (s.sees m c) (s.given m c))) ∧
    ∀ effs, checkDelete (s.sees m c) (s.given m c) = .ok effs → exec (.delete m c) s = .next (s.takes m c effs) ∧
      ∃ st es, Tb.get (s.sees m c).st.stores (fld c 8 1) = some st ∧ st.degraded = false ∧ (∀ e ∈ es, e.2.1 = true) ∧
        effs = [.storeAppend (fld c 8 1) es, .complete s.nextCmd .ok (toLE 8 (st.seq + 1))]) ∧
  (∀ (s : State) (m : Fin 64) (c : Cmd), s.serves m c 0x0504 →
    exec (.storeQuery m c) s = .next (s.answers m c (checkStoreQuery (s.sees m c) (s.given m c))) ∧
    ∀ effs, checkStoreQuery (s.sees m c) (s.given m c) = .ok effs → exec (.storeQuery m c) s = .next (s.takes m c effs) ∧
      ∃ st q, Tb.get (s.sees m c).st.stores (fld c 8 1) = some st ∧ st.degraded = false ∧
        effs = [.queryStart (s.given m c).num q] ∧ q.store = fld c 8 1 ∧ q.snap = st.seq ∧ q.k = fld c 12 4 ∧
        q.resAddr = fld c 32 8 ∧ q.cmd = (s.given m c).cmd ∧
        q.deadlineUs = (s.sees m c).tk.startUs + (s.sees m c).tickUs + 1000 * fld c 48 4) ∧
  (∀ (s : State) (m : Fin 64) (c : Cmd) (st : Store), s.serves m c 0x0505 →
    Tb.get (s.sees m c).st.stores (fld c 8 1) = some st → (s.sees m c).routeOf st.tenant = some m.val → st.degraded = false →
    st.compact = none → (∀ r ∈ maskRanks st.shards, (st.itemsAt r (st.liveItems st.seq)).length ≤ 4294967295) →
    ((s.sees m c).storeFits st.tenant st.shards fun r =>
      ({ st with compact := some (st.seq, none, []) } : Store).charge r 0 - st.charge r 0) = true →
    (s.sees m c).energyOk (.compact 0) 1 (some st.tenant) = true →
    exec (.compact m c) s = .next (s.takes m c [.compactStart (fld c 8 1) s.nextCmd])) ∧
  ∀ (t : State) (n : Nat),
    (∀ k x, Tb.get (t.applyPlain (.storeCreate k x) n).st.stores k = some x) ∧
    (∀ k, Tb.get (t.applyPlain (.storeDestroy k) n).st.stores k = none) ∧
    (∀ k es x, Tb.get t.st.stores k = some x → ∃ y, Tb.get (t.applyPlain (.storeAppend k es) n).st.stores k = some y ∧
      y.seq = x.seq + es.length ∧ y.side.length = x.side.length + es.length ∧ ∀ e ∈ x.side, e ∈ y.side) ∧
    (∀ k q x, Tb.get t.st.stores q.store = some x → q.origin = none →
      ∃ p, Tb.get (t.applyPlain (.queryStart k q) n).st.queries k = some p ∧ p.snap = x.seq ∧ p.vec = q.vec ∧ p.k = q.k ∧
        p.deadlineUs = q.deadlineUs) ∧
    ∀ k d x, Tb.get t.st.stores k = some x →
      ∃ y, Tb.get (t.applyPlain (.compactStart k d) n).st.stores k = some y ∧ y.compact = some (x.seq, some d, [])

/-- CHECKPOINT starts a checkpoint, in a group with an order to every other member; RESTORE starts a restore or rebuilds one
session; VERIFY_REEL answers the reel's step or the status of the check that fails (R331, R332, R333, R336, R340).
Under the conditions named, on the state and the command alone, each completes: exec answers the state in which it is accepted,
and what its effect does at the coming commit point is stated last. -/
def Obligations.CheckpointCommands : Prop :=
  (∀ (s : State) (m : Fin 64) (c : Cmd) (p : ParkStore), s.serves m c 0x0601 → fld c 32 8 % 16 = 0 →
    reelLenOf (Nat.max (s.sees m c).grp.n 1) 0 ≤ fld c 40 8 → Tb.get (s.sees m c).ten.map.stores (fld c 8 1) = some p →
    fld c 16 8 % 65536 = 0 → fld c 24 8 % 65536 = 0 → fld c 24 8 ≠ 0 →
    fld c 16 8 + Nat.max (s.sees m c).grp.n 1 * fld c 24 8 ≤ p.len → (s.sees m c).chkpt = none → (s.sees m c).restoring = false →
    (s.sees m c).grp.moves = [] → (s.sees m c).grp.shrink = none → (s.sees m c).energyOk (.chkptTile 0) 65536 none = true →
    exec (.checkpoint m c) s = .next (s.takes m c
      (.checkpointStart s.nextCmd (fld c 8 1) (fld c 16 8) (fld c 24 8) (fld c 32 8) (fld c 40 8) ::
        (if (s.sees m c).grp.n ≤ 1 then [] else
          ((List.range (s.sees m c).grp.n).filter (· ≠ (s.sees m c).glb.rank)).map fun r =>
            .send (.rank r) (.forward c (toLE 1 m.val)))))) ∧
  (∀ (s : State) (m : Fin 64) (c : Cmd), s.serves m c 0x0602 →
    exec (.restore m c) s = .next (s.answers m c (checkRestore (s.sees m c) (s.given m c))) ∧
    ∀ effs, checkRestore (s.sees m c) (s.given m c) = .ok effs → exec (.restore m c) s = .next (s.takes m c effs) ∧
      if (s.given m c).flag 0 then ∃ y r, effs = [.oneShard s.nextCmd (fld c 32 8 % 2 ^ 24) (fld c 32 8 / 2 ^ 24) y r]
      else (s.sees m c).ss.sessions = [] ∧ ∃ r fin,
        effs = .restoreStart s.nextCmd r ((s.given m c).acceptor (s.sees m c)) :: fin) ∧
  (∀ (s : State) (m : Fin 64) (c : Cmd) (b : Bytes), s.serves m c 0x0603 → fld c 16 8 % 16 = 0 →
    (s.given m c).rd .port0 (fld c 16 8) (fld c 24 8) = some b →
    exec (.verifyReel m c) s = .next (match reelChecks (fld c 24 8) b with
      | .ok _ => s.takes m c [.complete s.nextCmd .ok (toLE 8 (fieldAt b 8 8))]
      | .error st => s.rejects m c st [])) ∧
  ∀ (t : State) (n : Nat),
    (∀ d sto o l ra rl, ∃ k, (t.applyPlain (.checkpointStart d sto o l ra rl) n).chkpt = some k ∧ k.cmd = some d ∧ k.store = sto ∧
      k.offset = o ∧ k.limit = l ∧ k.reelAddr = ra ∧ k.reelLen = rl ∧
      k.step = if t.grp.n ≤ 1 then t.tk.tick else t.tk.tick + 2) ∧
    (∀ d reel a, ∃ k, (t.applyPlain (.restoreStart d reel a) n).restore = some k ∧ k.reel = reel ∧ k.accepting = a ∧
      k.cmd = if d = noCmd then none else some d) ∧
    ∀ d i g y rb, ∃ r, Tb.get (t.applyPlain (.oneShard d i g y rb) n).ss.rebuilds i = some r ∧ r.target = rb.target ∧ r.cmd = some d

/-! ### Host commands of groups 0x07 to 0x0F -/

/-- TENANT_CREATE grants or creates a tenant, ATTEST reports and keeps a release key, KEY_ROTATE starts a rotation, the drop of a
kept key or an erasure (R204, R259, R311, R317, R319, R320, R323). Under the conditions named, on the state and the command alone, each completes: exec answers the state in which it is accepted,
and what its effect does at the coming commit point is stated last. -/
def Obligations.TenantAndKeyCommands : Prop :=
  (∀ (s : State) (m : Fin 64) (c : Cmd) (q : Bytes), s.serves m c 0x0701 → fld c 8 1 ≤ 63 →
    Tb.has (s.sees m c).ten.tenants (fld c 8 1) = false → ((s.sees m c).coming.any fun e => e.1 = fld c 8 1) = false →
    ((s.sees m c).ten.tenants.map (·.2.stackMib)).sum + ((s.sees m c).coming.map (·.2.stackMib)).sum + fieldAt q 0 4 ≤ 503808 →
    (m = 0 → q = toLE 32 (fld c 16 32) → quotaOk q = true →
      ((s.given m c).flag 0 = true → 1 ≤ fld c 9 1 → fld c 9 1 ≤ 63 → exec (.tenantCreate m c) s = .next (s.takes m c
        [.grant (fld c 9 1) ⟨fld c 8 1, q, (s.given m c).flag 1⟩, .complete s.nextCmd .ok []])) ∧
      ((s.given m c).flag 0 = false → fld c 9 1 = 0 → exec (.tenantCreate m c) s = .next (s.takes m c
        [.vaultStart ⟨.create (fld c 8 1) (newTenant q ((s.given m c).flag 1) 0), (s.given m c).cmd, false⟩]))) ∧
    (∀ g, m ≠ 0 → Tb.get (s.sees m c).ten.grants m.val = some g → g.quota = q → (s.given m c).flag 0 = false → fld c 9 1 = 0 →
      fld c 16 32 = 0 → exec (.tenantCreate m c) s = .next (s.takes m c
        [.vaultStart ⟨.create (fld c 8 1) (newTenant q ((s.given m c).flag 1 || g.isProtected) m.val), (s.given m c).cmd,
          false⟩]))) ∧
  (∀ (s : State) (m : Fin 64) (c : Cmd) (h : Bytes), s.serves m c 0x0702 → fld c 8 8 % 16 = 0 →
    (s.given m c).rd .port0 (fld c 8 8) 64 = some h → 1632 ≤ fld c 48 4 → fieldAt h 0 4 = 0x51525441 → zeroAt h 5 3 = true →
    zeroAt h 16 48 = true →
    ∃ rid priv, rid < 2 ^ 64 ∧
      (fieldAt h 4 1 = 0 → fieldAt h 8 8 = 0 → exec (.attest m c) s = .next (s.takes m c
        [.attest .port0 (fld c 8 8) 0 (toLE 32 (fld c 16 32)) rid priv [] s.nextCmd,
         .releaseKey ⟨rid, priv, (s.sees m c).tk.startUs + (s.sees m c).tickUs + 600000000⟩,
         .complete s.nextCmd .ok (toLE 4 1632)])) ∧
      (∀ i y, fieldAt h 4 1 = 1 → (s.sees m c).sessOf (fieldAt h 8 8) = some (i, y) →
        (s.sees m c).routeOf y.tenant = some m.val → exec (.attest m c) s = .next (s.takes m c
          [.attest .port0 (fld c 8 8) 1 (toLE 32 (fld c 16 32)) rid priv ((s.sees m c).subjectOf i y) s.nextCmd,
           .releaseKey ⟨rid, priv, (s.sees m c).tk.startUs + (s.sees m c).tickUs + 600000000⟩,
           .complete s.nextCmd .ok (toLE 4 1632)]))) ∧
  (∀ (s : State) (m : Fin 64) (c : Cmd) (i : Nat), s.serves m c 0x0703 → fld c 8 1 ≤ 63 →
    Tb.has (s.sees m c).ten.tenants (fld c 8 1) = true → (s.sees m c).routeOf (fld c 8 1) = some m.val →
    (fld c 9 1 = 2 → exec (.keyRotate m c) s = .next (s.takes m c
      [.vaultStart ⟨.dropKept (fld c 8 1), (s.given m c).cmd, false⟩])) ∧
    (fld c 9 1 ≤ 1 → (s.sees m c).tenantGen (fld c 8 1) < 0xFFFFFFFF →
      (s.sees m c).energyOk (.reencrypt (fld c 8 1) 0) 1 (some (fld c 8 1)) = true → (s.sees m c).slotRoom = true →
      (s.sees m c).freeSlot = some i → exec (.keyRotate m c) s = .next (s.takes m c
        [.vaultStart ⟨.rotate (fld c 8 1) i (fld c 9 1 = 1), (s.given m c).cmd, false⟩])) ∧
    (fld c 9 1 = 3 → ((s.sees m c).ss.sessions.any fun e => e.2.tenant = fld c 8 1) = false →
      ((s.sees m c).kv.pages.any fun e => e.2.tenant = fld c 8 1) = false →
      ((s.sees m c).st.stores.any fun e => e.2.tenant = fld c 8 1) = false → (s.sees m c).slotRoom = true →
      (s.sees m c).freeSlot = some i → exec (.keyRotate m c) s = .next (s.takes m c
        [.vaultStart ⟨.erase (fld c 8 1) i, (s.given m c).cmd, false⟩]))) ∧
  ∀ (t : State) (n : Nat),
    (∀ k g, Tb.get (t.applyPlain (.grant k g) n).ten.grants k = some g) ∧
    (∀ j, (t.applyPlain (.vaultStart j) n).sec.vaultJobs = t.sec.vaultJobs ++ [j]) ∧
    (∀ r d u a, ∃ z, Tb.get (t.applyPlain (.vaultStart ⟨.rotate r d u, a, false⟩) n).sec.slots d = some z ∧ z.kind = .coming ∧
      z.tenant = r ∧ z.gen = t.tenantGen r + 1) ∧
    (∀ k, (t.applyPlain (.releaseKey k) n).sec.releases = keepReleases (t.sec.releases ++ [k])) ∧
    ∀ sp a k nc rid pv sj d, (t.applyPlain (.attest sp a k nc rid pv sj d) n) =
      (t.report k rid n nc sj (if pv = 0 then [] else Ecc.pubBytes pv)).2.writeHost sp a
        (t.report k rid n nc sj (if pv = 0 then [] else Ecc.pubBytes pv)).1

/-- SCHED_LOAD stages a table that passes its checks, GATE_LIST_LOAD a gate list; SHAPER_SET sets a tenant's or a link's shaper,
ENERGY_SET the board's limit (R33, R34, R282 to R285, R361). Under the conditions named, on the state and the command alone, each completes: exec answers the state in which it is accepted,
and what its effect does at the coming commit point is stated last. -/
def Obligations.ScheduleCommands : Prop :=
  (∀ (s : State) (m : Fin 64) (c : Cmd) (b : Bytes), s.serves m c 0x0801 → fld c 16 8 % 16 = 0 →
    (s.sees m c).tk.staged = none → fld c 24 8 = 32832 → (s.given m c).rd .port0 (fld c 16 8) 32832 = some b →
    exec (.schedLoad m c) s = .next (match schedChecks (s.sees m c).tk.tick (fun us => (s.sees m c).lowerW * us) b with
      | .ok t => s.takes m c [.schedStage t (Sha.sha384 b), .complete s.nextCmd .ok []]
      | .error st => s.rejects m c st [])) ∧
  (∀ (s : State) (m : Fin 64) (c : Cmd), s.serves m c 0x0801 → fld c 16 8 % 16 = 0 → (s.sees m c).tk.staged ≠ none →
    exec (.schedLoad m c) s = .next (s.rejects m c .eBusy [])) ∧
  (∀ (s : State) (m : Fin 64) (c : Cmd) (b : Bytes), s.serves m c 0x0802 → fld c 8 1 ≤ 19 → fld c 16 8 % 16 = 0 →
    (s.given m c).rd .port0 (fld c 16 8) (Nat.min (fld c 24 8) 288) = some b → fld c 24 8 = 32 + 8 * fieldAt b 6 2 →
    gateFields b = true → (s.sees m c).tk.tick + 16 ≤ (gateListOf b).takeover →
    (gateListOf b).takeover ≤ (s.sees m c).tk.tick + 2 ^ 32 →
    ((s.sees m c).ports[Fin.ofNat 20 (fld c 8 1)]).stagedGates = none →
    exec (.gateListLoad m c) s = .next (s.takes m c
      [.gateStage (fld c 8 1) (gateListOf b), .complete s.nextCmd .ok []])) ∧
  (∀ (s : State) (m : Fin 64) (c : Cmd), s.serves m c 0x0803 → 1 ≤ fld c 12 4 → 1 ≤ fld c 16 4 →
    (fld c 8 1 = 0 → fld c 10 1 = 0 → fld c 9 1 ≤ 63 → fld c 12 4 ≤ 2147483647 → fld c 16 4 ≤ 2147483647 →
      Tb.has (s.sees m c).ten.tenants (fld c 9 1) = true →
      exec (.shaperSet m c) s = .next (s.takes m c
        [.tenantShaper (fld c 9 1) (fld c 12 4) (fld c 16 4) ((s.given m c).flag 0), .complete s.nextCmd .ok []])) ∧
    (fld c 8 1 = 1 → fld c 10 1 ≤ 6 → fld c 9 1 ≤ 19 → fld c 12 4 ≤ 200000 → fld c 16 4 ≤ 4096 →
      (s.given m c).flag 0 = false →
      exec (.shaperSet m c) s = .next (s.takes m c
        [.linkShaper (fld c 9 1) (fld c 10 1) (fld c 12 4) (fld c 16 4), .complete s.nextCmd .ok []]))) ∧
  (∀ (s : State) (m : Fin 64) (c : Cmd), s.serves m c 0x0804 → 1 ≤ fld c 8 4 → fld c 8 4 ≤ 2400 →
    exec (.energySet m c) s = .next (s.takes m c [.energySet (fld c 8 4), .complete s.nextCmd .ok []])) ∧
  ∀ (t : State) (n : Nat),
    (∀ x d, (t.applyPlain (.schedStage x d) n).tk.staged = some ⟨x, d, none⟩) ∧
    (∀ (p : Fin 20) g, ((t.applyPlain (.gateStage p.val g) n).ports[p]).stagedGates = some g) ∧
    (∀ k r b full x, Tb.get t.ten.tenants k = some x → Tb.get (t.applyPlain (.tenantShaper k r b full) n).ten.tenants k =
      some { x with rate := r, burst := b, bucket := if full then (b : Int) * 1000000 else 0 }) ∧
    (∀ (p : Fin 20) tc r b, ((t.applyPlain (.linkShaper p.val tc r b) n).ports[p]).shapers = (t.ports[p]).shapers.modify tc
      (fun x => { x with rate := r, burst := b, bucket := Nat.min x.bucket (b * 256) })) ∧
    ∀ w, (t.applyPlain (.energySet w) n).pwr.pendingW = w ∧ (t.applyPlain (.energySet w) n).pwr.pendingTick = t.tk.tick + 1

/-- TRACE_CFG configures the trace, TRACE_TRIGGER triggers it, HANG_DUMP copies the staged dump and declares a hang first where
none is staged, COUNTERS_READ copies a counter group (R347, R351, R353, R356, R358). Under the conditions named, on the state and the command alone, each completes: exec answers the state in which it is accepted,
and what its effect does at the coming commit point is stated last. -/
def Obligations.TraceCommands : Prop :=
  (∀ (s : State) (m : Fin 64) (c : Cmd) (b : Bytes), s.serves m c 0x0901 → fld c 16 8 % 16 = 0 → fld c 24 8 = 64 →
    (s.given m c).rd .port0 (fld c 16 8) 64 = some b → traceCfgOk b = true →
    exec (.traceCfg m c) s = .next (s.takes m c [.traceCfg b, .complete s.nextCmd .ok []])) ∧
  (∀ (s : State) (m : Fin 64) (c : Cmd), s.serves m c 0x0902 →
    exec (.traceTrigger m c) s = .next (s.takes m c [.traceTrigger (fld c 8 4), .complete s.nextCmd .ok []])) ∧
  (∀ (s : State) (m : Fin 64) (c : Cmd), s.serves m c 0x0903 → fld c 16 8 % 16 = 0 → (s.sees m c).dbg.dumpCmd = none →
    ∃ t, t = s.takes m c [.hangDump .port0 (fld c 16 8) (fld c 24 8) s.nextCmd] ∧
      exec (.hangDump m c) s = .next (if t.dbg.staged.isSome then t else t.declareHang 2 0)) ∧
  (∀ (s : State) (m : Fin 64) (c : Cmd) (n : Nat), s.serves m c 0x0904 → fld c 16 8 % 16 = 0 →
    (s.sees m c).groupLen (fld c 8 2) = some n → n ≤ fld c 24 8 →
    exec (.countersRead m c) s = .next (s.takes m c
      [.countersRead (fld c 8 2) .port0 (fld c 16 8), .complete s.nextCmd .ok (toLE 4 n)])) ∧
  ∀ (t : State) (n : Nat),
    (∀ b, (t.applyPlain (.traceCfg b) n).dbg.cfg = b ∧ (t.applyPlain (.traceCfg b) n).sec.sticky = t.sec.sticky ||| 1) ∧
    (∀ x, t.dbg.capture = 1 → (t.applyPlain (.traceTrigger x) n).dbg.capture ≠ 1) ∧
    (∀ sp a l d, (t.applyPlain (.hangDump sp a l d) n).dbg.dumpCmd = some (d, t.timeUs + 10000000, a)) ∧
    ∀ g sp a, t.applyPlain (.countersRead g sp a) n = t.writeHost sp a (t.groupBlock g n)

/-- GROUP_JOIN starts a join, GROUP_SHRINK the removal of a member, ROUTE_MAP_SET accepts the next epoch's map, SHUTDOWN stops
the device, BIST_RESULTS copies the record (R194, R290, R300, R374, R378). -/
def Obligations.GroupAndShutdownCommands : Prop :=
  (∀ (s : State) (m : Fin 64) (c : Cmd) (d : Bytes), s.serves m c 0x0A01 → fld c 16 8 % 16 = 0 →
    (s.given m c).rd .port0 (fld c 16 8) (Nat.min (fld c 24 8) 4160) = some d → fld c 24 8 = 64 + 64 * descN d →
    descFields d = true → (descOwn d).isSome = true → (s.sees m c).joinState d = true →
    ((s.sees m c).joinPorts d fun p id => p.peerId = id) = true →
    ((s.sees m c).joinPorts d fun p _ => 0x22 ≤ p.version) = true → (s.sees m c).grp.join = none →
    (s.sees m c).joinStaged = false →
    exec (.groupJoin m c) s = .next (s.takes m c [.joinStart d s.nextCmd])) ∧
  (∀ (s : State) (m : Fin 64) (c : Cmd), s.serves m c 0x0A02 → (s.sees m c).glb.inGroup = true → 1 < (s.sees m c).grp.n →
    fld c 8 1 < (s.sees m c).grp.n → (s.sees m c).grp.shrink = none → (s.sees m c).grp.shrinkCmd = none →
    exec (.groupShrink m c) s = .next (s.takes m c [.shrinkStart (fld c 8 1) s.nextCmd])) ∧
  (∀ (s : State) (m : Fin 64) (c : Cmd) (b : Bytes), s.serves m c 0x0A03 → fld c 16 8 % 16 = 0 → fld c 24 8 = 6208 →
    (s.given m c).rd .port0 (fld c 16 8) 6208 = some b → routeMapFields b = true →
    (routeMapOf b).epoch = (s.sees m c).ten.map.epoch + 1 → (s.sees m c).ten.next = none → (s.sees m c).draining = false →
    (∀ e ∈ (s.sees m c).img.exchanges, ∀ op c' b', e.2.what = .forward op c' b' → op ≠ Cmd.op c) →
    exec (.routeMapSet m c) s = .next (s.takes m c
      [.routeMap (routeMapOf b), .complete s.nextCmd .ok (toLE 4 (routeMapOf b).epoch)])) ∧
  (∀ (s : State) (m : Fin 64) (c : Cmd), s.serves m c 0x0F01 → (s.sees m c).glb.inGroup = false →
    (s.sees m c).ss.reqs = [] →
    exec (.shutdown m c) s = .next (s.takes m c [.complete s.nextCmd .ok [], .shutdown ((s.given m c).flag 0) s.nextCmd])) ∧
  ∀ (s : State) (m : Fin 64) (c : Cmd), s.serves m c 0x0F02 → fld c 16 8 % 16 = 0 →
    (s.sees m c).bistBytes.length ≤ fld c 24 8 →
    exec (.bistResults m c) s = .next (s.takes m c
      [.hostWrite .port0 (fld c 16 8) (s.sees m c).bistBytes,
       .complete s.nextCmd .ok (toLE 4 (s.sees m c).bistBytes.length)])

/-! ### Direct host mode -/

/-- A work entry that is served runs: CREATE makes a session, INPUT appends tokens, STEP asks for one decode, FLYER moves tiles, once
the pages that it needs are present, and fails where its page request fails, with a trace record where its key is not held; DESTROY
destroys a session; each completes or fails through its tag (R217, R219, R268, R314). That what comes after a FLYER entry waits with it is the model's choice (log entry 91). -/
def Obligations.DciEntries : Prop :=
  (∀ (s : State) (e : Cmd) (b : Bytes) (r : Nat × List Effect), s.dciServes e 1 → s.dci.cause ≠ 1 → fld e 16 8 % 16 = 0 →
    (s.dciFetched).dciRead (fld e 16 8) 64 = .ok b → zeroAt b 48 16 = true →
    fld e 24 1 ≤ 63 → Tb.has s.ten.tenants (fld e 24 1) = true →
    (s.dciFetched).view.createSession (fld e 24 1) (fld e 25 1) (digestOf (b.take 48))
      ((Config.freeValue s.freeCtr).truncate 128) = .ok r →
    exec (.dciCreate e) s = .next (s.dciTakes (r.2 ++ [.dciComplete (dciTag e) 1 .ok (toLE 8 r.1)]) none)) ∧
  (∀ (s : State) (e : Cmd) (b : Bytes) (i : Nat) (y : Session) (m : Model), s.dciServes e 2 → s.dci.cause ≠ 1 →
    1 ≤ fld e 24 4 → fld e 24 4 ≤ 1048576 → fld e 16 8 % 16 = 0 →
    (s.dciFetched).dciRead (fld e 16 8) (4 * fld e 24 4) = .ok b → (s.dciFetched).dciSession e = .ok (i, y, m) →
    (∀ t ∈ words4 (fld e 24 4) b, t < m.arch.vocab) → y.hist.length + fld e 24 4 ≤ m.arch.maxPos →
    (s.dciFetched).dciFits i y m (fld e 24 4) = .ok () →
    exec (.dciInput e) s = .next (s.dciTakes (.dciInput (dciTag e) i (words4 (fld e 24 4) b) ::
      .spool i 0x02 0 (payTurn 0 s.ten.map.epoch 0 0 ⟨0, none, none, none⟩ 0 0 []) ::
      (inputEntries y.hist.length (words4 (fld e 24 4) b)).map fun p => .spool i 0x03 0 p)
      (some (dciHandle e % 2 ^ 24)))) ∧
  (∀ (s : State) (e : Cmd) (i : Nat) (y : Session) (m : Model), s.dciServes e 3 → s.dci.cause ≠ 1 →
    (dciParams e).inRange = true → (s.dciFetched).dciSession e = .ok (i, y, m) → y.hist.length ≠ 0 →
    y.hist.length < m.arch.maxPos → (s.dciFetched).dciFits i y m 1 = .ok () →
    exec (.dciStep e) s = .next (s.dciTakes [.dciStep (dciTag e) i (dciParams e)] (some (dciHandle e % 2 ^ 24)))) ∧
  (∀ (s : State) (e : Cmd) (st : Status), (s.waitOver 64).dciServes e 4 → s.flyerBusy e = false → s.waitFailed 64 = some st →
    exec (.dciFlyer e) s = .next ((s.waitOver 64).dciTakes [.dciComplete (dciTag e) 4 st []] none)) ∧
  (∀ (s : State) (e : Cmd) (g : HostSpace × Nat), s.canFetchDci = true → s.flyerBusy e = false → s.waitFailed 64 = none →
    s.flyerPage e = some g → exec (.dciFlyer e) s = .next (s.waitOn 64 g.1 g.2)) ∧
  (∀ (s : State) (e : Cmd) (d : Bytes), s.dciServes e 4 → s.flyerBusy e = false → s.waitFailed 64 = none →
    s.flyerPage e = none → fld e 16 8 % 16 = 0 → (s.dciFetched).dciRead (fld e 16 8) 80 = .ok d →
    exec (.dciFlyer e) s = .next (match ((s.noteFlyerMiss e).dciFetched).flyer d with
      | .ok effs => (s.noteFlyerMiss e).dciTakes (effs ++ [.dciComplete (dciTag e) 4 .ok []]) none
      | .error f => (s.noteFlyerMiss e).dciTakes [.dciComplete (dciTag e) 4 f.1 []] none) ∧
    ∃ g, s.noteFlyerMiss e = { s with dbg := g }) ∧
  ∀ (s : State) (e : Cmd) (i : Nat) (y : Session), s.dciServes e 5 → s.dci.cause ≠ 1 →
    (s.dciFetched).view.sessOf (dciHandle e) = some (i, y) → (y.state = .idle ∨ y.state = .parked ∨ y.state = .gone) →
    exec (.dciDestroy e) s = .next (s.dciTakes [.sessDestroy i, .dciComplete (dciTag e) 5 .ok []]
      (some (dciHandle e % 2 ^ 24)))

/-- DCI_REQ asks for direct host mode with cause 0; 100 ms without a commit window that Steward opens ask for it with cause 2, and sooner a
fatal trap of a Steward core does, which is a free value (model choice, log entry 132); clearing it ends the mode, discards queued
work, lowers READY and restarts Steward, and tenants, images, stores and route maps persist; when Steward is back every channel is
idle, or the mode is entered again with cause 1 where the firmware does not verify (R264, R265, R266). -/
def Obligations.DirectHostMode : Prop :=
  (∀ s : State, s.glb.mode = .nci → exec .dciReqSet s = .next { s with
    glb.dciReq := true, dci.entering := some (s.dci.entering.getD 0) }) ∧
  (∀ s : State, s.glb.mode = .direct → exec .dciReqSet s = .next { s with glb.dciReq := true }) ∧
  (∀ s : State, s.glb.mode = .direct → ∃ t, exec .dciReqClear s = .next t ∧
    t = { s with glb := t.glb, dci := t.dci, ss := t.ss, work := t.work, ats.waits := Tb.del s.ats.waits 64 } ∧ t.dci.active = false ∧ t.dci.wqHead = t.dci.wqTail ∧
    t.glb = { s.glb with mode := .nci, ready := false, restarting := true, dciReq := false }) ∧
  (∀ s : State, s.glb.mode ≠ .direct → exec .dciReqClear s = .next { s with
    glb.dciReq := false, dci.entering := if s.dci.entering = some 0 then none else s.dci.entering }) ∧
  (∀ s : State, s.glb.restarting = true → s.glb.signatureOk = true → exec .stewardRestart s = .next { s with
    glb.restarting := false, glb.ready := true, glb.stewardUs := s.timeUs, mbx := s.mbx.map fun b => { b with chan := .idle, nci := 0 } }) ∧
  (∀ s : State, s.glb.restarting = true → s.glb.signatureOk = false → exec .stewardRestart s = .next { s with
    glb.restarting := false, glb.mode := .direct, dci.active := true, dci.cause := 1, sec.sticky := s.sec.sticky ||| 8#5 }) ∧
  ∀ s : State, (s.serving = false → exec .stewardWatchdog s = .next s) ∧
    (s.serving = true → s.pointReached (s.glb.stewardUs + 100000) = true →
      exec .stewardWatchdog s = .next { s with dci.entering := some 2 }) ∧
    (s.serving = true → s.pointReached (s.glb.stewardUs + 100000) = false → exec .stewardWatchdog s = .next { s with
      freeCtr := s.freeCtr + 1
      dci.entering := if (Config.freeValue s.freeCtr).getLsbD 0 then some 2 else s.dci.entering })

/-! ### Registers -/

/-- ENABLE starts a mailbox afresh where its configuration can be served and raises CFG_ERR where it cannot; ENABLE 0 stops it and
ends its debts; a tail at or above the ring's size is SQ_ERR; while the mailbox is served a CQ head moves only up to the tail; WDOG_EN
times a new period (R8, R241, R243, R244, R246). DCI_CTRL stores its sizes and starts the work queue at 0 or ends it; a WQ tail at or
above the ring's size is WQ_ERR; while ENABLE is 1 a CQ head moves only up to the tail (R8, R267). -/
def Obligations.QueueRegisters : Prop :=
  ((∀ (s : State) (m : Fin 64), s.mmio = true → (s.mbx[m]).enabled = false →
    ((s.mbx[m]).configOk = true → exec (.mbxEnable m) s = .next (s.updMbx m fun b =>
      { b with enable := true, enabled := true, stopped := false, chan := .idle, nci := 0, sqTail := 0, cqHead := 0, sqHead := 0
               cqTail := 0, shSqHead := 0, shCqTail := 0, debts := 0, shadowDue := true, wdogFrom := none, wdogFired := false, delayed := [] })) ∧
    ((s.mbx[m]).configOk = false → exec (.mbxEnable m) s = .next (s.updMbx m fun b =>
      { b with enable := true, cfgErr := true, irq1 := if b.cfgErr then b.irq1 else b.irq1 + 1 }))) ∧
  (∀ (s : State) (m : Fin 64), s.mmio = true → (s.mbx[m]).enable = true → s.glb.inGroup = false →
    ∃ t, exec (.mbxDisable m) s = .next t ∧
    t = { s with mbx := t.mbx, ss.reqs := t.ss.reqs, work.steward := t.work.steward, ats.waits := Tb.del s.ats.waits m.val } ∧
    t.mbx = s.mbx.set m { s.mbx[m] with
      enable := false, enabled := false, sqHead := (s.mbx[m]).sqTail, debts := 0, gen := (s.mbx[m]).gen + 1, delayed := []
      wdogFrom := none, wdogFired := false, resetSeen := true }) ∧
  (∀ (s : State) (m : Fin 64) (v : Word32) (hw : List (Nat × Bytes)), s.mmio = true →
    exec (.sqTailWrite m v hw) s = .next ((s.hostWrites hw).updMbx m fun b =>
      let n : Mailbox := if b.sqSize ≤ v.toNat % 65536
        then { b with sqTail := v.toNat % 65536, sqErr := true, stopped := true, irq1 := if b.sqErr then b.irq1 else b.irq1 + 1 }
        else { b with sqTail := v.toNat % 65536 }
      if b.sqHead = b.sqTail ∧ b.wdogFired = false
      then { n with wdogFrom := if b.enabled && b.sqHead != v.toNat % 65536 then some s.timeUs else none }
      else n)) ∧
  (∀ (s : State) (m : Fin 64) (v : Word32) (hw : List (Nat × Bytes)), s.mmio = true →
    exec (.cqHeadWrite m v hw) s = .next ((s.hostWrites hw).updMbx m fun b =>
      if b.enabled = false ∨ between b.cqSize b.cqHead b.cqTail (v.toNat % 65536) = true
      then { b with cqHead := v.toNat % 65536 } else b)) ∧
  ∀ (s : State) (m : Fin 64) (v : Bool), s.mmio = true → exec (.wdogEnWrite m v) s = .next (s.updMbx m fun b =>
    if v = true ∧ b.wdogEn = false
    then { b with wdogEn := true, wdogFired := false, wdogFrom := if b.enabled && b.sqHead != b.sqTail then some s.timeUs else none }
    else { b with wdogEn := v })) ∧
  (∀ (s : State) (v : Word32), s.bar = true → v.getLsbD 0 = true → s.dci.enable = false → ∃ d : Dci,
    d = { s.dci with wqLog2 := v.extractLsb' 4 4, cqLog2 := v.extractLsb' 8 5 } ∧
    exec (.dciEnableWrite v) s = .next { s with dci := { d with
      enable := true, wqTail := 0, cqHead := 0, wqHead := 0, cqTail := 0, delayed := [], stopped := !d.configOk
      wqErr := d.wqErr || !d.configOk } }) ∧
  (∀ (s : State) (v : Word32), s.bar = true → v.getLsbD 0 = true → s.dci.enable = true →
    exec (.dciEnableWrite v) s = .next { s with dci.wqLog2 := v.extractLsb' 4 4, dci.cqLog2 := v.extractLsb' 8 5 }) ∧
  (∀ (s : State) (v : Word32), s.bar = true → v.getLsbD 0 = false → exec (.dciEnableWrite v) s = .next { s with
    dci := { s.dci with wqLog2 := v.extractLsb' 4 4, cqLog2 := v.extractLsb' 8 5, enable := false, wqHead := s.dci.wqTail } }) ∧
  (∀ (s : State) (v : Word32) (hw : List (Nat × Bytes)), s.bar = true →
    (v.toNat % 65536 < 2 ^ s.dci.wqLog2.toNat → exec (.dciWqTailWrite v hw) s = .next { s.hostWrites hw with
      dci.wqTail := v.toNat % 65536 }) ∧
    (2 ^ s.dci.wqLog2.toNat ≤ v.toNat % 65536 → exec (.dciWqTailWrite v hw) s = .next { s.hostWrites hw with
      dci.wqTail := v.toNat % 65536, dci.wqErr := true, dci.stopped := true })) ∧
  ∀ (s : State) (v : Word32), s.bar = true → exec (.dciCqHeadWrite v) s = .next
    (if s.dci.enable = false ∨ between (2 ^ s.dci.cqLog2.toNat) s.dci.cqHead s.dci.cqTail (v.toNat % 65536) = true
      then { s with dci.cqHead := v.toNat % 65536 } else s)

/-- A virtual function writes its own mailbox page alone; the physical function reaches every page and the other blocks, where
writing 1 clears a status bit; nothing else of the state changes (R8, R52, R239, R243, R267, R360, R379). TICK_CTRL is writable in
direct host mode only; a read of TICK_NOW_LO latches the high half; writing 1 to SAT clears the bit and its count (R52). -/
def Obligations.RegisterWrites : Prop :=
  ((∀ (s : State) (f : Fin 64) (off : BitVec 24) (v : Word32), s.mmio = true → f ≠ 0 →
    exec (.registerWrite f off v) s
      = .next (if off.toNat < 0x1000 then s.updMbx f fun b => b.writeReg off.toNat v else s)) ∧
  (∀ (s : State) (off : BitVec 24) (v : Word32), s.mmio = true → 0x10000 ≤ off.toNat → off.toNat < 0x50000 →
    exec (.registerWrite 0 off v) s = .next (s.updMbx (mboxFin ((off.toNat - 0x10000) / 0x1000)) fun b =>
      b.writeReg (off.toNat % 0x1000) v)) ∧
  (∀ (s : State) (v : Word32), s.mmio = true → exec (.registerWrite 0 0x200004#24 v) s = .next { s with
    tk.pinLoss := s.tk.pinLoss && !v.getLsbD 1, tk.tickFault := s.tk.tickFault && !v.getLsbD 2
    tk.schedMismatch := s.tk.schedMismatch && !v.getLsbD 3, tk.defer := s.tk.defer && !v.getLsbD 4 }) ∧
  (∀ (s : State) (v : Word32), s.mmio = true → exec (.registerWrite 0 0x400000#24 v) s = .next { s with
    pwr.tableOver := s.pwr.tableOver && !v.getLsbD 0, pwr.peakTrip := s.pwr.peakTrip && !v.getLsbD 1
    pwr.vfFault := s.pwr.vfFault && !v.getLsbD 2 }) ∧
  (∀ (b : Mailbox) (v : Word32), b.writeReg 0x20 v = { b with
    cfgErr := b.cfgErr && !v.getLsbD 3, sqErr := b.sqErr && !v.getLsbD 4, wdog := b.wdog && !v.getLsbD 5
    evtLost := b.evtLost && !v.getLsbD 6, resetSeen := b.resetSeen && !v.getLsbD 7 }) ∧
  (∀ (s : State) (off : BitVec 24) (v : Word32), s.bar = true → 0x100000 ≤ off.toNat → off.toNat < 0x101000 →
    exec (.registerWrite 0 off v) s = .next { s with dci := s.dci.writeReg (off.toNat % 0x1000) v }) ∧
  ∀ (s t : State) (f : Fin 64) (off : BitVec 24) (v : Word32), exec (.registerWrite f off v) s = .next t →
    t = { s with mbx := t.mbx, dci := t.dci, tk := t.tk, dbg := t.dbg, pwr := t.pwr }) ∧
  (∀ (s : State) (v : Word32), (s.glb.mode = .direct → s.mmio = true → exec (.tickCtrlWrite v) s = .next { s with
      tk.src := v.toNat % 4, tk.onMarker := s.tk.onMarker && v.toNat % 4 != 1, tk.toMarker := s.tk.toMarker && v.toNat % 4 != 1 }) ∧
    (s.glb.mode ≠ .direct → exec (.tickCtrlWrite v) s = .next s)) ∧
  (∀ s : State, s.mmio = true → exec .tickNowLoRead s = .next { s with tk.hiLatch := s.tk.tick / 2 ^ 32 % 65536 }) ∧
  (∀ s : State, s.mmio = true → exec (.satClear .abandon) s = .next { s with tk.abandonCnt := 0, tk.abandonSat := false }) ∧
  ∀ s : State, s.mmio = true → exec (.satClear .defer) s = .next { s with tk.deferCnt := 0, tk.deferSat := false }

/-! ### Resets, boot, faults of the board, JTAG -/

/-- What each reset leaves: a cold reset keeps the fused and stored state alone; a warm reset keeps besides the debug sticky bits,
the counters, the challenge, the host links, BOARD_W and the operating point, where a write reaches the register; a function-level
reset starts its own mailbox afresh (R241, R242, R371). -/
def Obligations.Resets : Prop :=
  (∀ s : State, exec .coldReset s = .next { State.reset with
    pending := s.pending, timeUs := s.timeUs, freeCtr := s.freeCtr, host0 := s.host0, host1 := s.host1, cxl0 := s.cxl0
    cxl1 := s.cxl1, glb.lifecycle := s.glb.lifecycle, sec.vault := s.sec.vault, sec.identityFused := s.sec.identityFused
    sec.certFused := s.sec.certFused, sec.rootDestroyed := s.sec.rootDestroyed, pwr.record := s.pwr.record
    pwr.runs := s.pwr.runs, pwr.recordLifecycle := s.pwr.recordLifecycle }) ∧
  (∀ s : State, s.bar = true → ∃ c t, exec .coldReset s = .next c ∧ exec .warmReset s = .next t ∧
    t = { c with glb := t.glb, sec := t.sec, ports := t.ports, dbg := t.dbg, tk := t.tk, pwr := t.pwr } ∧
    t.glb.ready = false ∧ t.glb.mode = .boot ∧ t.glb.link0 = s.glb.link0 ∧ t.glb.link1 = s.glb.link1 ∧
    t.glb.straps = s.glb.straps ∧ t.sec = { c.sec with sticky := s.sec.sticky, challenge := s.sec.challenge, zeroed := s.sec.zeroed } ∧
    t.dbg.units = s.dbg.units ∧ t.dbg.memory = s.dbg.memory ∧ t.dbg.roving = s.dbg.roving ∧ t.dbg.mailbox = s.dbg.mailbox ∧
    t.dbg.trace = s.dbg.trace ∧ t.dbg.power = s.dbg.power ∧ t.tk = { c.tk with table := defaultTable s.pwr.boardW } ∧
    t.pwr = { c.pwr with boardW := s.pwr.boardW, point := s.pwr.point } ∧
    ∀ p : Fin 20, (t.ports[p]).state = .down ∧ (t.ports[p]).retries = (s.ports[p]).retries ∧
      (t.ports[p]).fecUncorr = (s.ports[p]).fecUncorr) ∧
  (∀ s : State, s.bar = false → exec .warmReset s = .next s) ∧
  ∀ (s : State) (f : Fin 64), s.glb.inGroup = false → ∃ t, exec (.functionLevelReset f) s = .next t ∧
    t = { s with mbx := t.mbx, ss.reqs := t.ss.reqs, work.steward := t.work.steward, ats.waits := Tb.del s.ats.waits f.val } ∧
    t.mbx = s.mbx.set f { Mailbox.reset with
      gen := (s.mbx[f]).gen + 1, lost := (s.mbx[f]).lost, irq0 := (s.mbx[f]).irq0, irq1 := (s.mbx[f]).irq1, resetSeen := true }

/-- Faults of the board: a lost rail or a thermal trip loses all that a cold reset loses and halts; a lost crystal halts; a lost
host clock or PERST takes host links down; a lost Twine clock takes its five ports down (R270, R367, R370, R388, R390). -/
def Obligations.BoardFaults : Prop :=
  (∀ s : State, s.glb.mode ≠ .halted → ∃ c, exec .coldReset s = .next c ∧
    exec .railFault s = .next { c with glb.mode := .halted }) ∧
  (∀ s : State, ∃ c, exec .coldReset s = .next c ∧
    exec .thermalTrip s = .next { c with glb.mode := .halted, glb.thermal := true }) ∧
  (∀ s : State, ∃ t, exec .xtalLoss s = .next t ∧ t = { s with
    glb.mode := .halted, glb.ready := false, glb.link0 := false, glb.link1 := false, inbox := []
    tk := { s.tk with noUnits := true, abandonCnt := t.tk.abandonCnt, abandonSat := t.tk.abandonSat }
    work := { s.work with queue := [], running := [], done := [], inDoubt := [], deferred := [], lateReqs := [], votes := [], acks := [] }
    st.stores := s.st.stores.map fun e => (e.1, { e.2 with compact := none }) } ∧
    (s.tk.abandonCnt ≤ 0x7FFFFFFF → t.tk.abandonCnt = Nat.min (s.tk.abandonCnt + s.work.running.length) 0x7FFFFFFF)) ∧
  (∀ s : State, exec .hostClockLoss s = .next { s with glb.link0 := false, glb.link1 := false }) ∧
  (∀ s : State, exec (.pciePerst 0) s = .next { s with glb.link0 := false } ∧
    exec (.pciePerst 1) s = .next { s with glb.link1 := false }) ∧
  ∀ (s : State) (k : Fin 4), ∃ t, exec (.twineClockLoss k) s = .next t ∧
    t = { s with ports := t.ports, dbg := t.dbg, freeCtr := t.freeCtr } ∧
    ∀ p : Fin 20, if p.val / 5 = k.val then (t.ports[p]).state = .down else (t.ports[p]).state = (s.ports[p]).state

/-- The JTAG commands: a challenge is drawn and kept; the BIST record is read where boot has stopped on it or JTAG is open, and
sets debug bit 2; a raw test instruction sets bits 2 and 4 where JTAG is open and does nothing elsewhere (R306, R307, R308, R373).
That BIST_READ sets bit 2 is the model's reading. -/
def Obligations.Jtag : Prop :=
  (∀ s : State, exec .lcChallenge s = .next { s with
    freeCtr := s.freeCtr + 1, sec.challenge := some ((Config.freeValue s.freeCtr).truncate 256)
    sec.jtagOut := toLE 32 ((Config.freeValue s.freeCtr).truncate 256).toNat }) ∧
  (∀ s : State, (s.glb.bistFail = true ∧ s.glb.bootStage = 3 ∨ s.glb.lifecycle.open_ = true) →
    exec .bistRead s = .next { s with sec.jtagOut := s.bistBytes, sec.sticky := s.sec.sticky ||| 4#5 }) ∧
  (∀ s : State, (s.glb.bistFail = false ∨ s.glb.bootStage ≠ 3) → s.glb.lifecycle.open_ = false →
    exec .bistRead s = .next s) ∧
  (∀ s : State, s.glb.lifecycle.open_ = true → exec .rawTestEngine s = .next { s with
    sec.sticky := s.sec.sticky ||| 4#5 ||| 16#5 }) ∧
  ∀ s : State, s.glb.lifecycle.open_ = false → exec .rawTestEngine s = .next s

/-- Boot: the straps are sampled and the crystal wait begins; after it the links train; the sequence then ends ready under the
default table at tick 0, or stops on the lifecycle, on firmware that does not verify, or on the BIST record (R23, R36, R264, R361,
R369, R372, R373). -/
def Obligations.Boot : Prop :=
  (∀ (s : State) (straps : BitVec 9) (ok : Bool), s.glb.mode = .boot → s.glb.bootStage = 0 →
    exec (.boot straps ok) s = .next { s with
      glb.straps := straps, glb.signatureOk := ok, glb.bootStage := 1
      glb.bootUntilUs := s.timeUs + [500, 1000, 1500, 2000, 3000, 4000, 6000, 8000, 12000, 16000, 20000, 24000, 32000, 40000,
        48000, 64000].getD (straps.toNat % 16) 0 }) ∧
  (∀ s : State, s.glb.mode = .boot → s.glb.bootStage = 1 → exec .oscWaitDone s = .next { s with
    timeUs := Nat.max s.timeUs s.glb.bootUntilUs, glb.bootStage := 2, glb.link0 := true, glb.link1 := true }) ∧
  ∀ s : State, s.glb.mode = .boot → s.glb.bootStage = 2 →
    ((s.glb.lifecycle = .blank ∨ s.glb.lifecycle = .scrapped) →
      exec .bootComplete s = .next { s with glb.bootStage := 3 }) ∧
    (s.glb.lifecycle ≠ .blank → s.glb.lifecycle ≠ .scrapped →
      (s.glb.signatureOk = false → exec .bootComplete s = .next { s with
        glb.mode := .direct, glb.bootStage := 4, dci.active := true, dci.cause := 1, tk.startUs := s.timeUs
        tk.table := defaultTable s.pwr.boardW, sec.sticky := s.sec.sticky ||| 8#5 }) ∧
      (s.glb.signatureOk = true → s.bistStops = true → exec .bootComplete s = .next { s with
        glb.bistFail := true, glb.bootStage := 3 }) ∧
      (s.glb.signatureOk = true → s.bistStops = false → ∃ t, exec .bootComplete s = .next t ∧
        t = { s with glb := t.glb, sec.slots := s.dormantSlots, tk := t.tk, pwr := t.pwr, work := t.work } ∧
        t.glb = { s.glb with ready := true, mode := .nci, bootStage := 4, stewardUs := s.timeUs } ∧ t.tk.tick = 0 ∧ t.tk.startUs = s.timeUs ∧
        t.tk.table = defaultTable s.pwr.boardW ∧ t.tk.allowLeft = s.pwr.boardW * 500 ∧ t.pwr.allow = s.pwr.boardW * 500))

/-! ### Ticks, power, schedule tables -/

/-- Tick inputs of a device that follows the root. An edge is timed against the one before it, and good within the tick length + 1 µs;
on the pin source it starts the awaited tick after the delay of the device's place in the chain, or, within that delay before the commit
point, the coming one. A marker of the right number is passed on, puts a device that has lost its pins on the marker source, and starts
the awaited tick at its arrival less the link's latency where the markers are the source or the edge has not come. Two ticks in a row
without an edge raise PIN_LOSS; 64 good edges bring the pins back at a whorl boundary; a wrong number, a second tick without edge and
marker, or on pins only a first one, is a tick fault, and the device leaves its group (R26 to R29). A device that does not follow a root
takes none of them, but one that joins takes an edge and the marker-derived start of its tick as a sample of the pin delay (R291; which
edge belongs to which start is the model's choice, log entry 33). The delay in whole µs and the rows that a marker passes on are the model's reading (log entries 12 and 80). -/
def Obligations.TickInputs : Prop :=
  (∀ (s : State) (us now start : Nat), s.follows = true → s.measures = false → now = Nat.max s.timeUs (s.tk.edgeUs + us) →
    start = now + (s.tk.pinDelayNs + 500) / 1000 → ∃ t, exec (.tickInEdge us) s = .next t ∧
    t = { s with timeUs := now, tk := t.tk } ∧ t.tk = { s.tk with
      edgeUs := now, edgeSeen := true, missedBeats := 0
      missedEdges := if us ≤ s.tickUs + 1 then 0 else if s.onPins && (s.tk.windowOpen || s.tk.awaited) then s.tk.missedEdges + 1
        else s.tk.missedEdges
      goodEdges := if us ≤ s.tickUs + 1 then s.tk.goodEdges + 1 else 0
      edgeDue := if s.tk.windowOpen && s.onPins then some start else s.tk.edgeDue
      awaited := s.tk.awaited && !s.onPins
      startUs := if s.tk.awaited && s.onPins then Nat.max s.tk.startUs start else s.tk.startUs }) ∧
  (∀ (s : State) (p : Fin 20) (n : BitVec 48) (r : Fin 64) (on starts : Bool), s.follows = true → s.measures = false →
    n.toNat = s.tk.tick →
    on = (decide (s.tk.src ≠ 1) && (s.tk.onMarker || s.tk.toMarker || decide (s.tk.src = 2))) →
    starts = (s.tk.awaited && (on || decide (s.tk.src = 0))) → ∃ t, exec (.tickMarker p n r) s = .next t ∧
    t.tk = { s.tk with
      missedBeats := 0, onMarker := on, toMarker := false, awaited := s.tk.awaited && !starts
      missedEdges := if starts && !on then s.tk.missedEdges + 1 else s.tk.missedEdges
      startUs := if starts then Nat.max s.tk.startUs (s.timeUs - (s.ports[p]).latencyNs / 1000) else s.tk.startUs } ∧
    t = { s with tk := t.tk, ports := t.ports, dbg := t.dbg, freeCtr := t.freeCtr, outbox := t.outbox
                 grp := { s.grp with msgSeq := t.grp.msgSeq, sentCounts := t.grp.sentCounts } }) ∧
  (∀ (s : State) (p : Fin 20) (n : BitVec 48) (r : Fin 64), s.follows = true → s.measures = false → n.toNat ≠ s.tk.tick →
    exec (.tickMarker p n r) s = exec (.tickFault (some n)) s) ∧
  (∀ s : State, s.follows = true → s.tk.src = 0 → s.tk.onMarker = false → s.tk.toMarker = false → 2 ≤ s.edgeless →
    exec .pinLoss s = .next { s with tk.pinLoss := true, tk.rose := s.tk.rose || !s.tk.pinLoss, tk.toMarker := true }) ∧
  (∀ s : State, s.follows = true → s.tk.src = 0 → s.tk.onMarker = true → 64 ≤ s.tk.goodEdges → s.tk.tick % 64 = 0 →
    exec .pinRestore s = .next { s with tk.onMarker := false }) ∧
  (∀ (s : State) (m : Option (BitVec 48)), s.follows = true →
    (match m with
      | some n => n.toNat ≠ s.tk.tick
      | none => s.tk.awaited = true ∧ (1 ≤ s.tk.missedBeats ∨ s.tk.src = 1)) →
    ∃ t, exec (.tickFault m) s = .next t ∧ t.tk.tickFault = true ∧ t.tk.noUnits = true ∧ t.glb.inGroup = false ∧
      t.work.queue = [] ∧ t.work.running = [] ∧ t.work.done = [] ∧
      t = { s with tk := t.tk, glb := t.glb, grp := t.grp, ports := t.ports, work := t.work, st := t.st, inbox := [] }) ∧
  (∀ (s : State) (us a b : Nat), s.follows = false → s.measures = true → a = Nat.max s.timeUs (s.tk.edgeUs + us) →
    s.tk.pinMark = some b → 2 * (a - b + (b - a)) < s.tickUs → exec (.tickInEdge us) s = .next { s with
      timeUs := a, tk.edgeUs := a, tk.pinEdge := none, tk.pinMark := none, tk.pinSamples := s.tk.pinSamples ++ [(a : Int) - b] }) ∧
  ∀ (s : State) (us : Nat) (p : Fin 20) (n : BitVec 48) (r : Fin 64) (m : Option (BitVec 48)), s.follows = false →
    s.measures = false → exec (.tickInEdge us) s = .next s ∧ exec (.tickMarker p n r) s = .next s ∧ exec .pinLoss s = .next s ∧
    exec .pinRestore s = .next s ∧ exec (.tickFault m) s = .next s

/-- Whorl boundaries are the ticks whose number is a multiple of 64; tick n uses row n mod 64 (R25). -/
def Obligations.WhorlsAndRows : Prop :=
  (∀ (s : State) (e : Nat), s.tk.tick % 64 ≠ 0 → exec (.whorlBoundary e) s = .next s) ∧
  (∀ (s : State) (e : Nat), s.tk.tick % 64 = 0 → s.ticking = true → s.pwr.settled < s.tk.tick / 64 → s.tableDue = false →
    s.pwr.chosen = none → ∃ t, exec (.whorlBoundary e) s = .next t ∧ t.pwr.settled = s.tk.tick / 64) ∧
  (∀ s : State, s.row = s.tk.table.rows.getD (s.tk.tick % 64) []) ∧
  ∀ (s : State) (k : Fin 16), s.row[k.val]? = none → exec (.slotStart k) s = .next s ∧ exec (.slotEnd k) s = .next s

/-- The ledger at a whorl boundary: the carried debt, a waiting BOARD_W, the deduction, the published allowance, the step chosen;
a step is carried out or cancelled with VF_FAULT; a peak trip takes the allowance away for this whorl and the next (R361, R363,
R364, R366, R367). -/
def Obligations.PowerLedger : Prop :=
  (∀ (s : State) (e : Nat), s.tk.tick % 64 = 0 → s.ticking = true → s.pwr.settled < s.tk.tick / 64 → s.tableDue = false →
    (∀ c, s.pwr.chosen = some c → s.tk.tick < c.2) → ∃ t w debt, exec (.whorlBoundary e) s = .next t ∧
    debt = s.pwr.debt + e - 64 * s.pwr.whorlA ∧
    w = (if s.pwr.dueW ≠ 0 then s.pwr.dueW
      else if s.pwr.pendingW ≠ 0 ∧ s.pwr.pendingTick < s.tk.tick then s.pwr.pendingW else s.pwr.boardW) ∧
    t.pwr.debt = debt ∧ t.pwr.boardW = w ∧ t.pwr.whorlA = w * s.tickUs ∧
    t.pwr.zeroRun = (if debt = 0 then s.pwr.zeroRun + 1 else 0) ∧
    t.pwr.allow = (if s.tk.tick / 64 < s.pwr.zeroUntil then 0
      else w * s.tickUs - Nat.min (ceilDiv debt 64) (w * s.tickUs / 2)) ∧ t.tk.allowLeft = t.pwr.allow ∧
    t.pwr.chosen = (if s.pwr.whorlA < debt ∧ s.pwr.point < 3 then some (true, s.tk.tick + 64)
      else if 4 ≤ t.pwr.zeroRun ∧ 8 * e ≤ 7 * 64 * s.pwr.whorlA ∧ 0 < s.pwr.point then some (false, s.tk.tick + 64) else none) ∧
    t = { s with pwr := t.pwr, dbg := t.dbg, tk.allowLeft := t.tk.allowLeft
                 tk.table := if s.tk.table.tableId = 0 then defaultTable w else s.tk.table }) ∧
  (∀ (s : State) (down : Bool) (n : Nat), s.pwr.chosen = some (down, n) → s.ticking = true → n ≤ s.tk.tick →
    (exec (.operatingPointStep false) s = .next { s with pwr.chosen := none, pwr.vfFault := true }) ∧
    ∃ t, exec (.operatingPointStep true) s = .next t ∧ t = { s with dbg := t.dbg, pwr.chosen := none
                                                                    pwr.point := if down then s.pwr.point + 1 else s.pwr.point - 1 }) ∧
  ∀ s : State, s.ticking = true → ∃ t, exec .peakTrip s = .next t ∧ t = { s with
    dbg := t.dbg, pwr.peakTrip := true, pwr.allow := 0, pwr.zeroUntil := Nat.max s.pwr.zeroUntil (s.tk.tick / 64 + 2)
    tk.allowLeft := 0 }

/-- A staged table takes effect at START_TICK, in a group only under the verdict GO; the decider that does not hold every pair in
time, one of them naming a table, decides DROP, which the coming commit point tells every other member and which drops its own staged table; a member that
hears no verdict in time goes silent (R35). The deadline and the expiry are events, taken where their conditions hold (log entry 12). -/
def Obligations.ScheduleActivation : Prop :=
  (∀ (s : State) (g : StagedTable), s.tk.staged = some g → s.ticking = true → s.tk.tick = g.table.startTick →
    (s.glb.inGroup = true → g.verdict = some true) → ∃ t, exec .schedActivate s = .next t ∧
    t = { s with dbg := t.dbg, tk.table := g.table, tk.staged := none }) ∧
  (∀ (s : State) (g : StagedTable), s.tk.staged = some g →
    (s.tk.tick ≠ g.table.startTick ∨ s.glb.inGroup = true ∧ g.verdict ≠ some true) → exec .schedActivate s = .next s) ∧
  (∀ (s : State) (b : Nat), s.tk.verdictBy = some b → s.ticking = true → s.glb.inGroup = true → s.glb.rank = 0 →
    s.tk.verdictSent = false → b ≤ s.tk.tick → (∃ r, r < s.grp.n ∧ Tb.has s.tk.digests r = false) →
    (∃ e ∈ s.tk.digests, e.2 ≠ (0, 0)) →
    ∃ t, exec .verdictDeadline s = .next t ∧ t.tk.verdictSent = true ∧ t.tk.verdictBy = none ∧ t.tk.digests = [] ∧
      t.tk.staged = none ∧ t.tk.schedMismatch = true ∧
      t = { s with tk := t.tk, work.steward := s.work.steward ++ [⟨none, 16, none,
        ((List.range s.grp.n).filter (· ≠ s.glb.rank)).map fun r => .send (.rank r) (.tableVerdict false)⟩] }) ∧
  (∀ s : State, (s.tk.verdictBy = none ∨ s.glb.rank ≠ 0 ∨ s.tk.verdictSent = true ∨
      (∀ r, r < s.grp.n → Tb.has s.tk.digests r = true) ∨ ∀ e ∈ s.tk.digests, e.2 = (0, 0)) →
    exec .verdictDeadline s = .next s) ∧
  (∀ (s : State) (g : StagedTable), s.tk.staged = some g → s.follows = true → g.verdict = none →
    g.table.startTick ≤ s.tk.tick + 52 → exec .verdictWaitExpiry s = .next { s with tk.mute := true }) ∧
  ∀ s : State, (∀ g, s.tk.staged = some g → g.verdict.isSome = true ∨ s.tk.tick + 52 < g.table.startTick) →
    exec .verdictWaitExpiry s = .next s

/-! ### Slots and units -/

/-- A slot begins at its offset: the units that start are of its class, with the estimate of the size that they have now, run in it,
and their estimates are drawn from its budget and from the tick's allowance (R37, R38). -/
def Obligations.SlotStart : Prop :=
  ∀ (s : State) (k : Fin 16) (e : SlotEntry), s.row[k.val]? = some e → s.ticking = true → s.tk.awaited = false →
    s.boundaryDue = false → s.tk.windowOpen = false → s.timeUs ≤ s.tk.startUs + e.startUs → (∀ x ∈ s.tk.slots, x.1 ≠ k.val) →
    ∃ (t : State) (started : List UnitRec), exec (.slotStart k) s = .next t ∧
      t.work.running = s.work.running ++ started.map (fun u => (k.val, u)) ∧
      (∀ u ∈ started, ∃ v ∈ s.work.queue, v.cls = e.cls ∧ u = { v with
        size := u.size, est := estimateUj v.kind u.size s.grp.n, lastSlot := k.val, tags := u.tags }) ∧
      t.tk.allowLeft + (started.map (·.est)).sum = s.tk.allowLeft ∧
      t.tk.slots = s.tk.slots ++ [(k.val, e.energyUj - (started.map (·.est)).sum)] ∧
      (started.map (·.est)).sum ≤ e.energyUj ∧
      t = { s with
        timeUs := s.tk.startUs + e.startUs, st := t.st, ten := t.ten, dbg := t.dbg
        tk := { s.tk with slots := t.tk.slots, allowLeft := t.tk.allowLeft, refused := t.tk.refused }
        work := { s.work with running := t.work.running, queue := t.work.queue, storeCredits := t.work.storeCredits
                              tenantTiles := t.work.tenantTiles } }

/-- At a slot's end every unit that it still runs is abandoned: none runs there, none has effect; a unit abandoned 256 times is
taken from its queue, and its owner's completion is staged (R40, R42). -/
def Obligations.SlotEndAndGivenUp : Prop :=
  (∀ (s : State) (k : Fin 16) (e : SlotEntry), s.row[k.val]? = some e → s.ticking = true → (∃ x ∈ s.tk.slots, x.1 = k.val) →
    ∃ t : State, exec (.slotEnd k) s = .next t ∧ (∀ r ∈ t.work.running, r ∈ s.work.running ∧ r.1 ≠ k.val) ∧
      (∀ x ∈ t.tk.slots, x.1 ≠ k.val) ∧ t.work.done = s.work.done ∧
      t = { s.sentAs t with
        timeUs := Nat.max s.timeUs (s.tk.startUs + e.startUs + e.budgetUs), ss := t.ss, st := t.st
        tk := { s.tk with abandonCnt := t.tk.abandonCnt, abandonSat := t.tk.abandonSat, slots := t.tk.slots }
        work := { s.work with running := t.work.running, queue := t.work.queue, votes := t.work.votes
                              storeCredits := t.work.storeCredits, tenantTiles := t.work.tenantTiles } }) ∧
  ∀ (s : State) (u : Nat) (v : UnitRec), s.work.queue[u]? = some v → 256 ≤ v.abandons →
    ∃ t : State, exec (.unitEnded u) s = .next t ∧
      t.work.queue = (s.work.queue.filter fun w => w.key != v.key || w.kind != v.kind) ∧
      t.work.steward = s.work.steward ++ [⟨none, 16, v.session, s.ownerEvents v⟩] ∧
      t = { s with st := t.st, kv := t.kv, dbg := t.dbg, grp := { s.grp with moves := t.grp.moves, shrinkCmd := t.grp.shrinkCmd }
                   work := { s.work with queue := t.work.queue, steward := t.work.steward } }

/-- The units of a request that run finish with their effects staged, or are abandoned where they have none to give: TOKENIZE,
PREFIX_LOOKUP, PREFILL_SLICE and DECODE_STEP (R45, R106, R126, R135, R144, R314). -/
def Obligations.RequestUnits : Prop :=
  (∀ (s : State) (u k r : Nat) (v : UnitRec), s.work.running[u]? = some (k, v) → v.kind = .tokenize r →
    (∀ effs, s.tokenizeEffects r = some effs → ∃ t, exec (.tokenize u) s = .next t ∧ s.finishes k v effs t) ∧
    (s.tokenizeEffects r = none → ∃ t, exec (.tokenize u) s = .next t ∧ s.abandons k v t)) ∧
  (∀ (s : State) (u k i : Nat) (v : UnitRec), s.work.running[u]? = some (k, v) → v.kind = .lookup i →
    (∀ effs, s.lookupEffects i = some effs → ∃ t, exec (.prefixLookup u) s = .next t ∧ s.finishes k v effs t) ∧
    (s.lookupEffects i = none → ∃ t, exec (.prefixLookup u) s = .next t ∧ s.abandons k v t)) ∧
  (∀ (s : State) (u k i : Nat) (v : UnitRec), s.work.running[u]? = some (k, v) → v.kind = .prefill i →
    (∀ effs, s.prefillEffects i = some effs → ∃ t, exec (.prefillSlice u) s = .next t ∧ s.finishes k v effs t) ∧
    (s.prefillEffects i = none → ∃ t, exec (.prefillSlice u) s = .next t ∧ s.abandons k v t)) ∧
  ∀ (s : State) (u k r : Nat) (v : UnitRec), s.work.running[u]? = some (k, v) → v.kind = .decode r →
    (∀ effs, s.decodeEffects r = some effs → ∃ t, exec (.decodeStep u) s = .next t ∧ s.finishes k v effs t) ∧
    (s.decodeEffects r = none → ∃ t, exec (.decodeStep u) s = .next t ∧ s.abandons k v t)

/-- The tokens that a decode step accepts: each is allowed by the grammar state it meets, every one but the last is the guess for
its place, there is at most one more than there are guesses, and there is none at all only where nothing is allowed (R135). -/
def Obligations.AcceptedTokens : Prop :=
  ∀ (c : StepCtx) (j : Nat) (g : Option GState) (run : List Ran) (guesses : List Nat),
    let acc := (c.accept j g run guesses).1
    acc.length ≤ guesses.length + 1 ∧ acc.length ≤ run.length ∧
    (∀ i, i + 1 < acc.length → acc[i]? = guesses[i]?) ∧
    (run ≠ [] → c.mask g ≠ [] → acc ≠ []) ∧
    (c.mask g = [] → acc = []) ∧
    ∀ i, i + 1 < acc.length → ∀ x, acc[i]? = some x → c.model.arch.eosIds.contains x = false ∧ j + i + 1 ≠ c.remaining

/-- What waits for a request's ring and stall hold: its next DECODE unit joins the queue where the ring has room and waits where it
has none; 10 s without room, and a stall hold that ends with no RESUME or CANCEL accepted in its tick, are staged for the coming commit
(R153, R158). -/
def Obligations.DecodeWaits : Prop :=
  (∀ (s : State) (r : Nat) (q : Req), Tb.get s.ss.reqs r = some q → s.ticking = true → s.wantsDecode r q = true →
    (q.hasRoom = true → ∃ (t : State) (u : UnitRec), exec (.decodeUnitCreate r) s = .next t ∧ u ∈ t.work.queue ∧
      u.kind = .decode r ∧ u.session = some q.session ∧ u.group = true ∧ u.abandons = 0 ∧
      t.work.queue.length = s.work.queue.length + 1 ∧ (∀ v ∈ s.work.queue, v ∈ t.work.queue) ∧
      t = { s with
        work := { s.work with queue := t.work.queue, nextSub := s.work.nextSub + 1 }
        ss.reqs := Tb.upd s.ss.reqs r fun q => { q with ringWaitUs := none } }) ∧
    (q.hasRoom = false → exec (.decodeUnitCreate r) s = .next { s with
      ss.reqs := Tb.upd s.ss.reqs r fun q => { q with ringWaitUs := some (q.ringWaitUs.getD s.tk.startUs) } })) ∧
  (∀ (s : State) (r w : Nat) (q : Req), Tb.get s.ss.reqs r = some q → q.ringWaitUs = some w → q.hasRoom = false →
    s.wantsDecode r q = true → w + 10000000 ≤ s.tk.startUs + s.tickUs →
    exec (.ringRoomTimeout r) s = .next ((({ s with
      ss.reqs := Tb.upd s.ss.reqs r fun q => { q with ringWaitUs := none } } : State)).stage
      (s.records r q.pendingToks true ++ endEvents r q.session .eTimeout 0) (some q.session))) ∧
  ∀ (s : State) (r d : Nat) (q : Req), Tb.get s.view.ss.reqs r = some q → q.stallUntilUs = some d → q.phase = .stalled →
    q.cancel = none → s.holdEnded r = false → d ≤ s.tk.startUs + s.tickUs →
    exec (.stallHoldExpiry r) s = .next (({ s with
      ss.reqs := Tb.upd s.ss.reqs r fun q => { q with stallUntilUs := none } } : State).stage
      [.spool q.session 0x09 0 (toLE 4 r)] (some q.session))

/-- The tile units of background transfers: a tile whose page is present, or that reaches no memory outside the device, finishes with its effects; one
that takes 100 ms leaves the device, and what fails its owner is staged (R184, R185, R298, R334, R335). -/
def Obligations.TileUnits : Prop :=
  (∀ (s : State) (u k : Nat) (v : UnitRec) (effs : List Effect), s.work.running[u]? = some (k, v) →
    (∀ p, s.tilePlace v = some p → s.absentPage p.1 p.2.1 p.2.2 = none) →
    (∀ c i, v.kind = .parkTile c i → s.parkTileEffects c i v.key.stamp = some effs →
      ∃ t, exec (.parkTile u) s = .next t ∧ s.finishes k v effs t) ∧
    (∀ r i, v.kind = .reviveTile r i → s.reviveTileEffects r i v.key.stamp = some effs →
      ∃ t, exec (.reviveTile u) s = .next t ∧ s.finishes k v effs t) ∧
    (∀ i, v.kind = .chkptTile i → s.chkptTileEffects i v.key.stamp = some effs →
      ∃ t, exec (.chkptTile u) s = .next t ∧ s.finishes k v effs t) ∧
    ∀ (j c : Nat) (m : Model) (b : Bytes), v.kind = .reshard j c → Tb.get s.img.models j = some m → s.readChunk m c = .ok b →
      ∃ t, exec (.reshardTile u) s = .next t ∧ s.finishes k v [.reshard j c (some b)] t) ∧
  ∀ (s : State) (u : Nat) (k : Option Nat) (v : UnitRec), s.unitAt u = some (k, v) → v.paused = none →
    (∀ c i, v.kind = .parkTile c i →
      exec (.parkTileTimeout u) s = .next ((s.dropUnit k v).stage (s.copyFailEffects c .eTimeout) v.session)) ∧
    (∀ r i, v.kind = .reviveTile r i →
      exec (.reviveTileTimeout u) s = .next ((s.dropUnit k v).stage (s.reviveFailEffects r .eTimeout) v.session)) ∧
    ∀ i, v.kind = .chkptTile i →
      exec (.chkptTileTimeout u) s = .next ((s.dropUnit k v).stage (s.chkptGiveUp .eTimeout))

/-- The units of searches and of the device's upkeep finish with what they do, and with the completion of the command that asked
for them: a search pass, COMPACT's build, prune, PURGE's sweep, re-encryption, the freeing of a model shard and of an adapter,
the upkeep of the BIST record, a session move (R96, R101, R128, R129, R228, R233, R297, R321, R376). -/
def Obligations.UpkeepUnits : Prop :=
  ∀ (s : State) (u k : Nat) (v : UnitRec), s.work.running[u]? = some (k, v) →
    (∀ j st ver cmd rest, v.kind = .compact j → Tb.get s.st.stores j = some st → st.compact = some (ver, cmd, rest) →
      ∃ t, exec (.compactBuild u) s = .next t ∧ s.finishes k v (.compactDone j ::
        (cmd.map fun c => (.complete c .ok (toLE 8 ver) : Effect)).toList) t) ∧
    (∀ n, v.kind = .prune n → ∃ t, exec (.prune u) s = .next t ∧ s.finishes k v [.prune n] t) ∧
    (∀ p, v.kind = .sweep p → ∃ t, exec (.purgeSweep u) s = .next t ∧ s.finishes k v (.sweep p ::
      (((Tb.get s.kv.purges p).bind (·.cmd)).map fun c => (.complete c .ok [] : Effect)).toList) t) ∧
    (∀ n j, v.kind = .reencrypt n j → ∃ t, exec (.reencryptionSweep u) s = .next t ∧ s.finishes k v [.reencrypt n j] t) ∧
    (∀ j, v.kind = .modelFree j → ∃ t, exec (.modelShardFree u) s = .next t ∧ s.finishes k v (.modelFree j ::
      (((Tb.get s.img.models j).bind (·.cmd)).map fun c => (.complete c .ok [] : Effect)).toList) t) ∧
    (∀ i n, v.kind = .adapterFree i n → ∃ t, exec (.adapterFree u) s = .next t ∧ s.finishes k v [.adapterFree i n] t) ∧
    (v.kind = .bistUpkeep → ∃ t, exec (.bistResultUpkeep u) s = .next t ∧ s.finishes k v [.bistUpkeep] t) ∧
    (∀ i m x, v.kind = .sessionMove i → Tb.get s.grp.moves i = some m → Tb.get s.ss.sessions i = some x →
      s.moveReady i m = true → ∃ t, exec (.sessionMove u) s = .next t ∧
        s.finishes k v (.sessionMove i :: (s.moveEntries i m x ++ s.moveSends i m x)) t) ∧
    ∀ g p, v.kind = .searchPass g p → ∃ t, exec (.searchPass u) s = .next t ∧
      (s.stagePass g p (s.passTops g p).1 (s.passTops g p).2).finishes k v [.passDone g p (s.passTops g p).1] t

/-! ### The commit window, deadlines and background ends -/

/-- The commit window opens at 8 µs before the tick's end, when every slot has ended: outside a group it reads the consumers of
the rings and nothing else changes; the coordinator's and the mirrors' deadlines are at 5 and 2 µs and act only in a group, where
the coordinator decides ABANDON on what it has not decided and a command without its acknowledgement leaves the staged list; a unit in doubt for 64 ticks is given
up, and its session's KV is made again (R48, R49, R262, R293). -/
def Obligations.CommitWindow : Prop :=
  (∀ (s : State) (hw : List (Nat × Bytes)), s.ticking = true → s.tk.windowOpen = false → s.tk.slots = [] →
    s.tk.awaited = false → s.tableDue = false →
    ∃ t, exec (.commitWindowOpen hw) s = .next t ∧ t.tk.windowOpen = true ∧
      (s.serving = true → t.glb.stewardUs = Nat.max s.timeUs (s.tk.startUs + s.tickUs - 8)) ∧
      (s.grp.n ≤ 1 → s.glb.inGroup = false → t = { s with
        host0 := (s.hostWrites hw).host0, timeUs := Nat.max s.timeUs (s.tk.startUs + s.tickUs - 8), tk.windowOpen := true
        glb.stewardUs := t.glb.stewardUs
        ss.reqs := t.ss.reqs, dbg := t.dbg })) ∧
  (∀ s : State, s.ticking = true → s.tk.windowOpen = true → ∃ t, exec .coordinatorDeadline s = .next t ∧
    t = { s.sentAs t with
      timeUs := Nat.max s.timeUs (s.tk.startUs + s.tickUs - 5), work := { s.work with decisions := t.work.decisions } } ∧
    (1 < s.grp.n → ∀ k ∈ s.undecided, s.glb.rank = s.coordinator k ∧ t.decisionOf k = some false) ∧
    ((s.grp.n ≤ 1 ∨ s.undecided = []) → t.work.decisions = s.work.decisions)) ∧
  (∀ s : State, s.ticking = true → s.tk.windowOpen = true → ∃ t, exec .mirrorAckDeadline s = .next t ∧
    t = { s with
      timeUs := Nat.max s.timeUs (s.tk.startUs + s.tickUs - 2)
      work := { s.work with steward := t.work.steward, again := t.work.again } } ∧
    (s.grp.n ≤ 1 → t.work.steward = s.work.steward ∧ t.work.again = s.work.again) ∧
    (∀ i ∈ t.work.steward, i ∈ s.work.steward)) ∧
  ∀ (s : State) (u n j : Nat) (i : Item) (v : UnitRec) (x : Session), s.work.inDoubt[u]? = some (n, i) → n + 64 ≤ s.tk.tick →
    i.unit = some v → i.session = some j → Tb.get s.ss.sessions j = some x → 1 < x.hist.length →
    ∃ t, exec (.inDoubtExpiry u) s = .next t ∧ (n, i) ∉ t.work.inDoubt ∧ t.tk.abandonCnt = Nat.min (s.tk.abandonCnt + 1) 0x7FFFFFFF ∧ Tb.has t.ss.rebuilds j = true ∧
      t.work.steward = s.work.steward ++ [⟨none, 16, some j, [.spool j 0x0D 0 (toLE 4 x.hist.length)]⟩]

/-- What the coming commit point ends or completes by a deadline or by the end of background work (R96, R129, R195, R199, R231,
R311, R317, R334, R358). -/
def Obligations.BackgroundEnds : Prop :=
  (∀ (s : State) (q : Nat) (x : Query), Tb.get s.st.queries q = some x → s.ticking = true →
    x.deadlineUs ≤ s.tk.startUs + s.tickUs →
    (s.work.steward.any (fun i => i.effs.any fun e => match e with | .queryEnd k => k = q | _ => false)) = false →
    exec (.storeQueryDeadline q) s = .next (s.stage (.queryEnd q ::
      (x.cmd.map fun c => (.complete c .eTimeout [] : Effect)).toList))) ∧
  (∀ (s : State) (p c : Nat) (x : Purge), Tb.get s.kv.purges p = some x → x.cmd = some c → s.ticking = true →
    x.deadlineUs ≤ s.tk.startUs + s.tickUs →
    exec (.purgeTimeout p) s = .next (({ s with
      kv.purges := Tb.upd s.kv.purges p fun x => { x with cmd := none } } : State).stage [.complete c .eTimeout []])) ∧
  (∀ (s : State) (c d a : Nat), s.dbg.dumpCmd = some (c, d, a) → s.pointReached d = true →
    exec .hangDumpTimeout s = .next (({ s with dbg.dumpCmd := none } : State).stage [.complete c .eTimeout []])) ∧
  (∀ (s : State) (i : Nat) (x : Session) (h : HeldOutput), Tb.get s.ss.sessions i = some x → x.held = some h →
    Tb.has s.ss.claims i = false → s.pointReached h.untilUs = true →
    (s.work.steward.any fun k => k.effs.any fun e => match e with
      | .claimStart j .. => j = i | .heldDrop j => j = i | _ => false) = false →
    exec (.holdTimeout i) s = .next (s.stage
      [.heldDrop i, .spool i 0x14 0 (toLE 4 h.epoch ++ toLE 4 h.records.length)] (some i))) ∧
  (∀ (s : State) (m : RouteMap) (d n : Nat), s.ten.old = some (m, d, n) → s.pointReached d = true →
    ∃ t, exec .epochDrainDeadline s = .next t ∧ t.ten.old = none ∧
      t = { s with ss.reqs := t.ss.reqs, ten.old := none, work := { s.work with steward := t.work.steward } } ∧
      t.ss.reqs = s.ss.reqs.map fun e =>
        if e.2.epoch ≠ s.ten.map.epoch ∧ e.2.phase ≠ .stalled
        then (e.1, { e.2 with cancel := some (e.2.cancel.getD (s.tk.tick, false)), drained := true }) else e) ∧
  (∀ (s : State) (j : Fin 8) (m : Model), Tb.get s.img.models j.val = some m → m.state = .retiring →
    s.pointReached m.drainUs = true → exec (.evictDrainDeadline j) s = .next { s with
      img.models := Tb.set s.img.models j.val { m with drainDue := true } }) ∧
  (∀ (s : State) (k : Checkpoint) (c : Nat), s.chkpt = some k → k.cmd = some c → s.ticking = true →
    (s.work.steward.any fun i => i.effs.any fun e => match e with
      | .reelWrite => true | .chkptFail _ => true | _ => false) = false →
    (∀ r, r < Nat.max s.grp.n 1 → Tb.has k.reports r = true) →
    exec .reelWrite s = .next (s.stage (if k.reelLen < reelLenOf (Nat.max s.grp.n 1) k.handoffs.length
      then s.chkptGiveUp .eLength
      else [.reelWrite, .complete c .ok (toLE 4 (reelLenOf (Nat.max s.grp.n 1) k.handoffs.length) ++ zeros 4 ++ toLE 8 k.step)]))) ∧
  (∀ (s : State) (j : VaultJob) (rest : List VaultJob), s.sec.vaultJobs = j :: rest → j.finished = false →
    exec .vaultWriteDone s = .next (({ s with sec.vaultJobs := { j with finished := true } :: rest } : State).stage
      (.vaultDone :: (j.cmd.map fun c => (.complete c .ok [] : Effect)).toList))) ∧
  (∀ (s : State) (id : Word64), ∃ t, exec (.releaseKeyExpiry id) s = .next t ∧
    t = { s with sec.releases := t.sec.releases } ∧
    ∀ r, r ∈ t.sec.releases ↔ r ∈ s.sec.releases ∧ (r.id ≠ id.toNat ∨ s.timeUs < r.expiryUs)) ∧
  ∀ (s : State) (m : RouteMap) (n : Nat), s.ten.next = some (m, n) → s.ticking = true → n ≤ s.tk.tick →
    ∃ t, exec .routeMapActivate s = .next t ∧ t.ten.map = m ∧ t.ten.next = none ∧
      t.ten.old = some (s.ten.map, s.tk.startUs + 1000 * (if m.drainMs = 0 then 50 else m.drainMs), s.tk.tick) ∧
      t = { s with ss := { s.ss with reqs := t.ss.reqs, sessions := t.ss.sessions }, ten := t.ten }

/-! ### Handoffs -/

/-- The deadlines of a handoff: an offer without ACCEPT is marked to be taken back; a destination without an answer asks, and asks
again every 10 ms; HANDOFF_COMMIT ends with E_TIMEOUT at twice the time (R189, R191, R192). -/
def Obligations.HandoffDeadlines : Prop :=
  (∀ (s : State) (h : Word64) (x : HandoffSrc) (d : Nat), Tb.get s.ss.srcs h.toNat = some x → x.deadlineUs = some d →
    x.restored = false → x.reverted = false → x.aborted = none → s.pointReached d = true →
    exec (.handoffOfferDeadline h) s = .next { s with
      ss.srcs := Tb.upd s.ss.srcs h.toNat fun x => { x with aborted := some Status.eTimeout.code } }) ∧
  (∀ (s : State) (h : Word64) (x : HandoffDst) (d : Nat), Tb.get s.ss.dsts h.toNat = some x → x.deadlineUs = some d →
    x.owned = false → s.pointReached d = true →
    exec (.handoffAcceptDeadline h) s = .next (({ s with
      ss.dsts := Tb.upd s.ss.dsts h.toNat fun x =>
        { x with deadlineUs := none, nextQueryUs := some (s.tk.startUs + s.tickUs + 10000) } } : State).stage
      [s.ownerAsk h.toNat] x.session)) ∧
  (∀ (s : State) (h : Word64) (x : HandoffDst) (d : Nat), Tb.get s.ss.dsts h.toNat = some x → x.nextQueryUs = some d →
    x.owned = false → x.deadlineUs = none → s.pointReached d = true →
    exec (.ownerQueryRetry h) s = .next (({ s with
      ss.dsts := Tb.upd s.ss.dsts h.toNat fun x =>
        { x with nextQueryUs := some (s.tk.startUs + s.tickUs + 10000) } } : State).stage [s.ownerAsk h.toNat] x.session)) ∧
  (∀ (s : State) (h : Word64) (x : HandoffSrc) (d : Nat), Tb.get s.ss.dsts h.toNat = none →
    Tb.get s.ss.srcs h.toNat = some x → x.deadlineUs = some d → x.restored = true → x.reverted = false →
    s.pointReached d = true → exec (.ownerQueryRetry h) s = .next (({ s with
      ss.srcs := Tb.upd s.ss.srcs h.toNat fun x =>
        { x with deadlineUs := some (s.tk.startUs + s.tickUs + 10000) } } : State).stage [s.ownerAsk h.toNat] (some x.session))) ∧
  ∀ (s : State) (h : Word64) (x : HandoffDst) (c : Nat), Tb.get s.ss.dsts h.toNat = some x → x.cmd = some c →
    x.owned = false → x.session.isSome = true → x.by_ = none → x.aborted = none → s.pointReached x.settleUs = true →
    exec (.handoffSettleTimeout h) s = .next (({ s with
      ss.dsts := Tb.upd s.ss.dsts h.toNat fun x => { x with cmd := none } } : State).stage [.complete c .eTimeout []] x.session)

/-- The messages of a handoff, each by its type and its HANDOFF_ID: OFFER is kept and reported; ACCEPT, COMMIT and ABORT mark what
the coming commit point does; QUERY_OWNER is answered there; OWNER_REPLY with verdict 1 gives the session to the destination and with 0 or
2 gives it up; a tile joins those received. Every message read is kept as the last of its handoff (R189 to R192). -/
def Obligations.HandoffMessages : Prop :=
  (∀ (s : State) (src : Word64) (msg : BitVec 1024) (id : Nat), s.ticking = true → fieldAt (msgBytes msg) 8 8 = id → id ≠ 0 →
    (fieldAt (msgBytes msg) 0 1 = 1 →
      (∀ d, Tb.get s.ss.dsts id = some d → d.src = src.toNat ∧ d.session = none) →
      exec (.offer src msg) s = .next (({ s with
        ss.lastMsg := Tb.set s.ss.lastMsg id (msgBytes msg)
        ss.dsts := Tb.set s.ss.dsts id
          { (Tb.get s.ss.dsts id).getD (HandoffDst.fresh src.toNat) with offer := msgBytes msg } } : State).stage
        [.event 0xE001 (toLE 8 id ++ toLE 8 src.toNat)])) ∧
    (fieldAt (msgBytes msg) 0 1 = 2 → ∀ h, Tb.get s.ss.srcs id = some h → h.dst = src.toNat → h.reverted = false →
      s.grp.n ≤ 1 → exec (.accept src msg) s = .next { s with
        ss.lastMsg := Tb.set s.ss.lastMsg id (msgBytes msg)
        ss.srcs := Tb.upd s.ss.srcs id fun h => { h with accepted := some (fieldAt (msgBytes msg) 24 8) } }) ∧
    (fieldAt (msgBytes msg) 0 1 = 3 → ∀ d, Tb.get s.ss.dsts id = some d → d.src = src.toNat → d.session.isSome = true →
      d.owned = false → exec (.handoffMsgCommit src msg) s = .next { s with
        ss.lastMsg := Tb.set s.ss.lastMsg id (msgBytes msg)
        ss.dsts := Tb.upd s.ss.dsts id fun d => { d with by_ := some 0 } }) ∧
    (fieldAt (msgBytes msg) 0 1 = 4 → Tb.get s.ss.srcs id = none → ∀ d, Tb.get s.ss.dsts id = some d → d.src = src.toNat →
      d.owned = false → d.session.isSome = true → exec (.handoffMsgAbort src msg) s = .next { s with
        ss.lastMsg := Tb.set s.ss.lastMsg id (msgBytes msg)
        ss.dsts := Tb.upd s.ss.dsts id fun d => { d with aborted := some (fieldAt (msgBytes msg) 1 1) } }) ∧
    (fieldAt (msgBytes msg) 0 1 = 4 → Tb.get s.ss.dsts id = none → ∀ h, Tb.get s.ss.srcs id = some h → h.dst = src.toNat →
      h.reverted = false → s.grp.n ≤ 1 → exec (.handoffMsgAbort src msg) s = .next { s with
        ss.lastMsg := Tb.set s.ss.lastMsg id (msgBytes msg)
        ss.srcs := Tb.upd s.ss.srcs id fun h => { h with aborted := some (fieldAt (msgBytes msg) 1 1) } }) ∧
    (fieldAt (msgBytes msg) 0 1 = 5 → exec (.queryOwnerMsg src msg) s = .next (({ s with
      ss.lastMsg := Tb.set s.ss.lastMsg id (msgBytes msg) } : State).stage [.send (.device src.toNat)
        (.handoff (handoffMsg 6 0 id (fieldAt (msgBytes msg) 16 8) (fieldAt (msgBytes msg) 24 8) 0 0 0))])) ∧
    (fieldAt (msgBytes msg) 0 1 = 6 → ∀ d, Tb.get s.ss.dsts id = some d → d.src = src.toNat → d.session.isSome = true →
      d.owned = false → d.ask = none →
      (fieldAt (msgBytes msg) 1 1 = 1 → exec (.ownerReply src msg) s = .next { s with
        ss.lastMsg := Tb.set s.ss.lastMsg id (msgBytes msg)
        ss.dsts := Tb.upd s.ss.dsts id fun d => { d with by_ := some (d.by_.getD 1) } }) ∧
      ((fieldAt (msgBytes msg) 1 1 = 0 ∨ fieldAt (msgBytes msg) 1 1 = 2) → exec (.ownerReply src msg) s = .next { s with
        ss.lastMsg := Tb.set s.ss.lastMsg id (msgBytes msg)
        ss.dsts := Tb.upd s.ss.dsts id fun d => { d with aborted := some Status.eTimeout.code } }))) ∧
  ∀ (s : State) (src h : Word64) (tile : Nat) (data : Bytes), s.ticking = true → data.length = 65536 →
    (∀ d, Tb.get s.ss.dsts h.toNat = some d → d.src = src.toNat ∧ d.session = none) →
    exec (.hankTile src h tile data) s = .next { s with
      ss.dsts := Tb.set s.ss.dsts h.toNat
        { (Tb.get s.ss.dsts h.toNat).getD (HandoffDst.fresh src.toNat) with
          tiles := Tb.set ((Tb.get s.ss.dsts h.toNat).getD (HandoffDst.fresh src.toNat)).tiles tile data } }

/-! ### Model loads and group exchanges -/

/-- A chunk that passes its checks is kept and is no longer needed, and with the last one a group member reports LOADED, rank 0 to itself;
a chunk that fails, or takes 100 ms, fails the load, and in a group rank 0 is told or aborts the load; outside a group the loaded model
becomes active with LOAD_MODEL's completion; rank 0 gives up an exchange that waits too long; an exchange applies at the tick that
ACTIVATE named, with the completion of this member's own command (R91, R92). Reads after the accepting commit, and deadlines as events,
are the model's reading (log entries 12, 13 and 101). -/
def Obligations.ModelLoads : Prop :=
  (∀ (s : State) (j : Fin 8) (c : Nat) (m : Model), Tb.get s.img.models j.val = some m → m.state = .loading → c ∈ m.need →
    s.hostAbsent .port0 (m.addr + chunkOffset m.hdr c) = false →
    (∀ b, s.readChunk m c = .ok b →
      let t : State := { s with img.models := Tb.set s.img.models j.val { m with
        chunks := Tb.set m.chunks c b, need := m.need.filter (· != c), loaded := (m.need.filter (· != c)).isEmpty } }
      (m.group = false ∨ m.need.filter (· != c) ≠ [] → exec (.modelChunkRead j c) s = .next t) ∧
      let u : State := { s with img.models := Tb.set s.img.models j.val { m with
        chunks := Tb.set m.chunks c b, need := [], loaded := true
        others := s.readOthers { m with chunks := Tb.set m.chunks c b, need := [], loaded := true } } }
      ∀ k e, m.group = true → m.need.filter (· != c) = [] → s.exchangeBy m.digest = some (k, e) →
        Tb.get s.img.exchanges k = some e →
        (s.glb.rank = 0 → exec (.modelChunkRead j c) s = .next { u with img.exchanges := Tb.upd s.img.exchanges k fun x =>
          { x with loadedHere := true, loadedRanks := x.loadedRanks ++ [(0, s.lastVersionFor e.what)] } }) ∧
        (s.glb.rank ≠ 0 → exec (.modelChunkRead j c) s = .next (State.stage { u with
          img.exchanges := Tb.upd s.img.exchanges k fun x => { x with loadedHere := true } }
          [.send (.rank 0) (.loaded e.digest (s.lastVersionFor e.what))]))) ∧
    ∀ st, (s.readChunk m c = .error st → exec (.modelChunkRead j c) s = .next (s.failLoad j.val m st)) ∧
      exec (.modelChunkTimeout j c) s = .next (s.failLoad j.val m .eTimeout) ∧
      s.failLoad j.val m st = ({ s with
        img.models := Tb.set s.img.models j.val { m with need := [], loaded := false }
        img.exchanges := match (s.exchangeBy m.digest).filter fun e => match e.2.what with | .model k => k = j.val | _ => false with
          | some e => Tb.del s.img.exchanges e.1
          | none => s.img.exchanges } : State).stage
        ([.modelFree j.val] ++ (m.cmd.map fun d => (.complete d st [] : Effect)).toList ++
          if s.glb.inGroup = false ∨ m.group = false then []
          else if s.glb.rank = 0 then ((List.range s.grp.n).filter (· ≠ 0)).map fun r => .send (.rank r) (.abort m.digest)
          else [.send (.rank 0) (.failed m.digest st.code)])) ∧
  (∀ (s : State) (j : Fin 8) (m : Model), Tb.get s.img.models j.val = some m → m.state = .loading → m.loaded = true →
    (m.group = false → exec (.modelActivate j) s = .next (({ s with
      img.models := Tb.set s.img.models j.val { m with loaded := false } } : State).stage
      (.modelActive j.val :: (m.cmd.map fun c => (.complete c .ok (toLE 1 j.val) : Effect)).toList))) ∧
    (m.group = true → exec (.modelActivate j) s = .next s)) ∧
  (∀ (s : State) (k : Nat) (e : Exchange), Tb.get s.img.exchanges k = some e → s.glb.rank = 0 → e.applyTick = none →
    s.pointReached e.waitUs = true → exec (.groupWaitTimeout k) s = .next (({ s with
      img.exchanges := Tb.del s.img.exchanges k } : State).stage (e.undo .eTimeout ++
        (((List.range s.grp.n).filter (· ≠ s.glb.rank)).map fun r => .send (.rank r) (.abort e.digest))))) ∧
  ∀ (s : State) (k n : Nat) (e : Exchange), Tb.get s.img.exchanges k = some e → e.applyTick = some n → s.ticking = true →
    (s.tk.tick < n → exec (.groupApply k) s = .next s) ∧
    (n ≤ s.tk.tick →
      let t : State := { s with img.exchanges := Tb.del s.img.exchanges k }
      let done (res : Bytes) : List Effect := (e.cmd.map fun c => .complete c .ok res).toList
      exec (.groupApply k) s = .next (t.stage (match e.what with
        | .model j => [.modelActive j] ++ done (toLE 1 j)
        | .adapter _ a => [.adapterAdd { a with ver := e.version }] ++ done (toLE 2 e.version)
        | .grammar id g => [.grammarSet id (some g)] ++ done []
        | .vocab j v => [.vocabSet j (some v)] ++ done []
        | .forward op c body => t.forwardedEffects e op c body
        | .checkpoint => [.chkptOrder]
        | .others => [])))

/-! ### Group messages -/

/-- The coordinator decides a group unit once all have reported, COMMIT where all are READY and ABANDON where one is not; a member
keeps the first decision it hears; a query is answered with the decision kept; the buddy stages a mirror's entries and acknowledges
them; STATUS shows that its sender lives (R48, R49, R287, R293, R295). A message from a device that is no member, or from or to another than
the one it is for, has no effect. The name that a unit goes by in messages is the model's (log entry 71). -/
def Obligations.UnitMessages : Prop :=
  (∀ (s : State) (rank : Fin 64) (key : UnitKey), s.fromMember rank = true → s.glb.rank = s.coordinator key →
    ∀ ok : Bool, ∃ t : State, (if ok then exec (.ready rank key) s else exec (.notReady rank key) s) = .next t ∧
      t.work.votes = s.work.votes ++ [(key, rank.val, ok)] ∧
      t.decisionOf key = (if (s.decisionOf key).isSome then s.decisionOf key
        else if t.work.votes.any (fun v => decide (v.1 = key) && !v.2.2) then some false
        else if (s.participants key).all (fun r => t.work.votes.any fun v => decide (v.1 = key) && decide (v.2.1 = r)) then some true
        else none) ∧
      t = { s.sentAs t with work := { s.work with votes := t.work.votes, decisions := t.work.decisions } }) ∧
  (∀ (s : State) (rank : Fin 64) (key : UnitKey), s.fromMember rank = true → rank.val = s.coordinator key → s.decisionOf key = none →
    exec (.commit rank key) s = .next { s with work.decisions := s.work.decisions ++ [⟨s.tk.tick, key, true⟩] } ∧
    exec (.abandon rank key) s = .next { s with work.decisions := s.work.decisions ++ [⟨s.tk.tick, key, false⟩] }) ∧
  (∀ (s : State) (rank : Fin 64) (key : UnitKey) (c : Bool), s.fromMember rank = true → s.glb.rank = s.coordinator key →
    s.decisionOf key = some c → exec (.decisionQuery rank key) s =
      .next (s.sendMsg (.rank rank.val) 0 (if c then .commit key else .abandon key))) ∧
  (∀ (s : State) (rank : Fin 64) (key : UnitKey) (es : List MirrorEntry), s.fromMember rank = true →
    (rank.val + 1) % s.grp.n = s.glb.rank → ∃ t : State, exec (.mirror rank key es) s = .next t ∧
      t.grp.mirrorStaged = s.grp.mirrorStaged ++ es.map (fun e => (key, e)) ∧
      t = { s.sentAs t with grp := { (s.sentAs t).grp with mirrorStaged := t.grp.mirrorStaged } }) ∧
  (∀ (s : State) (rank : Fin 64) (key : UnitKey), s.fromMember rank = true → rank.val = (s.glb.rank + 1) % s.grp.n →
    exec (.mirrorAck rank key) s = .next { s with work.acks := s.work.acks ++ [key] }) ∧
  (∀ (s : State) (rank : Fin 64) (tick : BitVec 48) (counts : List Nat), s.fromMember rank = true →
    exec (.status rank tick counts) s = .next { s with
      grp.statusSeen := s.grp.statusSeen ++ [(rank.val, tick.toNat, counts.getD s.glb.rank 0)]
      grp.missed := Tb.set s.grp.missed rank.val 0 }) ∧
  ∀ (s : State) (rank : Fin 64) (key : UnitKey),
    (s.fromMember rank = false ∨ s.glb.rank ≠ s.coordinator key → exec (.ready rank key) s = .next s ∧
      exec (.notReady rank key) s = .next s ∧ exec (.decisionQuery rank key) s = .next s) ∧
    (s.decisionOf key = none → exec (.decisionQuery rank key) s = .next s) ∧
    (s.fromMember rank = false ∨ rank.val ≠ s.coordinator key ∨ (s.decisionOf key).isSome = true →
      exec (.commit rank key) s = .next s ∧ exec (.abandon rank key) s = .next s) ∧
    (s.fromMember rank = false ∨ (rank.val + 1) % s.grp.n ≠ s.glb.rank → ∀ es, exec (.mirror rank key es) s = .next s) ∧
    (s.fromMember rank = false ∨ rank.val ≠ (s.glb.rank + 1) % s.grp.n → exec (.mirrorAck rank key) s = .next s) ∧
    (s.fromMember rank = false → ∀ tick counts, exec (.status rank tick counts) s = .next s)

/-- A committed message from another member waits for its delivery, counted for the tick before (R47, R287); a pair of
TABLE_DIGEST is held by the lowest rank (R35); a command on sessions or stores that another member has accepted acts in this tick's
commit, with what is local to that member left out (R168), and where it is an INSERT, a DELETE or a COMPACT with this member's vote
(R225, R228); ACT leaves the state as it is. At its delivery LOADED is counted once, FAILED aborts a load, ACTIVATE names the commit
point of a change, ABORT undoes it with E_TIMEOUT, a verdict decides the staged table, and TOPK gives a query the sender's list (R35, R92,
R235). The tick that a message counts for, and that ACT and TRACE leave nothing, are the model's choice (log entries 14 and 76), and so
are E_TIMEOUT for a member that is still loading, and what LOADED does before a load has begun (log entries 125 and 126). -/
def Obligations.CommittedMessages : Prop :=
  (∀ (s : State) (rank : Fin 64), s.fromMember rank = true →
    (∀ d v, exec (.loaded rank d v) s = .next { s with inbox := s.inbox ++ [(rank.val, s.tk.tick - 1, .loaded rank d v)] }) ∧
    (∀ d st, exec (.failed rank d st) s = .next { s with inbox := s.inbox ++ [(rank.val, s.tk.tick - 1, .failed rank d st)] }) ∧
    (∀ i, exec (.move rank i) s = .next { s with inbox := s.inbox ++ [(rank.val, s.tk.tick - 1, .move rank i)] }) ∧
    (∀ b, exec (.traceMsg rank b) s = .next { s with inbox := s.inbox ++ [(rank.val, s.tk.tick - 1, .traceMsg rank b)] }) ∧
    (∀ (stamp : Word64) q hits, exec (.topk rank stamp q hits) s =
      .next { s with inbox := s.inbox ++ [(rank.val, stamp.toNat / 65536, .topk rank stamp q hits)] }) ∧
    (∀ c b, memberOp c = false → exec (.forward rank c b) s =
      .next { s with inbox := s.inbox ++ [(rank.val, s.tk.tick - 1, .forward rank c b)] }) ∧
    (∀ c b f, memberOp c = true → checkOf (Cmd.op c) = some f → Cmd.op c ≠ 0x0402 → Cmd.op c ≠ 0x0903 →
      (∀ effs, f s.view (s.forwardCtx rank.val c b) = .ok effs →
        exec (.forward rank c b) s =
          .next (s.stage (.fromRank rank.val :: groupVoteOf rank.val c ++ effs.filter fun e => !e.localOnly))) ∧
      (∀ e, f s.view (s.forwardCtx rank.val c b) = .error e → exec (.forward rank c b) s = .next s)) ∧
    ∀ (id : Word32) d, s.glb.rank = 0 → exec (.tableDigest rank id d) s =
      .next { s with tk.digests := Tb.set s.tk.digests rank.val (id.toNat, d) }) ∧
  (∀ s : State, s.inTicks = true → s.glb.rank ≠ 0 →
    (∀ go, exec (.tableVerdict go) s = .next { s with inbox := s.inbox ++ [(0, s.tk.tick - 1, .tableVerdict go)] }) ∧
    (∀ d t v, exec (.activate d t v) s = .next { s with inbox := s.inbox ++ [(0, s.tk.tick - 1, .activate d t v)] }) ∧
    ∀ d, exec (.abort d) s = .next { s with inbox := s.inbox ++ [(0, s.tk.tick - 1, .abort d)] }) ∧
  (∀ (s : State) (rank : Fin 64), s.fromMember rank = false → ∀ d v st m b (id : Word32) (stamp : Word64) q hits c,
    exec (.loaded rank d v) s = .next s ∧ exec (.failed rank d st) s = .next s ∧ exec (.move rank m) s = .next s ∧
    exec (.traceMsg rank b) s = .next s ∧ exec (.tableDigest rank id d) s = .next s ∧
    exec (.topk rank stamp q hits) s = .next s ∧ exec (.forward rank c b) s = .next s) ∧
  (∀ (s : State) (rank : Fin 64) (b : Bytes), exec (.act rank b) s = .next s) ∧
  (∀ (s : State) (d : Digest) (k : Nat) (e : Exchange), s.exchangeBy d = some (k, e) →
    (∀ (r : Fin 64) v, s.deliver (.loaded r d v) = (if e.loadedRanks.any fun l => decide (l.1 = r.val) then s else { s with
      img.exchanges := Tb.upd s.img.exchanges k fun x => { x with loadedRanks := x.loadedRanks ++ [(r.val, v)] } })) ∧
    (∀ (t : BitVec 48) v, s.deliver (.activate d t v) = { s with
      img.exchanges := Tb.upd s.img.exchanges k fun x => { x with applyTick := some t.toNat, version := v } }) ∧
    s.deliver (.abort d) = ({ s with img.exchanges := Tb.del s.img.exchanges k } : State).stage (e.undo .eTimeout) ∧
    ∀ (r : Fin 64) st, s.glb.rank = 0 → e.what ≠ .checkpoint → (∀ c b, e.what ≠ .forward 0x0602 c b) → s.deliver (.failed r d st) =
      (({ s with img.exchanges := Tb.del s.img.exchanges k } : State).stage (e.undo .eTimeout)).stage
        (((List.range s.grp.n).filter (· ≠ 0)).map fun r => .send (.rank r) (.abort d))) ∧
  ∀ s : State, (∀ g, s.tk.staged = some g →
      s.deliver (.tableVerdict true) = { s with
        tk.verdictSent := true, tk.staged := some { g with verdict := some true } }) ∧
    s.deliver (.tableVerdict false) = { s with
      tk.verdictSent := true, tk.staged := none, tk.schedMismatch := true, tk.rose := s.tk.rose || !s.tk.schedMismatch } ∧
    ∀ (r : Fin 64) stamp q hits, s.deliver (.topk r stamp q hits) = { s with
      st.queries := Tb.upd s.st.queries q fun x => { x with lists := Tb.set x.lists r.val hits } }

/-- A member without STATUS for four commit points is lost: too few survivors leave their group, hold their state and take no units,
with nothing staged but the GROUP event (the model's choice, log entry 134); the lowest surviving rank announces the survivors and
C = L + 2; just after C the survivors are the group, renumbered in order, and a new lowest rank without a staged table drops in place
of a decider lost before its verdict (log entry 57); a removed device has 60 s (R29, R35, R295, R296, R300). -/
def Obligations.Members : Prop :=
  (∀ (s : State) (rank : Fin 64), s.inTicks = true → rank.val < s.grp.n → s.silent rank.val = true → s.grp.shrink = none →
    let surv := (List.range s.grp.n).filter fun r => !s.silent r
    (quorum s.grp.n surv = false → ∃ t : State, exec (.memberLost rank) s = .next t ∧ t.glb.inGroup = false ∧ t.glb.rank = 0 ∧
      t.grp.n = 1 ∧ t.tk.noUnits = true ∧ t.work.queue = [] ∧ t.work.running = [] ∧
      t.ss = s.ss ∧ t.grp.held = true ∧ t.work.steward = [⟨none, 16, none, [t.groupEvent]⟩]) ∧
    (quorum s.grp.n surv = true → surv.head? = some s.glb.rank → exec (.memberLost rank) s =
      .next (({ s with grp.shrink := some (rankMask surv, s.tk.tick + 2) } : State).stage
        (((List.range s.grp.n).filter (· ≠ s.glb.rank)).map fun r => .send (.rank r) (.shrink (rankMask surv) (s.tk.tick + 2))))) ∧
    (quorum s.grp.n surv = true → surv.head? ≠ some s.glb.rank → exec (.memberLost rank) s = .next s)) ∧
  (∀ (s : State) (m : Word64) (c : BitVec 48), s.inTicks = true →
    exec (.shrink m c) s = .next { s with grp.shrink := some (m, c.toNat) }) ∧
  (∀ (s : State) (surv : Word64) (c : Nat), s.grp.shrink = some (surv, c) → s.inTicks = true → c < s.tk.tick →
    let ranks := (List.range s.grp.n).filter surv.getLsbD
    ∃ t : State, exec .widthChange s = .next t ∧ t.grp.n = ranks.length ∧
      t.grp.members = ranks.map (fun r => s.grp.members.getD r 0) ∧ t.grp.shrink = none ∧ t.grp.missed = [] ∧
      t.glb.inGroup = true ∧ (∀ k, ranks.idxOf? s.glb.rank = some k → t.glb.rank = k) ∧
      (s.keptRank surv ≠ some s.glb.rank → ⟨none, 16, none, [t.groupEvent]⟩ ∈ t.work.steward) ∧
      (s.decidesDrop surv c = true → t.tk.verdictSent = true ∧ t.tk.schedMismatch = true ∧ t.work.steward.getLast? =
        some ⟨none, 16, none, ((List.range t.grp.n).filter (· ≠ t.glb.rank)).map fun r => .send (.rank r) (.tableVerdict false)⟩)) ∧
  ∀ s : State, s.grp.shrinkUntilUs ≠ 0 → s.pointReached s.grp.shrinkUntilUs = true → ∃ t : State, exec .shrinkTimeout s = .next t ∧
    t.grp.shrinkUntilUs = 0 ∧ t.grp.shrinkCmd = none ∧
    (s.grp.leaving = true → t.grp.moves = []) ∧
    t.work.steward = s.work.steward ++ (s.grp.shrinkCmd.map fun x => (⟨none, 16, none, [.complete x.1 .eTimeout []]⟩ : Item)).toList ∧
    t = { s with work := { s.work with steward := t.work.steward }
                 grp := { s.grp with shrinkUntilUs := 0, shrinkCmd := none, moves := t.grp.moves } }

/-- Rank 0 of a join counts each device's acknowledgement and gives the join up on a failure; JOIN_PROPOSE names JOIN_TICK
and begins the pin samples; at JOIN_TICK the device takes its rank, its group and the tick number, and GROUP_JOIN's completion is staged; a join that takes too
long is given up (R290, R291). -/
def Obligations.Joining : Prop :=
  (∀ (s : State) (d : Bytes) (rank : Fin 64) (st : Fin 16), s.grp.join = some d → descOwn d = some 0 → rank.val < descN d →
    s.grp.joinTick = none →
    (st.val ≠ 0 → exec (.joinAck rank st) s = .next (s.failJoin (statusOf st.val))) ∧
    (st.val = 0 → rank.val ∉ s.grp.joinAcks →
      exec (.joinAck rank st) s = .next { s with grp.joinAcks := s.grp.joinAcks ++ [rank.val] }) ∧
    (st.val = 0 → rank.val ∈ s.grp.joinAcks → exec (.joinAck rank st) s = .next s)) ∧
  (∀ (s : State) (tick : BitVec 48) (table : Bytes), s.grp.join.isSome = true →
    exec (.joinPropose tick table) s = .next { s with
      grp.joinTick := some tick.toNat, grp.joinTable := table, tk.pinEdge := none, tk.pinMark := none, tk.pinSamples := [] }) ∧
  (∀ (s : State) (d : Bytes) (own : Nat) (tick : BitVec 48) (copy : Option JoinCopy), s.grp.join = some d → descOwn d = some own →
    s.grp.joinTick = some tick.toNat → (own = 0 → s.tk.tick = tick.toNat) → descMode d = 0 →
    ∃ t : State, exec (.joinGo tick copy) s = .next t ∧ t.glb.inGroup = true ∧ t.glb.rank = own ∧ t.tk.tick = tick.toNat ∧
      t.grp.groupId = fieldAt d 8 8 ∧ t.grp.n = descN d ∧ t.grp.members = (List.range (descN d)).map (descId d) ∧
      t.grp.join = none ∧ t.grp.joinCmd = none ∧ t.tk.noUnits = false ∧ t.tk.staged = none ∧
      t.tk.table = (if own = 0 then s.tk.table else tableOf s.grp.joinTable) ∧
      t.work = { s.work with steward := s.work.steward ++
        (s.grp.joinCmd.map fun c => (⟨none, 16, none, [.complete c .ok (toLE 1 own)]⟩ : Item)).toList ++
        [⟨none, 16, none, [t.groupEvent]⟩] }) ∧
  (∀ s : State, s.grp.join.isSome = true → s.pointReached s.grp.joinUntilUs = true →
    exec .joinTimeout s = .next (s.failJoin .eTimeout)) ∧
  ∀ (s : State) (st : Status), (s.failJoin st).grp = { s.grp with
      join := none, joinCmd := none, joinTick := none, joinTable := [], joinAcks := [] } ∧
    (s.failJoin st).work.steward = s.work.steward ++
      (s.grp.joinCmd.map fun c => (⟨none, 16, none, [.complete c st []]⟩ : Item)).toList

/-- HELLO: over a link the port takes the version that both name and the peer's device, and drops what names none with an error
record; phase 1 of an exchange gives the peer's nonce and key; phase 2 installs the keys where it names the same device and its
report is accepted, and gives a join up with E_AUTH where not; another Twine or group protocol gives it up with E_VERSION (R279, R290, R315, R316). -/
def Obligations.HelloMessages : Prop :=
  (∀ (s : State) (p : Fin 20) (b : Bytes), 12 ≤ b.length → (s.ports[p]).state = .keying →
    (helloVersion b = none → exec (.hello (.link p) b) s = .next (s.traceRec 0x8006 20 (toLE 1 p.val))) ∧
    ∀ n, helloVersion b = some n → fieldAt b 0 8 ≠ 0 → b.length < 1792 → exec (.hello (.link p) b) s = .next { s with
      ports := s.ports.set p { s.ports[p] with version := n, peerId := fieldAt b 0 8 } }) ∧
  (∀ (s : State) (v : HelloVia) (b : Bytes), 1792 ≤ b.length → fieldAt b 12 1 = v.kind → fieldAt b 16 8 = s.helloContext v →
    fieldAt b 13 1 = 1 →
    (∀ r, v = .member r → s.grp.join.isSome = true ∧ helloVersion b = some 0x22 ∧ fieldAt b 10 2 = 0x0100) →
    (∀ p, v = .link p → (s.ports[p]).state = .keying ∧ (helloVersion b).isSome = true ∧ fieldAt b 0 8 ≠ 0) →
    ∃ (t : State) (x : KeyExchange), exec (.hello v b) s = .next t ∧ t.exchangeOf v = some x ∧ x.gotPhase1 = true ∧
      x.peerId = fieldAt b 0 8 ∧ x.peerNonce = sliceAt b 24 32 ∧ x.peerEph = sliceAt b 56 97 ∧ x.done = ((s.exchangeOf v).map (·.done)).getD false) ∧
  (∀ (s : State) (v : HelloVia) (b : Bytes) (x : KeyExchange), 1792 ≤ b.length → fieldAt b 12 1 = v.kind →
    fieldAt b 16 8 = s.helloContext v → fieldAt b 13 1 = 2 → s.exchangeOf v = some x → x.gotPhase1 = true → x.done = false →
    (∀ r, v = .member r → s.grp.join.isSome = true → helloVersion b = some 0x22 → fieldAt b 10 2 = 0x0100 →
      (fieldAt b 0 8 = x.peerId → s.acceptsReport v x (sliceAt b 160 1632) = true →
        exec (.hello v b) s = .next ((s.putExchange v (some { x with done := true })).installExchange v x |>.ackJoin 0)) ∧
      ((fieldAt b 0 8 ≠ x.peerId ∨ s.acceptsReport v x (sliceAt b 160 1632) = false) →
        exec (.hello v b) s = .next ((s.ackJoin Status.eAuth.code).failJoin .eAuth))) ∧
    ∀ h, v = .transport h → (fieldAt b 0 8 ≠ x.peerId ∨ s.acceptsReport v x (sliceAt b 160 1632) = false) → exec (.hello v b) s =
      .next { s with ss.srcs := Tb.upd s.ss.srcs h.toNat fun y => { y with aborted := some Status.eAuth.code } }) ∧
  ∀ (s : State) (r : Fin 64) (b : Bytes), 12 ≤ b.length → s.grp.join.isSome = true →
    (helloVersion b ≠ some 0x22 ∨ fieldAt b 10 2 ≠ 0x0100) →
    exec (.hello (.member r) b) s = .next ((s.ackJoin Status.eVersion.code).failJoin .eVersion)

/-! ### Twine ports -/

/-- Training ends DOWN without lanes and else in KEYING with sequences, phases and credits afresh; a DOWN port trains again after
a second; a port
that has failed goes DOWN with its credits void; a key phase ends; at a 1 µs boundary the shapers refill; a gate list takes over at
its tick, and its entry governs from its offset (R271, R274 to R276, R282 to R286). -/
def Obligations.Ports : Prop :=
  (∀ (s : State) (p : Fin 20) (lanes : BitVec 8), (s.ports[p]).state = .training →
    (lanesUsed lanes = 0 → exec (.linkTrained p lanes) s = .next { s with
      ports := s.ports.set p { s.ports[p] with state := .down, downUs := s.timeUs } }) ∧
    (lanesUsed lanes ≠ 0 → ∃ (t : State) (k : KeyExchange), exec (.linkTrained p lanes) s = .next t ∧ t = s.sentAs t ∧
      s.portNow p { s.ports[p] with
        state := .keying, laneMap := lanesUsed lanes, version := 0, peerRank := 0xFF, peerId := 0, secret := [], salt := zeros 4
        txPhase := 0, rxPhase := 0, rxSeq := 0, retryUs := none, ackUs := s.timeUs, tagFails := 0, toReturn := List.replicate 8 0
        partials := List.replicate 8 [], exchange := some k, echoes := [] } t)) ∧
  (∀ (s : State) (p : Fin 20) (due : Nat), (s.ports[p]).state = .down → due = (s.ports[p]).downUs + 1000000 →
    let x : Port := { s.ports[p] with state := .training }
    (s.ticking = true → due ≤ s.tk.startUs + s.tickUs → exec (.portRetrain p) s = .next { s with ports := s.ports.set p x }) ∧
    (s.ticking = true → s.tk.startUs + s.tickUs < due → exec (.portRetrain p) s = .next s) ∧
    (s.ticking = false → exec (.portRetrain p) s = .next { s with timeUs := Nat.max s.timeUs due, ports := s.ports.set p x })) ∧
  (∀ (s : State) (p : Fin 20), (s.ports[p]).live = true →
    (3 ≤ (s.ports[p]).tagFails ∨ ∃ f ∈ (s.ports[p]).retryBuf, 16 ≤ f.resent) →
    ∃ t : State, exec (.portDown p) s = .next t ∧ t = s.sentAs t ∧ s.portNow p { s.ports[p] with
      state := .down, version := 0, peerRank := 0xFF, peerId := 0, laneMap := 0, toReturn := List.replicate 8 0
      partials := List.replicate 8 [], exchange := none, tagFails := 0, downUs := s.timeUs } t) ∧
  (∀ (s : State) (p : Fin 20), (s.ports[p]).up = true → exec (.keyPhaseSwitch p) s = .next { s with
    ports := s.ports.set p { s.ports[p] with
      txPhase := (s.ports[p]).txPhase + 1
      txSeq := Nat.max (s.ports[p]).txSeq (((s.ports[p]).txPhase + 1) * 2 ^ 31) } }) ∧
  (∀ (s : State) (p : Fin 20), ∃ t : State, exec (.linkShaperRefill p) s = .next t ∧ t = s.sentAs t ∧
    s.portNow p { s.ports[p] with toReturn := List.replicate 8 0 } t ∧
    ((s.ports[p]).txq = [] → t = { s with ports := s.ports.set p { s.ports[p] with
      toReturn := List.replicate 8 0, shapers := (s.ports[p]).shapers.mapIdx fun _ h => h.refill false } })) ∧
  (∀ (s : State) (p : Fin 20) (g : GateList), (s.ports[p]).stagedGates = some g → s.ticking = true → g.takeover ≤ s.tk.tick →
    ∃ t : State, exec (.gateTakeover p) s = .next t ∧ t = s.sentAs t ∧
      s.portNow p { s.ports[p] with gates := g, stagedGates := none, gateEntry := 0 } t) ∧
  ∀ (s : State) (p : Fin 20) (i : Fin 32) (e : Nat × BitVec 8), (s.ports[p]).gates.entries[i.val]? = some e → s.ticking = true →
    e.1 < s.tickUs → s.timeUs ≤ s.tk.startUs + e.1 → ∃ t : State, exec (.gateEntrySwitch p i) s = .next t ∧
      t = { s.sentAs t with timeUs := s.tk.startUs + e.1 } ∧ s.portNow p { s.ports[p] with gateEntry := i.val } t

/-- Flits: only the next SEQ in order is accepted; one that fails its FEC or its tag, or leaves a gap, asks for the expected SEQ
again and leaves the sequence; an IDLE flit that repeats the last SEQ gives its ACK and credits; what has been sent is resent from the SEQ asked for, or all of it; ECHO is answered, and its reply
counts (R273 to R277, R291). -/
def Obligations.Flits : Prop :=
  (∀ (s : State) (p : Fin 20) (flit : BitVec 2048) (ok : Bool), (s.ports[p]).live = true → (s.ports[p]).tagFails < 3 →
    let x := s.ports[p]
    let f := toLE 256 flit.toNat
    (ok = false → ∃ t : State, exec (.flit p flit ok) s = .next t ∧ t = s.sentAs t ∧
      s.portNow p { x with fecUncorr := Nat.min (x.fecUncorr + 1) 0xFFFFFFFF, retryUs := some s.timeUs } t) ∧
    (ok = true → fieldAt f 2 2 ≠ x.rxSeq % 65536 → seqLe (x.rxSeq % 65536) (fieldAt f 2 2) = true →
      ∃ t : State, exec (.flit p flit ok) s = .next t ∧ t = s.sentAs t ∧ s.portNow p { x with retryUs := some s.timeUs } t) ∧
    (ok = true → fieldAt f 2 2 = x.rxSeq % 65536 → x.openFlit x.rxSeq f = none →
      ∃ t : State, exec (.flit p flit ok) s = .next t ∧ t = s.sentAs t ∧
        s.portNow p { x with tagFails := x.tagFails + 1, retryUs := some s.timeUs } t) ∧
    (ok = true → fieldAt f 2 2 = x.rxSeq % 65536 → (x.openFlit x.rxSeq f).isSome = true →
      (∃ t : State, exec (.flit p flit ok) s = .next t ∧ t = { s.sentAs t with
        grp := { (s.sentAs t).grp with gotSeq := t.grp.gotSeq } } ∧
        s.portNow p { x with
          rxSeq := x.rxSeq + 1, rxPhase := if x.state == .keying then 0 else x.phaseOf f, tagFails := 0
          partials := (t.ports[p]).partials } t) ∧
      (fieldAt f 0 1 = 0 → x.txq = [] → s.glb.inGroup = false → exec (.flit p flit ok) s = .next { s with
        ports := s.ports.set p { x.takeAck s.timeUs f with
          rxSeq := x.rxSeq + 1, rxPhase := if x.state == .keying then 0 else x.phaseOf f, tagFails := 0 } })) ∧
    (ok = true → (fieldAt f 2 2 + 1) % 65536 = x.rxSeq % 65536 → seqLe (x.rxSeq % 65536) (fieldAt f 2 2) = false → fieldAt f 0 1 = 0 →
      (x.openFlit (x.rxSeq - 1) f).isSome = true → x.txq = [] → exec (.flit p flit ok) s = .next { s with
        ports := s.ports.set p (x.takeAck s.timeUs f) })) ∧
  (∀ (s : State) (p : Fin 20) (seq : BitVec 16), (s.ports[p]).live = true → exec (.retry p seq) s = .next { s with
    ports := s.ports.set p { s.ports[p] with
      retries := Nat.min ((s.ports[p]).retries + (s.ports[p]).retryBuf.countP fun f => seqLe seq.toNat f.seq) 0xFFFFFFFF
      retryBuf := (s.ports[p]).retryBuf.map fun f => if seqLe seq.toNat f.seq then { f with resent := f.resent + 1 } else f } }) ∧
  (∀ (s : State) (p : Fin 20), (s.ports[p]).live = true → (s.ports[p]).retryBuf ≠ [] → exec (.linkRetryTimeout p) s = .next { s with
    timeUs := Nat.max s.timeUs ((s.ports[p]).ackUs + 4)
    ports := s.ports.set p { s.ports[p] with
      ackUs := Nat.max s.timeUs ((s.ports[p]).ackUs + 4)
      retries := Nat.min ((s.ports[p]).retries + (s.ports[p]).retryBuf.length) 0xFFFFFFFF
      retryBuf := (s.ports[p]).retryBuf.map fun f => { f with resent := f.resent + 1 } } }) ∧
  (∀ (s : State) (p : Fin 20) (ns : Word64), (s.ports[p]).up = true →
    exec (.echo p ns) s = .next (s.sendMsg (.port p.val) 0 (.echoReply ns.toNat))) ∧
  ∀ (s : State) (p : Fin 20) (ns now : Word64), (s.ports[p]).up = true → ∃ t : State, exec (.echoReply p ns now) s = .next t ∧
    t = s.sentAs t ∧ s.portNow p ((s.ports[p]).sample (now - ns).toNat) t ∧
    (((s.ports[p]).sample (now - ns).toNat).echoes = [] → t = { s with ports := s.ports.set p ((s.ports[p]).sample (now - ns).toNat) })

/-! ### Translations, watchdogs and the self-test -/

/-- A translation is cached and what waits for its page goes on; an absent page is requested once; a response, or 100 ms without
one, ends the wait, and the units that waited leave their queue where the page is refused; an invalidation drops the translation;
what a ring or a queue could not take is written once its page is present (R216, R217, R219, R220). -/
def Obligations.Translations : Prop :=
  (∀ (s : State) (sp : HostSpace) (page : Nat),
    (∀ f, ∃ t : State, exec (.atsResponse sp page (some f)) s = .next t ∧ (sp, page, f) ∈ t.ats.cache ∧
      (∀ c ∈ t.ats.cache, c.1 = sp → c.2.1 = page → c.2.2 = f) ∧ (sp, page) ∉ t.ats.absent ∧
      (∀ r ∈ t.ats.requests, ¬(r.1 = sp ∧ r.2.1 = page)) ∧ (∀ u ∈ t.work.queue, u.paused ≠ some (sp, page)) ∧
      t = { s with dbg := t.dbg, ats := t.ats, work := { s.work with queue := t.work.queue } }) ∧
    ∃ t : State, exec (.atsResponse sp page none) s = .next t ∧ (sp, page) ∈ t.ats.absent ∧
      (∀ c ∈ t.ats.cache, ¬(c.1 = sp ∧ c.2.1 = page)) ∧
      t.ats.requests = s.ats.requests ++ (if s.ats.requests.any fun r => decide (r.1 = sp) && decide (r.2.1 = page) then []
        else [(sp, page, s.timeUs)]) ∧
      t = { s with dbg := t.dbg, ats := t.ats }) ∧
  (∀ (s : State) (sp : HostSpace) (page : Nat), (∃ r ∈ s.ats.requests, r.1 = sp ∧ r.2.1 = page) →
    (∃ t : State, exec (.pageResponse sp page true) s = .next t ∧ (sp, page) ∉ t.ats.absent ∧
      (∀ r ∈ t.ats.requests, ¬(r.1 = sp ∧ r.2.1 = page)) ∧ (∀ u ∈ t.work.queue, u.paused ≠ some (sp, page)) ∧
      t = { s with ats := t.ats, work := { s.work with queue := t.work.queue } }) ∧
    exec (.pageResponse sp page false) s = .next (s.failPage sp page .eRange) ∧
    ((∀ r ∈ s.ats.requests, r.1 = sp → r.2.1 = page → s.pointReached (r.2.2 + 100000) = true) →
      exec (.pageRequestTimeout sp page) s = .next (s.failPage sp page .eTimeout)) ∧
    ∀ st, (∀ u ∈ (s.failPage sp page st).work.queue, u.paused ≠ some (sp, page)) ∧
      ∀ r ∈ (s.failPage sp page st).ats.requests, ¬(r.1 = sp ∧ r.2.1 = page)) ∧
  (∀ (s : State) (sp : HostSpace) (page : Nat), ∃ l, exec (.atsInvalidation sp page) s = .next { s with ats.cache := l } ∧
    ∀ c, c ∈ l ↔ c ∈ s.ats.cache ∧ ¬(c.1 = sp ∧ c.2.1 = page)) ∧
  ∀ (s : State) (page : Nat), s.tk.windowOpen = true → s.ats.absent.contains (.port0, page) = false →
    exec (.delayedRingWrite .port0 page) s =
      .next ((List.finRange 64).foldl State.flushCq ((s.ss.reqs.map (·.1)).foldl (fun s r => s.flushRing r) s).flushLate).flushDci

/-- A watchdog that runs out sets its bit and declares a hang, whose event and dump are staged; a self-test that ends replaces its
record, or marks it REFUSED; a session's record of a RESTORE is placed, and the last one completes the command (R246, R338, R339,
R356, R375, R378). -/
def Obligations.Watchdogs : Prop :=
  (∀ (s : State) (m : Fin 64) (t0 : Nat), (s.mbx[m]).wdogFrom = some t0 → (s.mbx[m]).enabled = true → (s.mbx[m]).wdogEn = true →
    (s.mbx[m]).sqHead ≠ (s.mbx[m]).sqTail → s.pointReached (t0 + 1000 * (s.mbx[m]).wdogMs) = true →
    ∃ t : State, exec (.mailboxWatchdog m) s = .next t ∧ (t.mbx[m]).wdog = true ∧ (t.mbx[m]).wdogFrom = none ∧
      (t.mbx[m]).wdogFired = true ∧
      t.work.steward = s.work.steward ++ [⟨none, 16, none, [.event 0xE002 (toLE 1 1 ++ toLE 1 m.val)]⟩] ∧
      t.dbg.staged.isSome = true) ∧
  (∀ s : State, s.ticking = true → ∃ t : State, exec .tickWatchdog s = .next t ∧
    t.work.steward = s.work.steward ++ [⟨none, 16, none, [.event 0xE002 (toLE 1 0 ++ toLE 1 0)]⟩] ∧
    t.dbg.staged.isSome = true) ∧
  (∀ s : State, s.pwr.shut = 2 →
    (∀ bs fs, exec (.bistRunDone (.ran bs fs)) s = .next { s with
      pwr := { s.pwr with
        shut := 3, record := some (bistResult bs (fs.take 4096), bs, fs.take 4096)
        runs := Nat.min (s.pwr.runs + 1) 0xFFFFFFFF, recordLifecycle := s.glb.lifecycle.code } }) ∧
    ∀ r bs fs, s.pwr.record = some (r, bs, fs) →
      exec (.bistRunDone .refused) s = .next { s with pwr := { s.pwr with shut := 3, record := some (3, bs, fs) } }) ∧
  ∀ (s : State) (k : Restore) (i : Nat), s.restore = some k → i ∈ k.todo → i ∉ s.recordsStaged →
    exec (.restoreRecord i false) s = .next (s.stage (k.giveUp s .eTimeout)) ∧
    (s.restoreEntry k i = none → exec (.restoreRecord i true) s = .next (s.stage (k.giveUp s .eDigest))) ∧
    ∀ sh e, s.restoreEntry k i = some (sh, e) →
      ((∀ j ∈ k.todo, j = i ∨ j ∈ s.recordsStaged) → exec (.restoreRecord i true) s =
        .next (s.stage (s.restoreEntries k sh e i ++ [.restoreRecord i] ++ k.lastEffects s) (some i))) ∧
      ((∃ j ∈ k.todo, j ≠ i ∧ j ∉ s.recordsStaged) → exec (.restoreRecord i true) s =
        .next (s.stage (s.restoreEntries k sh e i ++ [.restoreRecord i]) (some i)))

/-! ### Effects at the commit point -/

/-- A staged item commits where the commit point's cap leaves room for its events, and what a slot too small left of its unit is queued
(R39), and is deferred whole with every later one where
it does not (R51). What the effects do: a session, grammar, vocabulary, grant, schedule, store or route map takes its place, a spool
entry extends the chain digest, a command's completion is written and the command forgotten (R33, R141, R167, R173, R174, R197, R202,
R221, R245, R247). -/
def Obligations.CommitEffects : Prop :=
  (∀ (a : Committing) (i : Item), a.s.ticking = true →
    (a.fits i = true → a.run i = { a with s := ((a.s.noteCommit i).applyItem a.seq i).1.nextPiece i, seq := ((a.s.noteCommit i).applyItem a.seq i).2 }) ∧
    (a.fits i = false → (a.run i).full = true ∧ (a.run i).later = a.later ++ [i] ∧ (a.run i).seq = a.seq ∧
      (a.run i).s.tk.defer = true ∧ (a.run i).s.tk.deferCnt = Nat.min (a.s.tk.deferCnt + 1) 0x7FFFFFFF ∧
      (a.run i).s.ss = a.s.ss ∧ (a.run i).s.mbx = a.s.mbx ∧ ∀ j, (a.run i).fits j = false) ∧
    (a.full = true ∨ 65536 < a.seq + a.s.eventCount i → a.fits i = false)) ∧
  (∀ (s : State) (st : Nat),
    (∀ i x, s.applyPlain (.sessCreate i x) st = { s with
      ss.sessions := Tb.set s.ss.sessions i x, ss.gens := Tb.set s.ss.gens i x.gen }) ∧
    (∀ i g, s.applyPlain (.grammarSet i (some g)) st = { s with img.grammars := Tb.set s.img.grammars i g } ∧
      s.applyPlain (.grammarSet i none) st = { s with img.grammars := Tb.del s.img.grammars i }) ∧
    (∀ i v, s.applyPlain (.vocabSet i (some v)) st = { s with img.vocabs := Tb.set s.img.vocabs i v } ∧
      s.applyPlain (.vocabSet i none) st = { s with img.vocabs := Tb.del s.img.vocabs i }) ∧
    (∀ m g, s.applyPlain (.grant m g) st = { s with ten.grants := Tb.set s.ten.grants m g }) ∧
    (∀ t d, s.applyPlain (.schedStage t d) st = { s with tk.staged := some ⟨t, d, none⟩ }) ∧
    (∀ m, s.applyPlain (.routeMap m) st = { s with ten.next := some (m, s.tk.tick + 1) }) ∧
    (∀ k x, s.applyPlain (.storeCreate k x) st = { s with st.stores := Tb.set s.st.stores k x }) ∧
    (∀ k es x, Tb.get s.st.stores k = some x → ∃ y, Tb.get (s.applyPlain (.storeAppend k es) st).st.stores k = some y ∧
      y.seq = x.seq + es.length ∧ y.side.length = x.side.length + es.length ∧ ∀ e ∈ x.side, e ∈ y.side) ∧
    ∀ a d, s.applyPlain (.devWrite a d) st = { s with dev := Memory.writeN s.dev a d }) ∧
  (∀ (s : State) (i fl st : Nat) (pay : Bytes) (own : Bool) (ty : Nat) (x : Session), Tb.get s.ss.sessions i = some x →
    ty ≠ 0x07 → ty ≠ 0x09 → ty ≠ 0x0A → ∃ y, Tb.get (s.publish (.spool i ty fl pay) st own).ss.sessions i = some y ∧
      y.spool = x.spool ++ [spoolEntry ty fl x.spoolSeq st pay] ∧ y.spoolSeq = x.spoolSeq + 1 ∧
      y.spoolDigest = Sha.sha384 (digestBytes x.spoolDigest ++ spoolEntry ty fl x.spoolSeq st pay) ∧ y.lastCommit = st ∧
      y.hist = x.hist ∧ y.state = x.state) ∧
  ∀ (s : State) (id st : Nat) (x : Status) (res : Bytes) (own : Bool) (c : PendCmd), Tb.get s.cmds id = some c →
    s.publish (.complete id x res) st own =
      (({ s with cmds := Tb.del s.cmds id } : State).postOwed c.mbox c.gen st ⟨c.tag, c.opcode, x, 0, res⟩)

/-! ### Arithmetic -/

/-- The canonical tree over block sums (R65). -/
def Obligations.EraTree : Prop :=
  ∀ bs : List F32,
    (bs.length = 1 → ∃ b, bs = [b] ∧ Era.tree bs = b) ∧
    (2 ≤ bs.length → ∃ k, 2 ^ k < bs.length ∧ bs.length ≤ 2 ^ (k + 1) ∧
      Era.tree bs = Era.add (Era.tree (bs.take (2 ^ k))) (Era.tree (bs.drop (2 ^ k))))
end

