-- ==== Sys2Proof/Laws/Host.lean ====
section
/-! SUPPORT. What serving a host command can do: where none is fetched, where the fetch fails, and the answer of the checks;
and that every host command is served so. -/
namespace Sys2Proof.Machine

variable {own : State → Ctx → Checked (List Effect)} {now : State → Ctx → State}

/-- Steward cannot fetch: nothing happens (R246). -/
theorem State.hostCommand_idle (s : State) (m : Fin 64) (c : Cmd) (op : Nat)
    (h : s.canFetch m (owedBy (Cmd.op c)) = false) : s.hostCommand m c op own now = .next s := by
  simp [State.hostCommand, h]

/-- The slot cannot be read: the fetch fails (R243). -/
theorem State.hostCommand_fetchFailed (s : State) (m : Fin 64) (c : Cmd) (op : Nat)
    (h : s.canFetch m (owedBy (Cmd.op c)) = true) (ha : s.hostAbsent .port0 (s.slotAddr m) = true) :
    s.hostCommand m c op own now = .next (s.fetchFailed m) := by
  rw [State.slotAddr] at ha
  simp only [State.hostCommand, State.sqSlot, h, ha, Bool.not_true, Bool.false_eq_true, if_false, if_true]

/-- A load whose image has a page that is not present waits for it (R217). -/
theorem State.hostCommand_pause (s : State) (m : Fin 64) (c : Cmd) (op p : Nat)
    (h : s.canFetch m (owedBy (Cmd.op c)) = true) (ha : s.hostAbsent .port0 (s.slotAddr m) = false)
    (hp : s.loadPause m c = some p) : s.hostCommand m c op own now = .next (s.waitOn m.val .port0 p) := by
  rw [State.slotAddr] at ha
  simp only [State.hostCommand, State.sqSlot, h, ha, hp, Bool.not_true, Bool.false_eq_true, if_false]

/-- Only a load pauses. -/
theorem State.loadPause_none (s : State) (m : Fin 64) (c : Cmd) (h : loadOp (Cmd.op c) = false) : s.loadPause m c = none := by
  simp [State.loadPause, h]

/-- What is rejected is no load: nobody else is told. -/
theorem State.rejects_plain (s : State) (m : Fin 64) (c : Cmd) (st : Status) (res : Bytes) (h : loadOp (Cmd.op c) = false) :
    s.rejects m c st res = (s.fetched m c).reject m s.nextCmd (Cmd.op c) st res := by
  have h' : loadOp (Cmd.op (s.given m c).c) = false := h
  simp [State.rejects, State.loadRejected, h']

/-- A fetched command is answered by its checks (R247, R255). -/
theorem State.hostCommand_answer (s : State) (m : Fin 64) (c : Cmd) (op : Nat) (k : CmdSpec) (hk : specOf op = some k)
    (h : s.canFetch m (owedBy (Cmd.op c)) = true) (ha : s.hostAbsent .port0 (s.slotAddr m) = false)
    (hl : s.loadPause m c = none) :
    s.hostCommand m c op own now = .next (match (s.sees m c).common m k c, own (s.sees m c) (s.given m c) with
      | .error e, _ => s.rejects m c e.1 e.2
      | .ok (), .error e => s.rejects m c e.1 e.2
      | .ok (), .ok effs => now (s.takes m c effs) (s.given m c)) := by
  rw [State.slotAddr] at ha
  simp only [State.hostCommand, State.sqSlot, h, ha, hl, Bool.not_true, Bool.false_eq_true, if_false, State.runCommand, hk, want]
  show Host.Outcome.next _ = Host.Outcome.next _
  congr 1
  unfold State.sees State.given State.rejects State.takes State.given
  cases h1 : (s.fetched m c).view.common m k c with
  | error e => simp [bind, Except.bind, h1]
  | ok _ =>
    cases h2 : own (s.fetched m c).view ((s.fetched m c).ctx m s.nextCmd c) with
    | error e => simp [bind, Except.bind, h1]
    | ok effs => simp [bind, Except.bind, h1]

/-- A command that Steward serves is answered by its own checks. -/
theorem State.hostCommand_serves (s : State) (m : Fin 64) (c : Cmd) (op : Nat) (h : s.serves m c op) :
    s.hostCommand m c op own = .next (s.answers m c (own (s.sees m c) (s.given m c))) := by
  obtain ⟨h1, h2, k, hk, h3, h4⟩ := h
  rw [State.hostCommand_answer s m c op k hk h1 h2 h4]
  congr 1
  unfold State.sees at *
  rw [h3]
  cases own (s.fetched m c).view (s.given m c) <;> rfl

/-- A served command whose own checks pass has its effects staged. -/
theorem State.hostCommand_takes (s : State) (m : Fin 64) (c : Cmd) (op : Nat) (effs : List Effect) (h : s.serves m c op)
    (he : own (s.sees m c) (s.given m c) = .ok effs) : s.hostCommand m c op own = .next (s.takes m c effs) := by
  rw [State.hostCommand_serves s m c op h, he, State.answers]

/-- Every host command is served under its row with its row's checks. -/
theorem exec_hostCall (i : Instr) (m : Fin 64) (c : Cmd) (op : Nat) (hi : i.hostCall = some (m, c, op)) :
    ∃ k own, specOf op = some k ∧ checkOf op = some own ∧ ∀ s : State, exec i s = s.hostCommand m c op own (nowOf op) := by
  cases i <;> simp only [Instr.hostCall, Instr.hostCall13, Instr.hostCall4F, Option.orElse, reduceCtorEq, Option.some.injEq,
    Prod.mk.injEq] at hi
  all_goals
    obtain ⟨rfl, rfl, rfl⟩ := hi
    exact ⟨_, _, rfl, rfl, fun s => rfl⟩

@[simp] theorem must_true (st : Status) : must st true = .ok () := rfl

theorem must_of {st : Status} {b : Bool} (h : b = true) : must st b = .ok () := by rw [h, must_true]

@[simp] theorem want_some {α : Type} (st : Status) (a : α) : want st (some a) = .ok a := rfl

@[simp] theorem lift_ok {α : Type} (a : α) : lift (.ok a : Except Status α) = .ok a := rfl

@[simp] theorem mboxFin_val (m : Fin 64) : mboxFin m.val = m := by
  apply Fin.ext
  simp [mboxFin]

@[simp] theorem State.given_f (s : State) (m : Fin 64) (c : Cmd) (o k : Nat) : (s.given m c).f o k = fld c o k := (rfl)
@[simp] theorem State.given_m (s : State) (m : Fin 64) (c : Cmd) : (s.given m c).m = m.val := (rfl)
@[simp] theorem State.given_c (s : State) (m : Fin 64) (c : Cmd) : (s.given m c).c = c := (rfl)
@[simp] theorem State.given_done (s : State) (m : Fin 64) (c : Cmd) (res : Bytes) :
    (s.given m c).done res = .complete s.nextCmd .ok res := (rfl)

/-- The first step of a sequence of checks. -/
@[simp] theorem checked_bind {α β : Type} (a : α) (f : α → Checked β) : ((Except.ok a : Checked α) >>= f) = f a := rfl

end Sys2Proof.Machine
end

