-- ==== Sys2Proof/Laws/Memory.lean ====
section
/-! SUPPORT. Laws of sparse data and of the host memories: what a look-up answers after a write or a removal, and that
every write keeps the canonical form. -/
namespace Sys2Proof.Machine

variable {α : Type}

theorem Tb.get_nil (k : Nat) : Tb.get ([] : Tbl α) k = none := rfl

theorem Tb.get_cons (j : Nat) (w : α) (t : Tbl α) (k : Nat) :
    Tb.get ((j, w) :: t) k = if k = j then some w else Tb.get t k := by
  by_cases h : k = j
  · subst h
    simp [Tb.get, List.lookup]
  · have : (k == j) = false := by simpa using h
    simp [Tb.get, List.lookup, this, h]

/-- A look-up after a write: the written key reads as written, every other key as before. -/
theorem Tb.get_set (t : Tbl α) (k : Nat) (v : α) (a : Nat) :
    Tb.get (Tb.set t k v) a = if a = k then some v else Tb.get t a := by
  induction t with
  | nil => simp [Tb.set, Tb.get_cons]
  | cons e t ih =>
    obtain ⟨j, w⟩ := e
    simp only [Tb.set]
    split
    · simp only [Tb.get_cons]
    · split
      · subst_vars
        simp only [Tb.get_cons]
        split <;> simp_all
      · next h1 h2 =>
        simp only [Tb.get_cons, ih]
        by_cases h3 : a = j
        · subst h3
          have h4 : ¬ a = k := fun h => h2 h.symm
          simp [h4]
        · simp [h3]

theorem Tb.get_set_same (t : Tbl α) (k : Nat) (v : α) : Tb.get (Tb.set t k v) k = some v := by
  simp [Tb.get_set]

theorem Tb.get_set_other (t : Tbl α) (v : α) {a k : Nat} (h : a ≠ k) : Tb.get (Tb.set t k v) a = Tb.get t a := by
  simp [Tb.get_set, h]

/-- A look-up after a removal. -/
theorem Tb.get_del (t : Tbl α) (k a : Nat) : Tb.get (Tb.del t k) a = if a = k then none else Tb.get t a := by
  induction t with
  | nil => simp [Tb.del, Tb.get_nil]
  | cons e t ih =>
    obtain ⟨j, w⟩ := e
    unfold Tb.del at *
    by_cases hj : j = k
    · subst hj
      simp only [List.filter, bne_self_eq_false, ih, Tb.get_cons]
      split <;> rfl
    · have hb : (j != k) = true := by simpa using hj
      simp only [List.filter, hb, Tb.get_cons, ih]
      by_cases ha : a = j
      · subst ha
        simp [hj]
      · simp [ha]

/-- A look-up after a change of one entry. -/
theorem Tb.get_upd (t : Tbl α) (k : Nat) (f : α → α) (a : Nat) :
    Tb.get (Tb.upd t k f) a = if a = k then (Tb.get t a).map f else Tb.get t a := by
  induction t with
  | nil => simp [Tb.upd, Tb.get_nil]
  | cons e t ih =>
    obtain ⟨j, w⟩ := e
    unfold Tb.upd at *
    by_cases hj : j = k
    · subst hj
      simp only [List.map, if_true, Tb.get_cons, ih]
      by_cases ha : a = j <;> simp [ha]
    · simp only [List.map, hj, if_false, Tb.get_cons, ih]
      by_cases ha : a = j
      · subst ha
        simp [hj]
      · simp [ha]

/-- The head of a canonical memory lies below every later address. -/
theorem Memory.wf_cons (a : Nat) (x : Byte) (m : HostMem) :
    Memory.wf ((a, x) :: m) = true ↔ (∀ e ∈ m.head?, a < e.1) ∧ Memory.wf m = true := by
  cases m with
  | nil => simp [Memory.wf]
  | cons e m =>
    obtain ⟨b, y⟩ := e
    simp [Memory.wf]

/-- The first address of a memory after one byte's write. -/
theorem Tb.set_head (m : HostMem) (a : Nat) (x : Byte) :
    ∀ e ∈ (Tb.set m a x).head?, e.1 = a ∨ ∃ f ∈ m.head?, e.1 = f.1 := by
  intro e he
  cases m with
  | nil =>
    simp [Tb.set] at he
    exact .inl (by rw [← he])
  | cons f m =>
    obtain ⟨b, y⟩ := f
    simp only [Tb.set] at he
    split at he
    · simp at he
      exact .inl (by rw [← he])
    · split at he
      · simp at he
        exact .inl (by rw [← he])
      · simp at he
        exact .inr ⟨(b, y), by simp, by rw [← he]⟩

/-- A byte's write keeps the canonical form. -/
theorem Tb.set_wf (m : HostMem) (a : Nat) (x : Byte) (h : Memory.wf m = true) : Memory.wf (Tb.set m a x) = true := by
  induction m with
  | nil => rfl
  | cons e m ih =>
    obtain ⟨b, y⟩ := e
    have hc := (Memory.wf_cons b y m).1 h
    simp only [Tb.set]
    split
    · next hlt => exact (Memory.wf_cons a x _).2 ⟨by simpa using hlt, h⟩
    · split
      · next heq =>
        subst heq
        exact (Memory.wf_cons a x m).2 hc
      · next h1 h2 =>
        refine (Memory.wf_cons b y _).2 ⟨fun e he => ?_, ih hc.2⟩
        rcases Tb.set_head m a x e he with h3 | ⟨f, hf, h3⟩
        · omega
        · have := hc.1 f hf
          omega

/-- A write of any length keeps the canonical form. -/
theorem Memory.writeN_wf (m : HostMem) (a : Nat) (bs : Bytes) (h : Memory.wf m = true) :
    Memory.wf (Memory.writeN m a bs) = true := by
  induction bs generalizing m a with
  | nil => exact h
  | cons x xs ih => exact ih _ _ (Tb.set_wf m a x h)

/-- A write leaves every byte outside it as it was. -/
theorem Memory.read_writeN_outside (m : HostMem) (a : Nat) (bs : Bytes) (b : Nat)
    (h : b < a ∨ a + bs.length ≤ b) : Memory.read (Memory.writeN m a bs) b = Memory.read m b := by
  induction bs generalizing m a with
  | nil => rfl
  | cons x xs ih =>
    simp only [List.length_cons] at h
    have := ih (Tb.set m a x) (a + 1) (by omega)
    rw [Memory.writeN, this, Memory.read, Tb.get_set_other m x (a := b) (by omega), Memory.read]

/-- A byte of a write reads as written. -/
theorem Memory.read_writeN_inside (m : HostMem) (a : Nat) (bs : Bytes) (k : Nat) (h : k < bs.length) :
    Memory.read (Memory.writeN m a bs) (a + k) = some bs[k] := by
  induction bs generalizing m a k with
  | nil => simp at h
  | cons x xs ih =>
    cases k with
    | zero =>
      rw [Memory.writeN, Memory.read_writeN_outside _ _ _ _ (by omega), Memory.read]
      simpa using Tb.get_set_same m a x
    | succ k =>
      have := ih (Tb.set m a x) (a + 1) k (by simpa using h)
      rw [Memory.writeN, show a + (k + 1) = a + 1 + k by omega, this]
      rfl

/-- Two writes that do not overlap may come in either order, byte for byte. -/
theorem Memory.read_writeN_comm (m : HostMem) (a b : Nat) (xs ys : Bytes) (c : Nat)
    (h : a + xs.length ≤ b ∨ b + ys.length ≤ a) :
    Memory.read (Memory.writeN (Memory.writeN m a xs) b ys) c
      = Memory.read (Memory.writeN (Memory.writeN m b ys) a xs) c := by
  by_cases hb : b ≤ c ∧ c < b + ys.length
  · obtain ⟨k, rfl⟩ : ∃ k, c = b + k := ⟨c - b, by omega⟩
    rw [Memory.read_writeN_inside _ b ys k (by omega), Memory.read_writeN_outside _ a xs _ (by omega),
      Memory.read_writeN_inside _ b ys k (by omega)]
  · rw [Memory.read_writeN_outside _ b ys _ (by omega)]
    by_cases ha : a ≤ c ∧ c < a + xs.length
    · obtain ⟨k, rfl⟩ : ∃ k, c = a + k := ⟨c - a, by omega⟩
      rw [Memory.read_writeN_inside _ a xs k (by omega), Memory.read_writeN_inside _ a xs k (by omega)]
    · rw [Memory.read_writeN_outside _ a xs _ (by omega), Memory.read_writeN_outside _ a xs _ (by omega),
        Memory.read_writeN_outside _ b ys _ (by omega)]

end Sys2Proof.Machine
end

