-- ==== Sys2Proof/Laws/KeepsBase.lean ====
section
/-! SUPPORT. Preservation: what every operation of the machine but a power-on reset keeps, one lemma per operation, named
after it: the host memories' canonical form, debug sticky bits once set (R306), the queue, and the lifecycle. -/
namespace Sys2Proof.Machine

/-- What a command is held against: the queue, debug sticky bits that stay set, the lifecycle, the tick number where it
stays, and the canonical form of the memories where it is asked. -/
structure Kept where
  pending : List Instr
  bits : BitVec 5
  lc : Lifecycle
  tick : Option Nat
  mem : Bool

/-- The host memories are canonical, the sticky bits of `K` are set, the queue, the lifecycle and the tick are those of `K`. -/
def KeepsOf (K : Kept) (pending : List Instr) (h0 h1 c0 c1 : HostMem) (st : BitVec 5)
    (lc : Lifecycle) (tick : Nat) : Prop :=
  (K.mem = true → Memory.wf h0 = true ∧ Memory.wf h1 = true ∧ Memory.wf c0 = true ∧ Memory.wf c1 = true) ∧
    st &&& K.bits = K.bits ∧ pending = K.pending ∧ lc = K.lc ∧ ∀ n, K.tick = some n → tick = n

/-- `KeepsOf` of a state's own fields. -/
def Keeps (K : Kept) (s : State) : Prop :=
  KeepsOf K s.pending s.host0 s.host1 s.cxl0 s.cxl1 s.sec.sticky s.glb.lifecycle s.tk.tick

/-- `K` without its tick. -/
def Kept.loose (K : Kept) : Kept := { K with tick := none }

/-- `K` one tick later. -/
def Kept.next (K : Kept) : Kept := { K with tick := K.tick.map (· + 1) }

theorem Keeps.loose {K : Kept} {s : State} (h : Keeps K s) : Keeps K.loose s :=
  ⟨h.1, h.2.1, h.2.2.1, h.2.2.2.1, fun _ e => nomatch e⟩

/-- Where `K` names no tick, a state may take any. -/
theorem KeepsOf.anyTick {K : Kept} (hn : K.tick = none) {p h0 h1 c0 c1 st lc n} (h : KeepsOf K p h0 h1 c0 c1 st lc n) (m : Nat) :
    KeepsOf K p h0 h1 c0 c1 st lc m :=
  ⟨h.1, h.2.1, h.2.2.1, h.2.2.2.1, fun _ e => by rw [hn] at e; cases e⟩

/-- One tick later. -/
theorem KeepsOf.later {K : Kept} {p h0 h1 c0 c1 st lc n} (h : KeepsOf K p h0 h1 c0 c1 st lc n) :
    KeepsOf K.next p h0 h1 c0 c1 st lc (n + 1) := by
  refine ⟨h.1, h.2.1, h.2.2.1, h.2.2.2.1, fun k e => ?_⟩
  obtain ⟨j, hj, rfl⟩ := Option.map_eq_some_iff.mp e
  rw [h.2.2.2.2 j hj]

theorem keeps_fold {K : Kept} (s : State) :
    KeepsOf K s.pending s.host0 s.host1 s.cxl0 s.cxl1 s.sec.sticky s.glb.lifecycle s.tk.tick = Keeps K s := rfl

theorem keeps_mk {K : Kept} (a1 a2 a3 a4 a5 a6 a7 a8 a9 a10 a11 a12 a13 a14 a15 a16 a17 a18 a19 a20 a21 a22 a23 a24 a25
    a26 a27 a28 a29 a30 a31) :
    Keeps K (State.mk a1 a2 a3 a4 a5 a6 a7 a8 a9 a10 a11 a12 a13 a14 a15 a16 a17 a18 a19 a20 a21 a22 a23 a24 a25 a26 a27
      a28 a29 a30 a31) = KeepsOf K a1 a8 a9 a10 a11 a24.sticky a4.lifecycle a5.tick := rfl

theorem foldl_keeps {K : Kept} {α : Type} {f : State → α → State} {xs : List α} {s : State}
    (h : Keeps K s)
    (H : ∀ s x, Keeps K s → Keeps K (f s x)) : Keeps K (xs.foldl f s) := by
  induction xs generalizing s with
  | nil => exact h
  | cons x xs ih => exact ih (H s x h)

theorem foldl_keeps_fst {K : Kept} {α β : Type} {f : State × β → α → State × β} {xs : List α} {s : State × β}
    (h : Keeps K s.1)
    (H : ∀ s x, Keeps K s.1 → Keeps K (f s x).1) : Keeps K (xs.foldl f s).1 := by
  induction xs generalizing s with
  | nil => exact h
  | cons x xs ih => exact ih (H s x h)

theorem foldl_keeps_snd {K : Kept} {α β : Type} {f : β × State → α → β × State} {xs : List α} {s : β × State}
    (h : Keeps K s.2)
    (H : ∀ s x, Keeps K s.2 → Keeps K (f s x).2) : Keeps K (xs.foldl f s).2 := by
  induction xs generalizing s with
  | nil => exact h
  | cons x xs ih => exact ih (H s x h)

theorem State.writeHost_keeps {K : Kept} (s : State) (sp : HostSpace) (a : Nat) (bs : Bytes) (h : Keeps K s) :
    Keeps K (State.writeHost s sp a bs) := by
  unfold State.writeHost
  split
  · obtain ⟨hw, hs⟩ := h
    refine ⟨fun hm => ?_, by cases sp <;> exact hs⟩
    obtain ⟨h0, h1, h2, h3⟩ := hw hm
    cases sp
    · exact ⟨Memory.writeN_wf _ _ _ h0, h1, h2, h3⟩
    · exact ⟨h0, Memory.writeN_wf _ _ _ h1, h2, h3⟩
    · exact ⟨h0, h1, Memory.writeN_wf _ _ _ h2, h3⟩
    · exact ⟨h0, h1, h2, Memory.writeN_wf _ _ _ h3⟩
  · exact h

theorem State.hostWrites_keeps {K : Kept} (s : State) (hw : List (Nat × Bytes))
    (hk : Keeps K s) : Keeps K (State.hostWrites s hw) := by
  simp only [State.hostWrites]
  repeat' first
    | with_reducible first
      | assumption | apply State.writeHost_keeps | apply foldl_keeps | apply foldl_keeps_fst | apply foldl_keeps_snd
    | split | intro _

theorem State.drawFree_keeps {K : Kept} (s : State)
    (hk : Keeps K s) : Keeps K (State.drawFree s).2 := by
  simp only [State.drawFree]
  repeat' first
    | with_reducible assumption | split | (simp only [keeps_mk, keeps_fold])

theorem State.atTime_keeps {K : Kept} (s : State) (t : Nat)
    (hk : Keeps K s) : Keeps K (State.atTime s t) := by
  simp only [State.atTime]
  repeat' first
    | with_reducible assumption | split | (simp only [keeps_mk, keeps_fold])

theorem State.count_keeps {K : Kept} (s : State) (group i k : Nat)
    (hk : Keeps K s) : Keeps K (State.count s group i k) := by
  simp only [State.count]
  repeat' first
    | with_reducible assumption | split | (simp only [keeps_mk, keeps_fold])

theorem State.setSticky_keeps {K : Kept} (s : State) (i : Nat) (h : Keeps K s) :
    Keeps K (State.setSticky s i) := by
  obtain ⟨hm, hs, hp, hl⟩ := h
  refine ⟨hm, ?_, hp, hl⟩
  show (s.sec.sticky ||| BitVec.ofNat 5 (2 ^ i)) &&& K.bits = K.bits
  have : (s.sec.sticky ||| BitVec.ofNat 5 (2 ^ i)) &&& (s.sec.sticky &&& K.bits) = s.sec.sticky &&& K.bits := by
    ext j hj
    simp only [BitVec.getElem_and, BitVec.getElem_or]
    cases s.sec.sticky[j] <;> simp
  rw [hs] at this
  exact this

theorem State.traceLost_keeps {K : Kept} (s : State) (reserved : Bool)
    (hk : Keeps K s) : Keeps K (State.traceLost s reserved) := by
  simp only [State.traceLost]
  repeat' first
    | with_reducible assumption | split | (simp only [keeps_mk, keeps_fold])

theorem State.tracePost_keeps {K : Kept} (s : State) (reserved : Bool) (r : Bytes)
    (hk : Keeps K s) : Keeps K (State.tracePost s reserved r) := by
  simp only [State.tracePost]
  repeat' first
    | with_reducible first
      | assumption | apply State.traceLost_keeps
    | split | (simp only [keeps_mk, keeps_fold])

theorem State.tracePut_keeps {K : Kept} (s : State) (reserved : Bool) (r : Bytes)
    (hk : Keeps K s) : Keeps K (State.tracePut s reserved r) := by
  simp only [State.tracePut]
  repeat' first
    | with_reducible first
      | assumption | apply State.tracePost_keeps | apply State.traceLost_keeps
    | split | (simp only [keeps_mk, keeps_fold])

theorem State.trigger_keeps {K : Kept} (s : State) (source cause code : Nat)
    (hk : Keeps K s) : Keeps K (State.trigger s source cause code) := by
  simp only [State.trigger]
  repeat' first
    | with_reducible first
      | assumption | apply State.count_keeps | apply State.tracePut_keeps
    | split | (simp only [keeps_mk, keeps_fold])

theorem State.traceRec_keeps {K : Kept} (s : State) (code source : Nat) (data : Bytes)
    (hk : Keeps K s) : Keeps K (State.traceRec s code source data) := by
  simp only [State.traceRec]
  repeat' first
    | with_reducible first
      | assumption | apply State.tracePut_keeps | apply State.trigger_keeps
    | split

theorem State.updMbx_keeps {K : Kept} (s : State) (m : Fin 64) (f : Mailbox → Mailbox)
    (hk : Keeps K s) : Keeps K (State.updMbx s m f) := by
  simp only [State.updMbx]
  repeat' first
    | with_reducible assumption | split | (simp only [keeps_mk, keeps_fold])

theorem State.askPage_keeps {K : Kept} (s : State) (sp : HostSpace) (page : Nat)
    (hk : Keeps K s) : Keeps K (State.askPage s sp page) := by
  simp only [State.askPage]
  repeat' first
    | with_reducible first
      | assumption | apply State.count_keeps
    | split | (simp only [keeps_mk, keeps_fold])

theorem State.waitOn_keeps {K : Kept} (s : State) (w : Nat) (sp : HostSpace) (page : Nat)
    (hk : Keeps K s) : Keeps K (State.waitOn s w sp page) := by
  simp only [State.waitOn]
  repeat' first
    | with_reducible first
      | assumption | apply State.askPage_keeps
    | split | (simp only [keeps_mk, keeps_fold])

theorem State.waitOver_keeps {K : Kept} (s : State) (w : Nat)
    (hk : Keeps K s) : Keeps K (State.waitOver s w) := by
  simp only [State.waitOver]
  repeat' first
    | with_reducible assumption | split | (simp only [keeps_mk, keeps_fold])

theorem State.writeCq_keeps {K : Kept} (s : State) (m : Fin 64) (stamp : Nat) (c : Completion)
    (hk : Keeps K s) : Keeps K (State.writeCq s m stamp c) := by
  simp only [State.writeCq]
  repeat' first
    | with_reducible first
      | assumption | apply State.writeHost_keeps | apply State.updMbx_keeps

theorem State.postTo_keeps {K : Kept} (s : State) (m : Fin 64) (stamp : Nat) (c : Completion)
    (hk : Keeps K s) : Keeps K (State.postTo s m stamp c) := by
  simp only [State.postTo]
  repeat' first
    | with_reducible first
      | assumption | apply State.updMbx_keeps | apply State.traceRec_keeps | apply State.count_keeps
        | apply State.writeCq_keeps
    | split

theorem State.postOwed_keeps {K : Kept} (s : State) (m gen stamp : Nat) (c : Completion)
    (hk : Keeps K s) : Keeps K (State.postOwed s m gen stamp c) := by
  simp only [State.postOwed]
  repeat' first
    | with_reducible first
      | assumption | apply State.updMbx_keeps | apply State.postTo_keeps
    | split

theorem State.postEvent_keeps {K : Kept} (s : State) (stamp code : Nat) (res : Bytes)
    (hk : Keeps K s) : Keeps K (State.postEvent s stamp code res) := by
  simp only [State.postEvent]
  repeat' first
    | with_reducible first
      | assumption | apply State.postTo_keeps | apply State.updMbx_keeps
    | split

theorem State.finishCmd_keeps {K : Kept} (s : State) (id stamp : Nat) (st : Status) (res : Bytes)
    (hk : Keeps K s) : Keeps K (State.finishCmd s id stamp st res) := by
  simp only [State.finishCmd]
  repeat' first
    | with_reducible first
      | assumption | apply State.postOwed_keeps
    | split | (simp only [keeps_mk, keeps_fold])

theorem State.updSess_keeps {K : Kept} (s : State) (idx : Nat) (f : Session → Session)
    (hk : Keeps K s) : Keeps K (State.updSess s idx f) := by
  simp only [State.updSess]
  repeat' first
    | with_reducible assumption | split | (simp only [keeps_mk, keeps_fold])

theorem State.updReq_keeps {K : Kept} (s : State) (r : Nat) (f : Req → Req)
    (hk : Keeps K s) : Keeps K (State.updReq s r f) := by
  simp only [State.updReq]
  repeat' first
    | with_reducible assumption | split | (simp only [keeps_mk, keeps_fold])

theorem State.appendSpool_keeps {K : Kept} (s : State) (idx ty flags stamp : Nat) (payload : Bytes)
    (hk : Keeps K s) : Keeps K (State.appendSpool s idx ty flags stamp payload) := by
  simp only [State.appendSpool]
  repeat' first
    | with_reducible first
      | assumption | apply State.updReq_keeps
    | split | (simp only [keeps_mk, keeps_fold])

theorem State.drainPort_keeps {K : Kept} (s : State) (p : Fin 20)
    (hk : Keeps K s) : Keeps K (State.drainPort s p) := by
  simp only [State.drainPort]
  repeat' first
    | with_reducible first
      | assumption | apply State.drawFree_keeps | apply State.traceRec_keeps | apply foldl_keeps
        | apply foldl_keeps_fst | apply foldl_keeps_snd
    | split | intro _ | (simp only [keeps_mk, keeps_fold])

theorem State.queueFlits_keeps {K : Kept} (s : State) (p : Fin 20) (m : TxMsg)
    (hk : Keeps K s) : Keeps K (State.queueFlits s p m) := by
  simp only [State.queueFlits]
  repeat' first
    | with_reducible first
      | assumption | apply State.drainPort_keeps
    | split | (simp only [keeps_mk, keeps_fold])

theorem State.bodyOf_keeps {K : Kept} (s : State) (b : MsgBody)
    (hk : Keeps K s) : Keeps K (State.bodyOf s b).2 := by
  simp only [State.bodyOf]
  repeat' first
    | with_reducible first
      | assumption | apply State.drawFree_keeps
    | split

theorem State.flitsOf_keeps {K : Kept} (s : State) (dst stamp n : Nat) (b : MsgBody)
    (hk : Keeps K s) : Keeps K (State.flitsOf s dst stamp n b).2 := by
  simp only [State.flitsOf]
  repeat' first
    | with_reducible first
      | assumption | apply State.bodyOf_keeps
    | split

theorem State.transmit_keeps {K : Kept} (s : State) (dst : MsgDst) (stamp n : Nat) (b : MsgBody)
    (hk : Keeps K s) : Keeps K (State.transmit s dst stamp n b) := by
  simp only [State.transmit]
  repeat' first
    | with_reducible first
      | assumption | apply State.flitsOf_keeps | apply State.queueFlits_keeps
    | split

theorem State.sendMsg_keeps {K : Kept} (s : State) (dst : MsgDst) (stamp : Nat) (b : MsgBody)
    (hk : Keeps K s) : Keeps K (State.sendMsg s dst stamp b) := by
  simp only [State.sendMsg]
  repeat' first
    | with_reducible first
      | assumption | apply State.transmit_keeps
    | split | (simp only [keeps_mk, keeps_fold])

theorem State.sendAll_keeps {K : Kept} (s : State) (stamp : Nat) (b : MsgBody)
    (hk : Keeps K s) : Keeps K (State.sendAll s stamp b) := by
  simp only [State.sendAll]
  repeat' first
    | with_reducible first
      | assumption | apply State.sendMsg_keeps | apply foldl_keeps | apply foldl_keeps_fst | apply foldl_keeps_snd
    | split | intro _

theorem State.stage_keeps {K : Kept} (s : State) (effs : List Effect) (session : Option Nat)
    (hk : Keeps K s) : Keeps K (State.stage s effs session) := by
  simp only [State.stage]
  repeat' first
    | with_reducible assumption | split | (simp only [keeps_mk, keeps_fold])

theorem State.allocPage_keeps {K : Kept} (s : State) (tenant layer psize dim : Nat) (d : PageData)
    (hk : Keeps K s) : Keeps K (State.allocPage s tenant layer psize dim d).2 := by
  simp only [State.allocPage]
  repeat' first
    | with_reducible first
      | assumption | apply State.count_keeps
    | split | (simp only [keeps_mk, keeps_fold])

theorem State.updPage_keeps {K : Kept} (s : State) (id : Nat) (f : Page → Page)
    (hk : Keeps K s) : Keeps K (State.updPage s id f) := by
  simp only [State.updPage]
  repeat' first
    | with_reducible assumption | split | (simp only [keeps_mk, keeps_fold])

theorem State.refPage_keeps {K : Kept} (s : State) (id : Nat)
    (hk : Keeps K s) : Keeps K (State.refPage s id) := by
  simp only [State.refPage]
  repeat' first
    | with_reducible first
      | assumption | apply State.updPage_keeps

theorem State.unrefPage_keeps {K : Kept} (s : State) (id : Nat)
    (hk : Keeps K s) : Keeps K (State.unrefPage s id) := by
  simp only [State.unrefPage]
  repeat' first
    | with_reducible first
      | assumption | apply State.updPage_keeps

theorem State.settlePages_keeps {K : Kept} (s : State)
    (hk : Keeps K s) : Keeps K (State.settlePages s) := by
  simp only [State.settlePages]
  repeat' first
    | with_reducible first
      | assumption | apply State.count_keeps
    | split | (simp only [keeps_mk, keeps_fold])

theorem State.writePage_keeps {K : Kept} (s : State) (tenant layer psize dim : Nat) (old : Option Nat) (d : PageData)
    (hk : Keeps K s) : Keeps K (State.writePage s tenant layer psize dim old d).2 := by
  simp only [State.writePage]
  repeat' first
    | with_reducible first
      | assumption | apply State.allocPage_keeps | apply State.updPage_keeps | apply State.count_keeps
        | apply State.unrefPage_keeps
    | split

theorem State.storeLayer_keeps {K : Kept} (s : State) (tenant layer psize dim : Nat) (old : Tbl Nat) (ps : List PageData)
    (hk : Keeps K s) : Keeps K (State.storeLayer s tenant layer psize dim old ps).2 := by
  simp only [State.storeLayer]
  repeat' first
    | with_reducible first
      | assumption | apply State.writePage_keeps | apply State.unrefPage_keeps | apply foldl_keeps
        | apply foldl_keeps_fst | apply foldl_keeps_snd
    | split | intro _

theorem State.storeKv_keeps {K : Kept} (s : State) (idx dim : Nat) (kv : KvView) (kvlen : Nat)
    (hk : Keeps K s) : Keeps K (State.storeKv s idx dim kv kvlen) := by
  simp only [State.storeKv]
  repeat' first
    | with_reducible first
      | assumption | apply State.storeLayer_keeps | apply State.updSess_keeps | apply State.updReq_keeps
        | apply foldl_keeps | apply foldl_keeps_fst | apply foldl_keeps_snd
    | split | intro _ | (simp only [keeps_mk, keeps_fold])

theorem State.cutKv_keeps {K : Kept} (s : State) (idx n : Nat)
    (hk : Keeps K s) : Keeps K (State.cutKv s idx n) := by
  simp only [State.cutKv]
  repeat' first
    | with_reducible first
      | assumption | apply State.storeKv_keeps
    | split

theorem State.releaseKv_keeps {K : Kept} (s : State) (idx : Nat)
    (hk : Keeps K s) : Keeps K (State.releaseKv s idx) := by
  simp only [State.releaseKv]
  repeat' first
    | with_reducible first
      | assumption | apply State.unrefPage_keeps | apply State.updSess_keeps | apply foldl_keeps
        | apply foldl_keeps_fst | apply foldl_keeps_snd
    | split | intro _

theorem State.trimSess_keeps {K : Kept} (s : State) (idx : Nat)
    (hk : Keeps K s) : Keeps K (State.trimSess s idx) := by
  simp only [State.trimSess]
  repeat' first
    | with_reducible first
      | assumption | apply State.unrefPage_keeps | apply State.updSess_keeps | apply State.updReq_keeps
        | apply foldl_keeps | apply foldl_keeps_fst | apply foldl_keeps_snd
    | split | intro _

theorem State.condenseSess_keeps {K : Kept} (s : State) (idx : Nat)
    (hk : Keeps K s) : Keeps K (State.condenseSess s idx) := by
  simp only [State.condenseSess]
  repeat' first
    | with_reducible first
      | assumption | apply State.updSess_keeps | apply State.storeKv_keeps
    | split

theorem State.updNode_keeps {K : Kept} (s : State) (t id : Nat) (f : Node → Node)
    (hk : Keeps K s) : Keeps K (State.updNode s t id f) := by
  simp only [State.updNode]
  repeat' first
    | with_reducible assumption | split | (simp only [keeps_mk, keeps_fold])

theorem State.putNode_keeps {K : Kept} (s : State) (n : Node)
    (hk : Keeps K s) : Keeps K (State.putNode s n) := by
  simp only [State.putNode]
  repeat' first
    | with_reducible assumption | split | (simp only [keeps_mk, keeps_fold])

theorem State.ensureRoot_keeps {K : Kept} (s : State) (k : RootKey)
    (hk : Keeps K s) : Keeps K (State.ensureRoot s k).2 := by
  simp only [State.ensureRoot]
  repeat' first
    | with_reducible first
      | assumption | apply State.putNode_keeps
    | split

theorem State.liftTree_keeps {K : Kept} (s : State) (idx n : Nat)
    (hk : Keeps K s) : Keeps K (State.liftTree s idx n) := by
  simp only [State.liftTree]
  repeat' first
    | with_reducible first
      | assumption | apply State.updSess_keeps
    | split

theorem State.nodePages_keeps {K : Kept} (s : State) (x : Session) (c : Nat)
    (hk : Keeps K s) : Keeps K (State.nodePages s x c).2 := by
  simp only [State.nodePages]
  repeat' first
    | with_reducible first
      | assumption | apply State.allocPage_keeps | apply State.refPage_keeps | apply foldl_keeps
        | apply foldl_keeps_fst | apply foldl_keeps_snd
    | split | intro _

theorem State.insertChunk_keeps {K : Kept} (s : State) (idx : Nat)
    (hk : Keeps K s) : Keeps K (State.insertChunk s idx).2 := by
  simp only [State.insertChunk]
  repeat' first
    | with_reducible first
      | assumption | apply State.updSess_keeps | apply State.updNode_keeps | apply State.nodePages_keeps
        | apply State.putNode_keeps
    | split | (simp only [keeps_mk, keeps_fold])

theorem State.insertChunks_keeps {K : Kept} (s : State) (idx lo hi fuel : Nat) (hk : Keeps K s) :
    Keeps K (State.insertChunks s idx lo hi fuel).2 := by
  induction fuel generalizing s with
  | zero => exact hk
  | succ n ih =>
    simp only [State.insertChunks]
    repeat' first | with_reducible assumption | (apply ih) | with_reducible apply State.insertChunk_keeps | split

theorem State.deleteNode_keeps {K : Kept} (s : State) (t id : Nat)
    (hk : Keeps K s) : Keeps K (State.deleteNode s t id) := by
  simp only [State.deleteNode]
  repeat' first
    | with_reducible first
      | assumption | apply State.unrefPage_keeps | apply State.updNode_keeps | apply foldl_keeps
        | apply foldl_keeps_fst | apply foldl_keeps_snd
    | split | intro _

theorem State.pruneLoop_keeps {K : Kept} (s : State) (t budget fuel : Nat) (hk : Keeps K s) :
    Keeps K (State.pruneLoop s t budget fuel) := by
  induction fuel generalizing s with
  | zero => exact hk
  | succ n ih =>
    simp only [State.pruneLoop]
    repeat' first | with_reducible assumption | (apply ih) | with_reducible apply State.deleteNode_keeps | split

theorem State.prune_keeps {K : Kept} (s : State) (t : Nat)
    (hk : Keeps K s) : Keeps K (State.prune s t) := by
  simp only [State.prune]
  repeat' first
    | with_reducible first
      | assumption | apply State.pruneLoop_keeps
    | split | (simp only [keeps_mk, keeps_fold])

theorem State.purgeNodes_keeps {K : Kept} (s : State) (t top : Nat)
    (hk : Keeps K s) : Keeps K (State.purgeNodes s t top).2 := by
  simp only [State.purgeNodes]
  repeat' first
    | with_reducible first
      | assumption | apply State.deleteNode_keeps | apply State.updPage_keeps | apply foldl_keeps
        | apply foldl_keeps_fst | apply foldl_keeps_snd
    | split | intro _

theorem State.recountPage_keeps {K : Kept} (s : State) (t p : Nat)
    (hk : Keeps K s) : Keeps K (State.recountPage s t p) := by
  simp only [State.recountPage]
  repeat' first
    | with_reducible first
      | assumption | apply State.updPage_keeps

theorem State.sweepPurge_keeps {K : Kept} (s : State) (p : Nat)
    (hk : Keeps K s) : Keeps K (State.sweepPurge s p) := by
  simp only [State.sweepPurge]
  repeat' first
    | with_reducible first
      | assumption | apply State.recountPage_keeps | apply foldl_keeps | apply foldl_keeps_fst
        | apply foldl_keeps_snd
    | split | intro _ | (simp only [keeps_mk, keeps_fold])

end Sys2Proof.Machine
end

