-- ==== Sys2Proof/Laws/KeepsPlain.lean ====
section
/-! SUPPORT. Preservation (Laws/KeepsBase.lean) by the operations of Work, Requests, Park, Keys. -/
namespace Sys2Proof.Machine

theorem State.addUnit_keeps {K : Kept} (s : State) (k : UnitKind) (tenant session : Option Nat) (size stamp : Nat) (group : Bool)
    (hk : Keeps K s) : Keeps K (State.addUnit s k tenant session size stamp group) := by
  simp only [State.addUnit]
  repeat' first
    | with_reducible assumption | split | (simp only [keeps_mk, keeps_fold])

theorem State.takeCredits_keeps {K : Kept} (s : State) (u : UnitRec)
    (hk : Keeps K s) : Keeps K (State.takeCredits s u) := by
  simp only [State.takeCredits]
  repeat' first
    | with_reducible assumption | split | (simp only [keeps_mk, keeps_fold])

theorem State.returnCredits_keeps {K : Kept} (s : State) (u : UnitRec)
    (hk : Keeps K s) : Keeps K (State.returnCredits s u) := by
  simp only [State.returnCredits]
  repeat' first
    | with_reducible assumption | split | (simp only [keeps_mk, keeps_fold])

theorem State.formGroup_keeps {K : Kept} (s : State) (g : Nat)
    (hk : Keeps K s) : Keeps K (State.formGroup s g) := by
  simp only [State.formGroup]
  repeat' first
    | with_reducible assumption | split | (simp only [keeps_mk, keeps_fold])

theorem State.startUnit_keeps {K : Kept} (s : State) (k : Nat) (u : UnitRec)
    (hk : Keeps K s) : Keeps K (State.startUnit s k u) := by
  simp only [State.startUnit]
  repeat' first
    | with_reducible first
      | assumption | apply State.formGroup_keeps | apply State.traceRec_keeps | apply State.count_keeps
        | apply State.takeCredits_keeps
    | split | (simp only [keeps_mk, keeps_fold])

theorem State.admitLoop_keeps {K : Kept} (s : State) (e : SlotEntry) (k : Nat) (us : List UnitRec) (hk : Keeps K s) :
    Keeps K (State.admitLoop s e k us) := by
  induction us generalizing s with
  | nil => exact hk
  | cons u us ih =>
    simp only [State.admitLoop]
    repeat' first | with_reducible assumption | (apply ih) | with_reducible apply State.startUnit_keeps | split

theorem State.admission_keeps {K : Kept} (s : State) (k : Nat)
    (hk : Keeps K s) : Keeps K (State.admission s k) := by
  simp only [State.admission]
  repeat' first
    | with_reducible first
      | assumption | apply State.admitLoop_keeps
    | split

theorem State.sendNotReady_keeps {K : Kept} (s : State) (key : UnitKey)
    (hk : Keeps K s) : Keeps K (State.sendNotReady s key) := by
  simp only [State.sendNotReady]
  repeat' first
    | with_reducible first
      | assumption | apply State.sendMsg_keeps
    | split | (simp only [keeps_mk, keeps_fold])

theorem TickSt.abandonOne_tick (t : TickSt) : t.abandonOne.tick = t.tick := rfl

theorem State.abandonUnit_keeps {K : Kept} (s : State) (k : Nat) (u : UnitRec)
    (hk : Keeps K s) : Keeps K (State.abandonUnit s k u) := by
  simp only [State.abandonUnit]
  repeat' first
    | with_reducible first
      | assumption | apply State.updReq_keeps | apply State.sendNotReady_keeps | apply State.traceRec_keeps
        | apply State.count_keeps | apply State.returnCredits_keeps
    | split | (simp only [keeps_mk, keeps_fold, TickSt.abandonOne_tick])

theorem State.pauseUnit_keeps {K : Kept} (s : State) (k : Nat) (u : UnitRec) (sp : HostSpace) (page : Nat)
    (hk : Keeps K s) : Keeps K (State.pauseUnit s k u sp page) := by
  simp only [State.pauseUnit]
  repeat' first
    | with_reducible first
      | assumption | apply State.askPage_keeps | apply State.admission_keeps | apply State.count_keeps
        | apply State.returnCredits_keeps
    | split | (simp only [keeps_mk, keeps_fold])

theorem State.finishUnit_keeps {K : Kept} (s : State) (k : Nat) (u : UnitRec) (effs : List Effect) (ms : List MirrorEntry)
    (hk : Keeps K s) : Keeps K (State.finishUnit s k u effs ms) := by
  simp only [State.finishUnit]
  repeat' first
    | with_reducible first
      | assumption | apply State.sendMsg_keeps | apply State.admission_keeps
    | split | (simp only [keeps_mk, keeps_fold])

theorem State.cutHist_keeps {K : Kept} (s : State) (idx n : Nat)
    (hk : Keeps K s) : Keeps K (State.cutHist s idx n) := by
  simp only [State.cutHist]
  repeat' first
    | with_reducible first
      | assumption | apply State.updSess_keeps | apply State.liftTree_keeps | apply State.cutKv_keeps
    | split

theorem State.cutOrRelease_keeps {K : Kept} (s : State) (idx n : Nat)
    (hk : Keeps K s) : Keeps K (State.cutOrRelease s idx n) := by
  simp only [State.cutOrRelease]
  repeat' first
    | with_reducible first
      | assumption | apply State.updSess_keeps | apply State.cutHist_keeps | apply State.releaseKv_keeps
    | split

theorem State.nextPhase_keeps {K : Kept} (s : State) (r stamp : Nat)
    (hk : Keeps K s) : Keeps K (State.nextPhase s r stamp) := by
  simp only [State.nextPhase]
  repeat' first
    | with_reducible first
      | assumption | apply State.updReq_keeps | apply State.addUnit_keeps
    | split

theorem State.inputTokens_keeps {K : Kept} (s : State) (r : Nat) (toks : List Nat) (stamp : Nat)
    (hk : Keeps K s) : Keeps K (State.inputTokens s r toks stamp) := by
  simp only [State.inputTokens]
  repeat' first
    | with_reducible first
      | assumption | apply State.updSess_keeps | apply State.nextPhase_keeps | apply State.updReq_keeps
    | split

theorem State.startRebuild_keeps {K : Kept} (s : State) (idx : Nat) (rb : Rebuild) (stamp : Nat)
    (hk : Keeps K s) : Keeps K (State.startRebuild s idx rb stamp) := by
  simp only [State.startRebuild]
  repeat' first
    | with_reducible first
      | assumption | apply State.updSess_keeps | apply State.addUnit_keeps
    | split | (simp only [keeps_mk, keeps_fold])

theorem State.applySubmit_keeps {K : Kept} (s : State) (id : Nat) (q : Req) (toks : List Nat) (stamp : Nat)
    (hk : Keeps K s) : Keeps K (State.applySubmit s id q toks stamp) := by
  simp only [State.applySubmit]
  repeat' first
    | with_reducible first
      | assumption | apply State.updSess_keeps | apply State.updReq_keeps | apply State.startRebuild_keeps
        | apply State.addUnit_keeps | apply State.inputTokens_keeps
    | split | (simp only [keeps_mk, keeps_fold])

theorem State.applyTokenized_keeps {K : Kept} (s : State) (r taken : Nat) (toks : List Nat) (stamp : Nat)
    (hk : Keeps K s) : Keeps K (State.applyTokenized s r taken toks stamp) := by
  simp only [State.applyTokenized]
  repeat' first
    | with_reducible first
      | assumption | apply State.count_keeps | apply State.updReq_keeps | apply State.addUnit_keeps
        | apply State.inputTokens_keeps
    | split

theorem State.endRebuild_keeps {K : Kept} (s : State) (idx stamp : Nat)
    (hk : Keeps K s) : Keeps K (State.endRebuild s idx stamp) := by
  simp only [State.endRebuild]
  repeat' first
    | with_reducible first
      | assumption | apply State.updSess_keeps | apply State.nextPhase_keeps | apply State.updReq_keeps
    | split | (simp only [keeps_mk, keeps_fold])

theorem State.rebuildFailed_keeps {K : Kept} (s : State) (idx : Nat) (gone : Bool)
    (hk : Keeps K s) : Keeps K (State.rebuildFailed s idx gone) := by
  simp only [State.rebuildFailed]
  repeat' first
    | with_reducible first
      | assumption | apply State.releaseKv_keeps | apply State.updSess_keeps
    | split | (simp only [keeps_mk, keeps_fold])

theorem State.condenseDue_keeps {K : Kept} (s : State) (idx : Nat)
    (hk : Keeps K s) : Keeps K (State.condenseDue s idx) := by
  simp only [State.condenseDue]
  repeat' first
    | with_reducible first
      | assumption | apply State.updReq_keeps | apply State.condenseSess_keeps
    | split

theorem State.rebuildSwitch_keeps {K : Kept} (s : State) (idx : Nat) (rb : Rebuild) (upto : Nat)
    (hk : Keeps K s) : Keeps K (State.rebuildSwitch s idx rb upto) := by
  simp only [State.rebuildSwitch]
  repeat' first
    | with_reducible first
      | assumption | apply State.condenseSess_keeps | apply State.updReq_keeps
    | split

theorem State.applyLookedUp_keeps {K : Kept} (s : State) (idx : Nat) (nodes : List (Nat × Nat)) (pages : List (Tbl Nat)) (upto stamp : Nat)
    (hk : Keeps K s) : Keeps K (State.applyLookedUp s idx nodes pages upto stamp) := by
  simp only [State.applyLookedUp]
  repeat' first
    | with_reducible first
      | assumption | apply State.refPage_keeps | apply State.updNode_keeps | apply State.ensureRoot_keeps
        | apply State.updSess_keeps | apply State.updReq_keeps | apply State.rebuildSwitch_keeps
        | apply State.addUnit_keeps | apply State.endRebuild_keeps | apply State.nextPhase_keeps
        | apply State.condenseDue_keeps | apply foldl_keeps | apply foldl_keeps_fst | apply foldl_keeps_snd
    | split | intro _ | (simp only [keeps_mk, keeps_fold])

theorem State.applyPrefilled_keeps {K : Kept} (s : State) (idx upto : Nat) (kv : KvView) (stamp : Nat)
    (hk : Keeps K s) : Keeps K (State.applyPrefilled s idx upto kv stamp) := by
  simp only [State.applyPrefilled]
  repeat' first
    | with_reducible first
      | assumption | apply State.storeKv_keeps | apply State.rebuildSwitch_keeps | apply State.addUnit_keeps
        | apply State.endRebuild_keeps | apply State.insertChunks_keeps | apply State.updReq_keeps
        | apply State.condenseDue_keeps | apply State.nextPhase_keeps
    | split | (simp only [keeps_mk, keeps_fold])

theorem State.applyDecoded_keeps {K : Kept} (s : State) (r : Nat) (acc : List Nat) (kv : KvView) (kvlen : Nat) (resid : Tbl (List F32)) (g : Option GState) (guesses : List Nat) (stamp : Nat)
    (hk : Keeps K s) : Keeps K (State.applyDecoded s r acc kv kvlen resid g guesses stamp) := by
  simp only [State.applyDecoded]
  repeat' first
    | with_reducible first
      | assumption | apply State.updReq_keeps | apply State.storeKv_keeps | apply State.updSess_keeps
        | apply State.condenseDue_keeps
    | split | (simp only [keeps_mk, keeps_fold])

theorem State.applyStalled_keeps {K : Kept} (s : State) (r : Nat)
    (hk : Keeps K s) : Keeps K (State.applyStalled s r) := by
  simp only [State.applyStalled]
  repeat' first
    | with_reducible first
      | assumption | apply State.updReq_keeps

theorem State.freeReq_keeps {K : Kept} (s : State) (r : Nat)
    (hk : Keeps K s) : Keeps K (State.freeReq s r) := by
  simp only [State.freeReq]
  repeat' first
    | with_reducible first
      | assumption | apply State.updSess_keeps
    | split | (simp only [keeps_mk, keeps_fold])

theorem State.writeRing_keeps {K : Kept} (s : State) (r : Nat) (q : Req) (b : Bytes)
    (hk : Keeps K s) : Keeps K (State.writeRing s r q b) := by
  simp only [State.writeRing]
  repeat' first
    | with_reducible first
      | assumption | apply State.writeHost_keeps | apply State.updReq_keeps

theorem State.postRing_keeps {K : Kept} (s : State) (r stamp pos tok info : Nat)
    (hk : Keeps K s) : Keeps K (State.postRing s r stamp pos tok info) := by
  simp only [State.postRing]
  repeat' first
    | with_reducible first
      | assumption | apply State.updReq_keeps | apply State.updSess_keeps | apply State.traceRec_keeps
        | apply State.count_keeps | apply State.writeRing_keeps
    | split

theorem State.postReqDone_keeps {K : Kept} (s : State) (r stamp : Nat) (st : Status) (reason : Nat)
    (hk : Keeps K s) : Keeps K (State.postReqDone s r stamp st reason) := by
  simp only [State.postReqDone]
  repeat' first
    | with_reducible first
      | assumption | apply State.updSess_keeps | apply State.updMbx_keeps | apply State.postOwed_keeps
    | split

theorem State.endReq_keeps {K : Kept} (s : State) (r reason stamp : Nat)
    (hk : Keeps K s) : Keeps K (State.endReq s r reason stamp) := by
  simp only [State.endReq]
  repeat' first
    | with_reducible first
      | assumption | apply State.appendSpool_keeps | apply State.freeReq_keeps
    | split

theorem State.updCopy_keeps {K : Kept} (s : State) (c : Nat) (f : Copy → Copy)
    (hk : Keeps K s) : Keeps K (State.updCopy s c f) := by
  simp only [State.updCopy]
  repeat' first
    | with_reducible assumption | split | (simp only [keeps_mk, keeps_fold])

theorem State.fillCopy_keeps {K : Kept} (s : State) (c : Nat) (key : Bytes) (transport : Bool) (slot gen handoff stamp : Nat)
    (hk : Keeps K s) : Keeps K (State.fillCopy s c key transport slot gen handoff stamp) := by
  simp only [State.fillCopy]
  repeat' first
    | with_reducible first
      | assumption | apply State.updCopy_keeps | apply State.addUnit_keeps | apply foldl_keeps
        | apply foldl_keeps_fst | apply foldl_keeps_snd
    | split | intro _

theorem State.takeCopy_keeps {K : Kept} (s : State) (c stamp : Nat)
    (hk : Keeps K s) : Keeps K (State.takeCopy s c stamp) := by
  simp only [State.takeCopy]
  repeat' first
    | with_reducible first
      | assumption | apply State.refPage_keeps | apply State.updCopy_keeps | apply State.fillCopy_keeps
        | apply foldl_keeps | apply foldl_keeps_fst | apply foldl_keeps_snd
    | split | intro _

theorem State.startCopy_keeps {K : Kept} (s : State) (k : Copy) (stamp : Nat)
    (hk : Keeps K s) : Keeps K (State.startCopy s k stamp) := by
  simp only [State.startCopy]
  repeat' first
    | with_reducible first
      | assumption | apply State.takeCopy_keeps
    | split | (simp only [keeps_mk, keeps_fold])

theorem State.takeFresh_keeps {K : Kept} (s : State)
    (hk : Keeps K s) : Keeps K (State.takeFresh s) := by
  simp only [State.takeFresh]
  repeat' first
    | with_reducible first
      | assumption | apply State.takeCopy_keeps | apply foldl_keeps | apply foldl_keeps_fst | apply foldl_keeps_snd
    | split | intro _ | (simp only [keeps_mk, keeps_fold])

theorem State.dropCopy_keeps {K : Kept} (s : State) (c : Nat)
    (hk : Keeps K s) : Keeps K (State.dropCopy s c) := by
  simp only [State.dropCopy]
  repeat' first
    | with_reducible first
      | assumption | apply State.unrefPage_keeps | apply foldl_keeps | apply foldl_keeps_fst | apply foldl_keeps_snd
    | split | intro _ | (simp only [keeps_mk, keeps_fold])

theorem State.backToPrior_keeps {K : Kept} (s : State) (idx : Nat)
    (hk : Keeps K s) : Keeps K (State.backToPrior s idx) := by
  simp only [State.backToPrior]
  repeat' first
    | with_reducible first
      | assumption | apply State.updReq_keeps | apply State.updSess_keeps
    | split

theorem State.suspendStall_keeps {K : Kept} (s : State) (idx : Nat)
    (hk : Keeps K s) : Keeps K (State.suspendStall s idx) := by
  simp only [State.suspendStall]
  repeat' first
    | with_reducible first
      | assumption | apply State.updReq_keeps
    | split

theorem State.releaseSession_keeps {K : Kept} (s : State) (idx : Nat)
    (hk : Keeps K s) : Keeps K (State.releaseSession s idx) := by
  simp only [State.releaseSession]
  repeat' first
    | with_reducible first
      | assumption | apply State.releaseKv_keeps | apply State.updSess_keeps
    | split | (simp only [keeps_mk, keeps_fold])

theorem State.parkEnd_keeps {K : Kept} (s : State) (idx store off hankId : Nat)
    (hk : Keeps K s) : Keeps K (State.parkEnd s idx store off hankId) := by
  simp only [State.parkEnd]
  repeat' first
    | with_reducible first
      | assumption | apply State.updSess_keeps | apply State.releaseSession_keeps
    | split

theorem State.copiedTo_keeps {K : Kept} (s : State) (c n : Nat)
    (hk : Keeps K s) : Keeps K (State.copiedTo s c n) := by
  simp only [State.copiedTo]
  repeat' first
    | with_reducible first
      | assumption | apply State.unrefPage_keeps | apply State.updCopy_keeps | apply foldl_keeps
        | apply foldl_keeps_fst | apply foldl_keeps_snd
    | split | intro _

theorem State.copyTileDone_keeps {K : Kept} (s : State) (c : Nat)
    (hk : Keeps K s) : Keeps K (State.copyTileDone s c) := by
  simp only [State.copyTileDone]
  repeat' first
    | with_reducible first
      | assumption | apply State.copiedTo_keeps | apply State.parkEnd_keeps | apply State.dropCopy_keeps
    | split | (simp only [keeps_mk, keeps_fold])

theorem State.startRevival_keeps {K : Kept} (s : State) (r : Revival) (stamp : Nat)
    (hk : Keeps K s) : Keeps K (State.startRevival s r stamp) := by
  simp only [State.startRevival]
  repeat' first
    | with_reducible first
      | assumption | apply State.addUnit_keeps | apply foldl_keeps | apply foldl_keeps_fst | apply foldl_keeps_snd
    | split | intro _ | (simp only [keeps_mk, keeps_fold])

theorem State.dropRevival_keeps {K : Kept} (s : State) (k : Nat)
    (hk : Keeps K s) : Keeps K (State.dropRevival s k) := by
  simp only [State.dropRevival]
  repeat' first
    | with_reducible assumption | split | (simp only [keeps_mk, keeps_fold])

theorem State.revivalFailed_keeps {K : Kept} (s : State) (k : Nat)
    (hk : Keeps K s) : Keeps K (State.revivalFailed s k) := by
  simp only [State.revivalFailed]
  repeat' first
    | with_reducible first
      | assumption | apply State.releaseKv_keeps | apply State.dropRevival_keeps
    | split | (simp only [keeps_mk, keeps_fold])

theorem State.attachRequest_keeps {K : Kept} (s : State) (idx : Nat) (keep : Bool) (rs : Bytes) (old : Option Session)
    (hk : Keeps K s) : Keeps K (State.attachRequest s idx keep rs old) := by
  simp only [State.attachRequest]
  repeat' first
    | with_reducible first
      | assumption | apply State.drawFree_keeps | apply State.updSess_keeps
    | split | (simp only [keeps_mk, keeps_fold])

theorem State.sessionBack_keeps {K : Kept} (s : State) (idx : Nat)
    (hk : Keeps K s) : Keeps K (State.sessionBack s idx) := by
  simp only [State.sessionBack]
  repeat' first
    | with_reducible first
      | assumption | apply State.updSess_keeps

theorem State.revivalTile_keeps {K : Kept} (s : State) (k tile : Nat) (data : Bytes) (stamp : Nat)
    (hk : Keeps K s) : Keeps K (State.revivalTile s k tile data stamp) := by
  simp only [State.revivalTile]
  repeat' first
    | with_reducible first
      | assumption | apply State.dropRevival_keeps | apply State.updSess_keeps | apply State.startRebuild_keeps
        | apply State.attachRequest_keeps | apply State.storeKv_keeps | apply State.sessionBack_keeps
    | split | (simp only [keeps_mk, keeps_fold])

theorem State.drawKey_keeps {K : Kept} (s : State)
    (hk : Keeps K s) : Keeps K (State.drawKey s).2 := by
  simp only [State.drawKey]
  repeat' first
    | with_reducible first
      | assumption | apply State.drawFree_keeps

theorem State.saveVault_keeps {K : Kept} (s : State)
    (hk : Keeps K s) : Keeps K (State.saveVault s) := by
  simp only [State.saveVault]
  repeat' first
    | with_reducible assumption | split | (simp only [keeps_mk, keeps_fold])

theorem State.settleSlots_keeps {K : Kept} (s : State)
    (hk : Keeps K s) : Keeps K (State.settleSlots s) := by
  simp only [State.settleSlots]
  repeat' first
    | with_reducible assumption | split | (simp only [keeps_mk, keeps_fold])

theorem State.unzero_keeps {K : Kept} (s : State)
    (hk : Keeps K s) : Keeps K (State.unzero s) := by
  simp only [State.unzero]
  repeat' first
    | with_reducible assumption | split | (simp only [keeps_mk, keeps_fold])

theorem State.holdSlot_keeps {K : Kept} (s : State) (w : VaultWork)
    (hk : Keeps K s) : Keeps K (State.holdSlot s w) := by
  simp only [State.holdSlot]
  repeat' first
    | with_reducible first
      | assumption | apply State.drawKey_keeps
    | split | (simp only [keeps_mk, keeps_fold])

theorem State.applyVault_keeps {K : Kept} (s : State) (w : VaultWork)
    (hk : Keeps K s) : Keeps K (State.applyVault s w) := by
  simp only [State.applyVault]
  repeat' first
    | with_reducible first
      | assumption | apply State.drawKey_keeps | apply State.saveVault_keeps
    | split | (simp only [keeps_mk, keeps_fold])

theorem State.report_keeps {K : Kept} (s : State) (kind reportId stamp : Nat) (nonce subject releasePub : Bytes)
    (hk : Keeps K s) : Keeps K (State.report s kind reportId stamp nonce subject releasePub).2 := by
  simp only [State.report]
  repeat' first
    | with_reducible first
      | assumption | apply State.drawFree_keeps

theorem State.newExchange_keeps {K : Kept} (s : State)
    (hk : Keeps K s) : Keeps K (State.newExchange s).2 := by
  simp only [State.newExchange]
  repeat' first
    | with_reducible first
      | assumption | apply State.drawFree_keeps

theorem State.putExchange_keeps {K : Kept} (s : State) (v : HelloVia) (x : Option KeyExchange)
    (hk : Keeps K s) : Keeps K (State.putExchange s v x) := by
  simp only [State.putExchange]
  repeat' first
    | with_reducible assumption | split | (simp only [keeps_mk, keeps_fold])

theorem State.installExchange_keeps {K : Kept} (s : State) (v : HelloVia) (x : KeyExchange)
    (hk : Keeps K s) : Keeps K (State.installExchange s v x) := by
  simp only [State.installExchange]
  repeat' first
    | with_reducible assumption | split | (simp only [keeps_mk, keeps_fold])

theorem State.freeTransport_keeps {K : Kept} (s : State) (h : Nat)
    (hk : Keeps K s) : Keeps K (State.freeTransport s h) := by
  simp only [State.freeTransport]
  repeat' first
    | with_reducible assumption | split | (simp only [keeps_mk, keeps_fold])

theorem State.reencrypt_keeps {K : Kept} (s : State) (tenant slot : Nat)
    (hk : Keeps K s) : Keeps K (State.reencrypt s tenant slot) := by
  simp only [State.reencrypt]
  repeat' first
    | with_reducible assumption | split | (simp only [keeps_mk, keeps_fold])

end Sys2Proof.Machine
end

