-- ==== Sys2Proof/Laws/KeepsWork.lean ====
section
/-! SUPPORT. Preservation (Laws/KeepsBase.lean) by the operations of Handoff, Loads, Search, Group. -/
namespace Sys2Proof.Machine

theorem State.updSrc_keeps {K : Kept} (s : State) (h : Nat) (f : HandoffSrc → HandoffSrc)
    (hk : Keeps K s) : Keeps K (State.updSrc s h f) := by
  simp only [State.updSrc]
  repeat' first
    | with_reducible assumption | split | (simp only [keeps_mk, keeps_fold])

theorem State.updDst_keeps {K : Kept} (s : State) (h : Nat) (f : HandoffDst → HandoffDst)
    (hk : Keeps K s) : Keeps K (State.updDst s h f) := by
  simp only [State.updDst]
  repeat' first
    | with_reducible assumption | split | (simp only [keeps_mk, keeps_fold])

theorem State.startTransport_keeps {K : Kept} (s : State) (id dst : Nat)
    (hk : Keeps K s) : Keeps K (State.startTransport s id dst) := by
  simp only [State.startTransport]
  repeat' first
    | with_reducible first
      | assumption | apply State.newExchange_keeps | apply State.putExchange_keeps | apply State.stage_keeps

theorem State.startOffer_keeps {K : Kept} (s : State) (id : Nat) (h : HandoffSrc)
    (hk : Keeps K s) : Keeps K (State.startOffer s id h) := by
  simp only [State.startOffer]
  repeat' first
    | with_reducible first
      | assumption | apply State.suspendStall_keeps | apply State.updSess_keeps | apply State.startTransport_keeps
    | split | (simp only [keeps_mk, keeps_fold])

theorem State.giveAway_keeps {K : Kept} (s : State) (idx id : Nat)
    (hk : Keeps K s) : Keeps K (State.giveAway s idx id) := by
  simp only [State.giveAway]
  repeat' first
    | with_reducible first
      | assumption | apply State.updSess_keeps | apply State.releaseSession_keeps | apply State.freeTransport_keeps
    | split | (simp only [keeps_mk, keeps_fold])

theorem State.revertOffer_keeps {K : Kept} (s : State) (id : Nat)
    (hk : Keeps K s) : Keeps K (State.revertOffer s id) := by
  simp only [State.revertOffer]
  repeat' first
    | with_reducible first
      | assumption | apply State.backToPrior_keeps | apply State.dropCopy_keeps | apply State.updSess_keeps
        | apply State.updSrc_keeps | apply State.freeTransport_keeps | apply foldl_keeps | apply foldl_keeps_fst
        | apply foldl_keeps_snd
    | split | intro _

theorem State.copyFailed_keeps {K : Kept} (s : State) (c : Nat)
    (hk : Keeps K s) : Keeps K (State.copyFailed s c) := by
  simp only [State.copyFailed]
  repeat' first
    | with_reducible first
      | assumption | apply State.updSess_keeps | apply State.freeTransport_keeps | apply State.dropCopy_keeps
        | apply State.backToPrior_keeps
    | split | (simp only [keeps_mk, keeps_fold])

theorem State.acceptHandoff_keeps {K : Kept} (s : State) (id tenant : Nat) (r : Revival)
    (hk : Keeps K s) : Keeps K (State.acceptHandoff s id tenant r) := by
  simp only [State.acceptHandoff]
  repeat' first
    | with_reducible first
      | assumption | apply State.updSess_keeps | apply State.storeKv_keeps | apply State.suspendStall_keeps
        | apply State.attachRequest_keeps | apply State.updDst_keeps
    | split | (simp only [keeps_mk, keeps_fold])

theorem State.ownSession_keeps {K : Kept} (s : State) (id : Nat)
    (hk : Keeps K s) : Keeps K (State.ownSession s id) := by
  simp only [State.ownSession]
  repeat' first
    | with_reducible first
      | assumption | apply State.sessionBack_keeps | apply State.updReq_keeps | apply State.freeTransport_keeps
        | apply State.updDst_keeps
    | split

theorem State.freeAccepting_keeps {K : Kept} (s : State) (id : Nat)
    (hk : Keeps K s) : Keeps K (State.freeAccepting s id) := by
  simp only [State.freeAccepting]
  repeat' first
    | with_reducible first
      | assumption | apply State.releaseKv_keeps | apply State.freeTransport_keeps
    | split | (simp only [keeps_mk, keeps_fold])

theorem State.freeModel_keeps {K : Kept} (s : State) (k : Nat)
    (hk : Keeps K s) : Keeps K (State.freeModel s k) := by
  simp only [State.freeModel]
  repeat' first
    | with_reducible assumption | split | (simp only [keeps_mk, keeps_fold])

theorem State.startLoad_keeps {K : Kept} (s : State) (k : Nat) (m : Model)
    (hk : Keeps K s) : Keeps K (State.startLoad s k m) := by
  simp only [State.startLoad]
  repeat' first
    | with_reducible first
      | assumption | apply State.freeModel_keeps
    | split | (simp only [keeps_mk, keeps_fold])

theorem State.activateModel_keeps {K : Kept} (s : State) (k : Nat)
    (hk : Keeps K s) : Keeps K (State.activateModel s k) := by
  simp only [State.activateModel]
  repeat' first
    | with_reducible assumption | split | (simp only [keeps_mk, keeps_fold])

theorem State.retireModel_keeps {K : Kept} (s : State) (k drainMs : Nat) (cmd : Option Nat)
    (hk : Keeps K s) : Keeps K (State.retireModel s k drainMs cmd) := by
  simp only [State.retireModel]
  repeat' first
    | with_reducible assumption | split | (simp only [keeps_mk, keeps_fold])

theorem State.freeingUnits_keeps {K : Kept} (s : State) (stamp : Nat)
    (hk : Keeps K s) : Keeps K (State.freeingUnits s stamp) := by
  simp only [State.freeingUnits]
  repeat' first
    | with_reducible first
      | assumption | apply State.addUnit_keeps | apply foldl_keeps | apply foldl_keeps_fst | apply foldl_keeps_snd
    | split | intro _

theorem State.addAdapter_keeps {K : Kept} (s : State) (a : AdapterVer)
    (hk : Keeps K s) : Keeps K (State.addAdapter s a) := by
  simp only [State.addAdapter]
  repeat' first
    | with_reducible assumption | split | (simp only [keeps_mk, keeps_fold])

theorem State.retireAdapterVer_keeps {K : Kept} (s : State) (id ver : Nat)
    (hk : Keeps K s) : Keeps K (State.retireAdapterVer s id ver) := by
  simp only [State.retireAdapterVer]
  repeat' first
    | with_reducible assumption | split | (simp only [keeps_mk, keeps_fold])

theorem State.freeAdapterVer_keeps {K : Kept} (s : State) (id ver : Nat)
    (hk : Keeps K s) : Keeps K (State.freeAdapterVer s id ver) := by
  simp only [State.freeAdapterVer]
  repeat' first
    | with_reducible assumption | split | (simp only [keeps_mk, keeps_fold])

theorem State.updExchange_keeps {K : Kept} (s : State) (k : Nat) (f : Exchange → Exchange)
    (hk : Keeps K s) : Keeps K (State.updExchange s k f) := by
  simp only [State.updExchange]
  repeat' first
    | with_reducible assumption | split | (simp only [keeps_mk, keeps_fold])

theorem State.putNewExchange_keeps {K : Kept} (s : State) (x : Exchange)
    (hk : Keeps K s) : Keeps K (State.putNewExchange s x) := by
  simp only [State.putNewExchange]
  repeat' first
    | with_reducible assumption | split | (simp only [keeps_mk, keeps_fold])

theorem State.reportLoaded_keeps {K : Kept} (s : State) (k : Nat)
    (hk : Keeps K s) : Keeps K (State.reportLoaded s k) := by
  simp only [State.reportLoaded]
  repeat' first
    | with_reducible first
      | assumption | apply State.updExchange_keeps | apply State.stage_keeps
    | split

theorem State.reportLoadedOf_keeps {K : Kept} (s : State) (d : Digest)
    (hk : Keeps K s) : Keeps K (State.reportLoadedOf s d) := by
  simp only [State.reportLoadedOf]
  repeat' first
    | with_reducible first
      | assumption | apply State.reportLoaded_keeps
    | split

theorem State.updStore_keeps {K : Kept} (s : State) (k : Nat) (f : Store → Store)
    (hk : Keeps K s) : Keeps K (State.updStore s k f) := by
  simp only [State.updStore]
  repeat' first
    | with_reducible assumption | split | (simp only [keeps_mk, keeps_fold])

theorem State.updQuery_keeps {K : Kept} (s : State) (k : Nat) (f : Query → Query)
    (hk : Keeps K s) : Keeps K (State.updQuery s k f) := by
  simp only [State.updQuery]
  repeat' first
    | with_reducible assumption | split | (simp only [keeps_mk, keeps_fold])

theorem State.updGroup_keeps {K : Kept} (s : State) (k : Nat) (f : ScanGroup → ScanGroup)
    (hk : Keeps K s) : Keeps K (State.updGroup s k f) := by
  simp only [State.updGroup]
  repeat' first
    | with_reducible assumption | split | (simp only [keeps_mk, keeps_fold])

theorem State.appendSide_keeps {K : Kept} (s : State) (k : Nat) (es : List (Nat × Bool × Bytes))
    (hk : Keeps K s) : Keeps K (State.appendSide s k es) := by
  simp only [State.appendSide]
  repeat' first
    | with_reducible first
      | assumption | apply State.updStore_keeps

theorem State.startQuery_keeps {K : Kept} (s : State) (k : Nat) (q : Query) (stamp : Nat)
    (hk : Keeps K s) : Keeps K (State.startQuery s k q stamp) := by
  simp only [State.startQuery]
  repeat' first
    | with_reducible first
      | assumption | apply State.addUnit_keeps
    | split | (simp only [keeps_mk, keeps_fold])

theorem State.stagePass_keeps {K : Kept} (s : State) (g p : Nat) (tops : Tbl (List Hit)) (count : Nat)
    (hk : Keeps K s) : Keeps K (State.stagePass s g p tops count) := by
  simp only [State.stagePass]
  repeat' first
    | with_reducible first
      | assumption | apply State.updGroup_keeps | apply State.addUnit_keeps
    | split

theorem State.commitPass_keeps {K : Kept} (s : State) (g p : Nat) (tops : Tbl (List Hit))
    (hk : Keeps K s) : Keeps K (State.commitPass s g p tops) := by
  simp only [State.commitPass]
  repeat' first
    | with_reducible first
      | assumption | apply State.updQuery_keeps | apply State.updGroup_keeps | apply foldl_keeps
        | apply foldl_keeps_fst | apply foldl_keeps_snd
    | split | intro _ | (simp only [keeps_mk, keeps_fold])

theorem State.endQuery_keeps {K : Kept} (s : State) (k : Nat)
    (hk : Keeps K s) : Keeps K (State.endQuery s k) := by
  simp only [State.endQuery]
  repeat' first
    | with_reducible assumption | split | (simp only [keeps_mk, keeps_fold])

theorem State.finishCompact_keeps {K : Kept} (s : State) (k : Nat)
    (hk : Keeps K s) : Keeps K (State.finishCompact s k) := by
  simp only [State.finishCompact]
  repeat' first
    | with_reducible first
      | assumption | apply State.updStore_keeps

theorem State.settleStores_keeps {K : Kept} (s : State)
    (hk : Keeps K s) : Keeps K (State.settleStores s) := by
  simp only [State.settleStores]
  repeat' first
    | with_reducible first
      | assumption | apply foldl_keeps | apply foldl_keeps_fst | apply foldl_keeps_snd
    | split | intro _ | (simp only [keeps_mk, keeps_fold])

theorem State.degradeStore_keeps {K : Kept} (s : State) (k : Nat)
    (hk : Keeps K s) : Keeps K (State.degradeStore s k) := by
  simp only [State.degradeStore]
  repeat' first
    | with_reducible first
      | assumption | apply State.updStore_keeps

theorem State.dropWork_keeps {K : Kept} (s : State) (hk : Keeps K s) : Keeps K (State.dropWork s) := by
  have h : ∀ (us : List (Nat × UnitRec)) (t : TickSt), (us.foldl (fun t _ => t.abandonOne) t).tick = t.tick := by
    intro us
    induction us with
    | nil => intro t; rfl
    | cons u us ih => intro t; exact (ih _).trans (TickSt.abandonOne_tick t)
  simp only [State.dropWork, keeps_mk, h, keeps_fold]
  exact hk

theorem State.reshardStores_keeps {K : Kept} (s : State) (surv : Word64) (n : Nat)
    (hk : Keeps K s) : Keeps K (State.reshardStores s surv n) := by
  simp only [State.reshardStores]
  repeat' first
    | with_reducible first
      | assumption | apply State.updStore_keeps | apply State.stage_keeps | apply foldl_keeps | apply foldl_keeps_fst
        | apply foldl_keeps_snd
    | split | intro _

theorem State.rerank_keeps {K : Kept} (s : State) (f : Nat → Option Nat)
    (hk : Keeps K s) : Keeps K (State.rerank s f) := by
  simp only [State.rerank]
  repeat' first
    | with_reducible assumption | split | (simp only [keeps_mk, keeps_fold])

theorem State.standAlone_keeps {K : Kept} (s : State)
    (hk : Keeps K s) : Keeps K (State.standAlone s) := by
  simp only [State.standAlone]
  repeat' first
    | with_reducible first
      | assumption | apply State.reshardStores_keeps
    | split | (simp only [keeps_mk, keeps_fold])

theorem State.leaveGroup_keeps {K : Kept} (s : State)
    (hk : Keeps K s) : Keeps K (State.leaveGroup s) := by
  simp only [State.leaveGroup]
  repeat' first
    | with_reducible first
      | assumption | apply State.standAlone_keeps | apply State.dropWork_keeps | apply State.stage_keeps
    | split | (simp only [keeps_mk, keeps_fold])

theorem State.addMirror_keeps {K : Kept} (s : State) (m : MirrorEntry)
    (hk : Keeps K s) : Keeps K (State.addMirror s m) := by
  simp only [State.addMirror]
  repeat' first
    | with_reducible assumption | split | (simp only [keeps_mk, keeps_fold])

theorem State.settleMirrors_keeps {K : Kept} (s : State)
    (hk : Keeps K s) : Keeps K (State.settleMirrors s) := by
  simp only [State.settleMirrors]
  repeat' first
    | with_reducible first
      | assumption | apply State.addMirror_keeps | apply foldl_keeps | apply foldl_keeps_fst | apply foldl_keeps_snd
    | split | intro _ | (simp only [keeps_mk, keeps_fold])

theorem State.dropTrees_keeps {K : Kept} (s : State)
    (hk : Keeps K s) : Keeps K (State.dropTrees s) := by
  simp only [State.dropTrees]
  repeat' first
    | with_reducible first
      | assumption | apply State.purgeNodes_keeps | apply State.addUnit_keeps | apply foldl_keeps
        | apply foldl_keeps_fst | apply foldl_keeps_snd
    | split | intro _ | (simp only [keeps_mk, keeps_fold])

theorem State.untilFits_keeps {K : Kept} (s : State) (t : Nat) (f : State → Nat → State) (l : List Nat) (hk : Keeps K s)
    (hf : ∀ s i, Keeps K s → Keeps K (f s i)) : Keeps K (State.untilFits s t f l).2 := by
  induction l generalizing s with
  | nil => exact hk
  | cons u us ih =>
    simp only [State.untilFits]
    split
    · exact hk
    · exact ih _ (hf _ _ hk)

theorem State.dropSessionUnits_keeps {K : Kept} (s : State) (idx : Nat)
    (hk : Keeps K s) : Keeps K (State.dropSessionUnits s idx) := by
  simp only [State.dropSessionUnits]
  repeat' first
    | with_reducible assumption | split | (simp only [keeps_mk, keeps_fold])

theorem State.planMove_keeps {K : Kept} (s : State) (n : Nat) (lost : List Nat) (ids : List (Nat × Nat)) (new : Nat → Option Nat) (parts : List Nat) (plan : List Nat × List Nat) (idx : Nat) (x : Session)
    (hk : Keeps K s) : Keeps K (State.planMove s n lost ids new parts plan idx x) := by
  simp only [State.planMove]
  repeat' first
    | with_reducible first
      | assumption | apply State.stage_keeps | apply State.dropSessionUnits_keeps | apply State.releaseKv_keeps
        | apply State.updSess_keeps | apply State.addUnit_keeps
    | split | (simp only [keeps_mk, keeps_fold])

theorem State.planReshard_keeps {K : Kept} (s : State) (surv : Word64) (n n0 : Nat)
    (hk : Keeps K s) : Keeps K (State.planReshard s surv n n0) := by
  simp only [State.planReshard]
  repeat' first
    | with_reducible first
      | assumption | apply State.stage_keeps | apply State.addUnit_keeps | apply foldl_keeps | apply foldl_keeps_fst
        | apply foldl_keeps_snd
    | split | intro _ | (simp only [keeps_mk, keeps_fold])

theorem State.fitModels_keeps {K : Kept} (s : State) (fuel : Nat) (hk : Keeps K s) : Keeps K (State.fitModels s fuel) := by
  induction fuel generalizing s with
  | zero => exact hk
  | succ n ih =>
    simp only [State.fitModels]
    split
    · exact hk
    · split
      · exact hk
      · apply ih
        simp only [keeps_mk, keeps_fold]
        apply State.freeModel_keeps
        apply foldl_keeps hk
        intro s x h
        exact State.stage_keeps _ _ _ h

theorem State.endForWidth_keeps {K : Kept} (s : State) (n0 : Nat) (lost parts : List Nat) (hk : Keeps K s) :
    Keeps K (State.endForWidth s n0 lost parts) := by
  unfold State.endForWidth
  refine foldl_keeps (foldl_keeps hk fun s x h => ?_) fun s x h => State.stage_keeps _ _ _ h
  split
  · exact State.abandonUnit_keeps _ _ _ h
  · exact h

theorem State.regroup_keeps {K : Kept} (s : State) (surv : Word64) (kept : Option Nat) (lost : List Nat)
    (hk : Keeps K s) : Keeps K (State.regroup s surv kept lost) := by
  simp only [State.regroup]
  repeat' first
    | with_reducible assumption | split | (simp only [keeps_mk, keeps_fold])

theorem State.replan_keeps {K : Kept} (s : State) (surv : Word64) (n n0 : Nat) (kept : Option Nat) (lost parts : List Nat)
    (ids : List (Nat × Nat)) (live : Tbl Session) (hk : Keeps K s) : Keeps K (State.replan s surv n n0 kept lost parts ids live) :=
  State.fitModels_keeps _ _ (State.planReshard_keeps _ _ _ _
    (foldl_keeps (State.dropTrees_keeps _ (State.reshardStores_keeps _ _ _ hk)) fun s x h => State.planMove_keeps _ _ _ _ _ _ _ _ _ h))

theorem State.widthChange_keeps {K : Kept} (s : State) (surv : Word64) (joined : Bool) (kept : Option Nat) (hk : Keeps K s) :
    Keeps K (State.widthChange s surv joined kept) := by
  unfold State.widthChange
  extract_lets n n0 lost ids leaving live parts s1 s2 s3
  have h1 : Keeps K s1 := State.regroup_keeps _ surv kept lost (State.rerank_keeps _ _ (State.endForWidth_keeps s n0 lost parts hk))
  have h2 : Keeps K s2 := State.replan_keeps s1 surv n n0 kept lost parts ids live h1
  have h3 : Keeps K s3 := by
    show Keeps K (if _ then _ else _)
    split
    · exact foldl_keeps h2 fun s _ h => State.stage_keeps s _ _ h
    · exact h2
  split
  · exact h3
  · exact State.stage_keeps _ _ _ h3

theorem State.replayReq_keeps {K : Kept} (s : State) (r : Nat) (rec : Bytes)
    (hk : Keeps K s) : Keeps K (State.replayReq s r rec) := by
  simp only [State.replayReq]
  repeat' first
    | with_reducible first
      | assumption | apply State.updReq_keeps
    | split

theorem State.rehomePage_keeps {K : Kept} (s : State) (id : Nat)
    (hk : Keeps K s) : Keeps K (State.rehomePage s id) := by
  simp only [State.rehomePage]
  repeat' first
    | with_reducible assumption | split | (simp only [keeps_mk, keeps_fold])

theorem State.rehomeSession_keeps {K : Kept} (s : State) (idx : Nat)
    (hk : Keeps K s) : Keeps K (State.rehomeSession s idx) := by
  simp only [State.rehomeSession]
  repeat' first
    | with_reducible first
      | assumption | apply State.rehomePage_keeps | apply foldl_keeps | apply foldl_keeps_fst | apply foldl_keeps_snd
    | split | intro _

theorem State.moveSession_keeps {K : Kept} (s : State) (idx : Nat)
    (hk : Keeps K s) : Keeps K (State.moveSession s idx) := by
  simp only [State.moveSession]
  repeat' first
    | with_reducible first
      | assumption | apply State.updSess_keeps | apply State.replayReq_keeps | apply State.condenseSess_keeps
        | apply State.rehomeSession_keeps | apply State.releaseKv_keeps | apply State.dropSessionUnits_keeps
        | apply State.startRebuild_keeps
    | split | (simp only [keeps_mk, keeps_fold])

theorem State.reshardChunk_keeps {K : Kept} (s : State) (slot chunk : Nat) (data : Option Bytes)
    (hk : Keeps K s) : Keeps K (State.reshardChunk s slot chunk data) := by
  simp only [State.reshardChunk]
  repeat' first
    | with_reducible first
      | assumption | apply State.freeModel_keeps
    | split | (simp only [keeps_mk, keeps_fold])

theorem State.clearRemoved_keeps {K : Kept} (s : State)
    (hk : Keeps K s) : Keeps K (State.clearRemoved s) := by
  simp only [State.clearRemoved]
  repeat' first
    | with_reducible first
      | assumption | apply State.standAlone_keeps | apply State.dropWork_keeps | apply State.stage_keeps
    | split | (simp only [keeps_mk, keeps_fold])

theorem State.ackJoin_keeps {K : Kept} (s : State) (status : Nat)
    (hk : Keeps K s) : Keeps K (State.ackJoin s status) := by
  simp only [State.ackJoin]
  repeat' first
    | with_reducible first
      | assumption | apply State.stage_keeps
    | split | (simp only [keeps_mk, keeps_fold])

theorem State.startJoin_keeps {K : Kept} (s : State) (d : Bytes) (cmd : Nat)
    (hk : Keeps K s) : Keeps K (State.startJoin s d cmd) := by
  simp only [State.startJoin]
  repeat' first
    | with_reducible first
      | assumption | apply State.newExchange_keeps | apply State.putExchange_keeps | apply State.stage_keeps
        | apply State.sendMsg_keeps | apply State.ackJoin_keeps | apply foldl_keeps | apply foldl_keeps_fst
        | apply foldl_keeps_snd
    | split | intro _ | (simp only [keeps_mk, keeps_fold])

theorem State.failJoin_keeps {K : Kept} (s : State) (st : Status)
    (hk : Keeps K s) : Keeps K (State.failJoin s st) := by
  simp only [State.failJoin]
  repeat' first
    | with_reducible first
      | assumption | apply State.stage_keeps
    | split | (simp only [keeps_mk, keeps_fold])

end Sys2Proof.Machine
end

