-- ==== Sys2Proof/Laws/KeepsSessions.lean ====
section
/-! SUPPORT. Preservation (Laws/KeepsBase.lean) by the operations of Shard, Power, Route, Apply. -/
namespace Sys2Proof.Machine

theorem State.dropChkptCopies_keeps {K : Kept} (s : State)
    (hk : Keeps K s) : Keeps K (State.dropChkptCopies s) := by
  simp only [State.dropChkptCopies]
  repeat' first
    | with_reducible first
      | assumption | apply State.dropCopy_keeps | apply foldl_keeps | apply foldl_keeps_fst | apply foldl_keeps_snd
    | split | intro _

theorem State.dropCheckpoint_keeps {K : Kept} (s : State)
    (hk : Keeps K s) : Keeps K (State.dropCheckpoint s) := by
  simp only [State.dropCheckpoint]
  repeat' first
    | with_reducible first
      | assumption | apply State.dropChkptCopies_keeps
    | split | (simp only [keeps_mk, keeps_fold])

theorem State.reserveChkpt_keeps {K : Kept} {s t : State} (hk : Keeps K s) (h : State.reserveChkpt s = some t) : Keeps K t := by
  have H : ∀ (l : List (Nat × Session)) (o : Option State), (∀ s, o = some s → Keeps K s) → ∀ t,
      l.foldl (fun st e => st.bind fun s =>
        if !s.samples e.1 || e.2.kvlen = 0 then some s else
        if !s.reserveOk e.1 e.2.tenant (s.shapeOf e.2) e.2.psize e.2.condensed (s.copyIndices e.2) 0 then none else
        let pages := (e.2.pageMap.flatMap id).map fun p => (p.2, 0)
        let k : Copy := ⟨e.1, .chkpt, none, true, 0, 0, 0, 0, [], 0, none, [], 0, pages, s.copyIndices e.2, e.2.condensed⟩
        let s := pages.foldl (fun s p => s.refPage p.1) s
        let c := s.ss.nextCopy
        some { s with ss.nextCopy := c + 1, ss.copies := Tb.set s.ss.copies c k }) o = some t → Keeps K t := by
    intro l
    induction l with
    | nil => exact fun o ho t ht => ho t ht
    | cons e l ih =>
      intro o ho t ht
      refine ih _ (fun u hu => ?_) t ht
      cases o with
      | none => cases hu
      | some s =>
        have hs := ho s rfl
        simp only [Option.bind_some] at hu
        split at hu
        · cases hu; exact hs
        · split at hu
          · cases hu
          · cases hu
            exact foldl_keeps (s := s) hs fun s x h => State.refPage_keeps _ _ h
  exact H _ _ (fun u hu => by cases hu; exact hk) t h

theorem State.timeChkptCopies_keeps {K : Kept} (s : State)
    (hk : Keeps K s) : Keeps K (State.timeChkptCopies s) := by
  simp only [State.timeChkptCopies]
  repeat' first
    | with_reducible first
      | assumption | apply foldl_keeps | apply foldl_keeps_fst | apply foldl_keeps_snd
    | split | intro _ | (simp only [keeps_mk, keeps_fold])

theorem State.chkptStep_keeps {K : Kept} {s t : State} {k : Checkpoint} (hk : Keeps K s) (h : State.chkptStep s k = .ok t) :
    Keeps K t := by
  unfold State.chkptStep at h
  split at h
  · cases h
  · rename_i u hu
    have hu := State.reserveChkpt_keeps hk hu
    split at h
    · cases h
    · cases h
      exact State.timeChkptCopies_keeps _ hu

theorem State.orderCheckpoint_keeps {K : Kept} (s : State) (stamp : Nat)
    (hk : Keeps K s) : Keeps K (State.orderCheckpoint s stamp) := by
  simp only [State.orderCheckpoint]
  repeat' first
    | with_reducible first
      | assumption | apply State.addUnit_keeps | apply foldl_keeps | apply foldl_keeps_fst | apply foldl_keeps_snd
    | split | intro _

theorem State.startCheckpoint_keeps {K : Kept} (s : State) (cmd : Option Nat) (store offset limit reelAddr reelLen step : Nat)
    (hk : Keeps K s) : Keeps K (State.startCheckpoint s cmd store offset limit reelAddr reelLen step) := by
  simp only [State.startCheckpoint]
  repeat' first
    | with_reducible assumption | split | (simp only [keeps_mk, keeps_fold])

theorem State.chkptTileDone_keeps {K : Kept} (s : State)
    (hk : Keeps K s) : Keeps K (State.chkptTileDone s) := by
  simp only [State.chkptTileDone]
  repeat' first
    | with_reducible first
      | assumption | apply State.copiedTo_keeps | apply State.dropChkptCopies_keeps | apply foldl_keeps
        | apply foldl_keeps_fst | apply foldl_keeps_snd
    | split | intro _ | (simp only [keeps_mk, keeps_fold])

theorem State.writeReel_keeps {K : Kept} (s : State) (stamp : Nat)
    (hk : Keeps K s) : Keeps K (State.writeReel s stamp) := by
  simp only [State.writeReel]
  repeat' first
    | with_reducible first
      | assumption | apply State.drawFree_keeps | apply State.dropCheckpoint_keeps | apply State.writeHost_keeps
    | split | (simp only [keeps_mk, keeps_fold])

theorem State.failCheckpoint_keeps {K : Kept} (s : State)
    (hk : Keeps K s) : Keeps K (State.failCheckpoint s) := by
  simp only [State.failCheckpoint]
  repeat' first
    | with_reducible first
      | assumption | apply State.dropCheckpoint_keeps

theorem State.startRestore_keeps {K : Kept} (s : State) (cmd : Option Nat) (reel : Bytes) (by_ : Nat)
    (hk : Keeps K s) : Keeps K (State.startRestore s cmd reel by_) := by
  simp only [State.startRestore]
  repeat' first
    | with_reducible first
      | assumption | apply foldl_keeps | apply foldl_keeps_fst | apply foldl_keeps_snd
    | split | intro _ | (simp only [keeps_mk, keeps_fold])

theorem State.restoreRecord_keeps {K : Kept} (s : State) (idx : Nat)
    (hk : Keeps K s) : Keeps K (State.restoreRecord s idx) := by
  simp only [State.restoreRecord]
  repeat' first
    | with_reducible first
      | assumption | apply State.storeKv_keeps | apply State.updSess_keeps
    | split | (simp only [keeps_mk, keeps_fold])

theorem State.endRestore_keeps {K : Kept} (s : State)
    (hk : Keeps K s) : Keeps K (State.endRestore s) := by
  simp only [State.endRestore]
  repeat' first
    | with_reducible first
      | assumption | apply foldl_keeps | apply foldl_keeps_fst | apply foldl_keeps_snd
    | split | intro _ | (simp only [keeps_mk, keeps_fold])

theorem State.setEnergy_keeps {K : Kept} (s : State) (w : Nat)
    (hk : Keeps K s) : Keeps K (State.setEnergy s w) := by
  simp only [State.setEnergy]
  repeat' first
    | with_reducible assumption | split | (simp only [keeps_mk, keeps_fold])

theorem State.settleWhorl_keeps {K : Kept} (s : State) (ew : Nat)
    (hk : Keeps K s) : Keeps K (State.settleWhorl s ew) := by
  simp only [State.settleWhorl]
  repeat' first
    | with_reducible first
      | assumption | apply State.count_keeps
    | split | (simp only [keeps_mk, keeps_fold])

theorem State.peakTrip_keeps {K : Kept} (s : State)
    (hk : Keeps K s) : Keeps K (State.peakTrip s) := by
  simp only [State.peakTrip]
  repeat' first
    | with_reducible first
      | assumption | apply State.count_keeps
    | split | (simp only [keeps_mk, keeps_fold])

theorem State.stepPoint_keeps {K : Kept} (s : State) (down ok : Bool)
    (hk : Keeps K s) : Keeps K (State.stepPoint s down ok) := by
  simp only [State.stepPoint]
  repeat' first
    | with_reducible first
      | assumption | apply State.count_keeps
    | split | (simp only [keeps_mk, keeps_fold])

theorem State.declareHang_keeps {K : Kept} (s : State) (cause mbox : Nat)
    (hk : Keeps K s) : Keeps K (State.declareHang s cause mbox) := by
  simp only [State.declareHang]
  repeat' first
    | with_reducible first
      | assumption | apply State.stage_keeps | apply State.count_keeps | apply State.trigger_keeps
        | apply State.traceRec_keeps | apply State.setSticky_keeps
    | split | (simp only [keeps_mk, keeps_fold])

theorem State.setTrace_keeps {K : Kept} (s : State) (b : Bytes)
    (hk : Keeps K s) : Keeps K (State.setTrace s b) := by
  simp only [State.setTrace]
  repeat' first
    | with_reducible first
      | assumption | apply State.setSticky_keeps | apply State.traceRec_keeps
    | split | (simp only [keeps_mk, keeps_fold])

theorem State.halt_keeps {K : Kept} (s : State) (hk : Keeps K s) : Keeps K (State.halt s) := by
  have h := State.dropWork_keeps s hk
  exact ⟨h.1, h.2.1, h.2.2.1, hk.2.2.2.1, h.2.2.2.2⟩

theorem State.activateMap_keeps {K : Kept} (s : State) (m : RouteMap)
    (hk : Keeps K s) : Keeps K (State.activateMap s m) := by
  simp only [State.activateMap]
  repeat' first
    | with_reducible assumption | split | (simp only [keeps_mk, keeps_fold])

theorem State.drainEpoch_keeps {K : Kept} (s : State)
    (hk : Keeps K s) : Keeps K (State.drainEpoch s) := by
  simp only [State.drainEpoch]
  repeat' first
    | with_reducible first
      | assumption | apply State.stage_keeps | apply foldl_keeps | apply foldl_keeps_fst | apply foldl_keeps_snd
    | split | intro _ | (simp only [keeps_mk, keeps_fold])

theorem State.postHeld_keeps {K : Kept} (s : State) (idx k stamp : Nat)
    (hk : Keeps K s) : Keeps K (State.postHeld s idx k stamp) := by
  simp only [State.postHeld]
  repeat' first
    | with_reducible first
      | assumption | apply State.traceRec_keeps | apply State.count_keeps | apply State.writeHost_keeps
    | split | (simp only [keeps_mk, keeps_fold])

theorem State.postHeldDone_keeps {K : Kept} (s : State) (idx stamp : Nat)
    (hk : Keeps K s) : Keeps K (State.postHeldDone s idx stamp) := by
  simp only [State.postHeldDone]
  repeat' first
    | with_reducible first
      | assumption | apply State.postOwed_keeps
    | split

theorem State.advanceClaim_keeps {K : Kept} (s : State) (idx n : Nat)
    (hk : Keeps K s) : Keeps K (State.advanceClaim s idx n) := by
  simp only [State.advanceClaim]
  repeat' first
    | with_reducible first
      | assumption | apply State.updSess_keeps
    | split | (simp only [keeps_mk, keeps_fold])

theorem State.destroySession_keeps {K : Kept} (s : State) (idx : Nat)
    (hk : Keeps K s) : Keeps K (State.destroySession s idx) := by
  simp only [State.destroySession]
  repeat' first
    | with_reducible first
      | assumption | apply State.dropSessionUnits_keeps | apply State.releaseKv_keeps
    | split | (simp only [keeps_mk, keeps_fold])

theorem State.setSessState_keeps {K : Kept} (s : State) (idx : Nat) (st : SessState)
    (hk : Keeps K s) : Keeps K (State.setSessState s idx st) := by
  simp only [State.setSessState]
  repeat' first
    | with_reducible first
      | assumption | apply State.suspendStall_keeps | apply State.updSess_keeps
    | split

theorem State.startPurge_keeps {K : Kept} (s : State) (k : RootKey) (node : Option Nat) (cmd : Nat)
    (hk : Keeps K s) : Keeps K (State.startPurge s k node cmd) := by
  simp only [State.startPurge]
  repeat' first
    | with_reducible first
      | assumption | apply State.purgeNodes_keeps | apply State.addUnit_keeps
    | split | (simp only [keeps_mk, keeps_fold])

theorem State.resumeReq_keeps {K : Kept} (s : State) (r m gen : Nat) (gid : Option Nat) (g : Option Grammar) (stamp : Nat)
    (hk : Keeps K s) : Keeps K (State.resumeReq s r m gen gid g stamp) := by
  simp only [State.resumeReq]
  repeat' first
    | with_reducible first
      | assumption | apply State.updReq_keeps | apply State.updSess_keeps
    | split

theorem State.startCompact_keeps {K : Kept} (s : State) (k cmd stamp : Nat)
    (hk : Keeps K s) : Keeps K (State.startCompact s k cmd stamp) := by
  simp only [State.startCompact]
  repeat' first
    | with_reducible first
      | assumption | apply State.updStore_keeps | apply State.addUnit_keeps
    | split

theorem State.dropStore_keeps {K : Kept} (s : State) (k : Nat)
    (hk : Keeps K s) : Keeps K (State.dropStore s k) := by
  simp only [State.dropStore]
  repeat' first
    | with_reducible assumption | split | (simp only [keeps_mk, keeps_fold])

theorem State.announceShrink_keeps {K : Kept} (s : State) (surv : Word64)
    (hk : Keeps K s) : Keeps K (State.announceShrink s surv) := by
  simp only [State.announceShrink]
  repeat' first
    | with_reducible first
      | assumption | apply State.sendAll_keeps
    | split | (simp only [keeps_mk, keeps_fold])

theorem State.finishVault_keeps {K : Kept} (s : State) (stamp : Nat)
    (hk : Keeps K s) : Keeps K (State.finishVault s stamp) := by
  simp only [State.finishVault]
  repeat' first
    | with_reducible first
      | assumption | apply State.applyVault_keeps | apply State.addUnit_keeps | apply foldl_keeps
        | apply foldl_keeps_fst | apply foldl_keeps_snd
    | split | intro _ | (simp only [keeps_mk, keeps_fold])

theorem State.shutDown_keeps {K : Kept} (s : State) (bist : Bool)
    (hk : Keeps K s) : Keeps K (State.shutDown s bist) := by
  simp only [State.shutDown]
  repeat' first
    | with_reducible first
      | assumption | apply State.dropCopy_keeps | apply foldl_keeps | apply foldl_keeps_fst | apply foldl_keeps_snd
    | split | intro _ | (simp only [keeps_mk, keeps_fold])

theorem State.markRepairs_keeps {K : Kept} (s : State)
    (hk : Keeps K s) : Keeps K (State.markRepairs s) := by
  simp only [State.markRepairs]
  repeat' first
    | with_reducible assumption | split | (simp only [keeps_mk, keeps_fold])

theorem State.writeDci_keeps {K : Kept} (s : State) (b : Bytes)
    (hk : Keeps K s) : Keeps K (State.writeDci s b) := by
  simp only [State.writeDci]
  repeat' first
    | with_reducible first
      | assumption | apply State.writeHost_keeps
    | split | (simp only [keeps_mk, keeps_fold])

theorem State.postDci_keeps {K : Kept} (s : State) (stamp tag op : Nat) (st : Status) (res : Bytes)
    (hk : Keeps K s) : Keeps K (State.postDci s stamp tag op st res) := by
  simp only [State.postDci]
  repeat' first
    | with_reducible first
      | assumption | apply State.writeDci_keeps | apply State.traceRec_keeps | apply State.count_keeps
    | split | (simp only [keeps_mk, keeps_fold])

theorem State.applyImage_keeps {K : Kept} (s : State) (e : Effect)
    (hk : Keeps K s) : Keeps K (State.applyImage s e) := by
  simp only [State.applyImage]
  repeat' first
    | with_reducible first
      | assumption | apply State.startLoad_keeps | apply State.retireModel_keeps | apply State.activateModel_keeps
        | apply State.freeModel_keeps | apply State.putNewExchange_keeps | apply State.reportLoadedOf_keeps
        | apply State.addAdapter_keeps | apply State.retireAdapterVer_keeps | apply State.freeAdapterVer_keeps
    | split | (simp only [keeps_mk, keeps_fold])

theorem State.applySession_keeps {K : Kept} (s : State) (e : Effect) (stamp : Nat)
    (hk : Keeps K s) : Keeps K (State.applySession s e stamp) := by
  simp only [State.applySession]
  repeat' first
    | with_reducible first
      | assumption | apply State.destroySession_keeps | apply State.setSessState_keeps | apply State.startCopy_keeps
        | apply State.copyTileDone_keeps | apply State.copyFailed_keeps | apply State.startRevival_keeps
        | apply State.revivalTile_keeps | apply State.revivalFailed_keeps | apply State.rebuildFailed_keeps
        | apply State.startOffer_keeps | apply State.acceptHandoff_keeps | apply State.freeAccepting_keeps
        | apply State.updDst_keeps | apply State.giveAway_keeps | apply State.revertOffer_keeps
        | apply State.ownSession_keeps | apply State.advanceClaim_keeps | apply State.updSess_keeps
        | apply State.cutOrRelease_keeps | apply State.moveSession_keeps | apply State.startRebuild_keeps
    | split | (simp only [keeps_mk, keeps_fold])

theorem State.applyRequest_keeps {K : Kept} (s : State) (e : Effect) (stamp : Nat)
    (hk : Keeps K s) : Keeps K (State.applyRequest s e stamp) := by
  simp only [State.applyRequest]
  repeat' first
    | with_reducible first
      | assumption | apply State.applySubmit_keeps | apply State.resumeReq_keeps | apply State.applyTokenized_keeps
        | apply State.applyLookedUp_keeps | apply State.applyPrefilled_keeps | apply State.applyDecoded_keeps
        | apply State.applyStalled_keeps
    | split

theorem State.applyStore_keeps {K : Kept} (s : State) (e : Effect) (stamp : Nat)
    (hk : Keeps K s) : Keeps K (State.applyStore s e stamp) := by
  simp only [State.applyStore]
  repeat' first
    | with_reducible first
      | assumption | apply State.dropStore_keeps | apply State.appendSide_keeps | apply State.startQuery_keeps
        | apply State.endQuery_keeps | apply State.startCompact_keeps | apply State.finishCompact_keeps
        | apply State.commitPass_keeps
    | split | (simp only [keeps_mk, keeps_fold])

theorem State.applyConfig_keeps {K : Kept} (s : State) (e : Effect) (stamp : Nat)
    (hk : Keeps K s) : Keeps K (State.applyConfig s e stamp) := by
  simp only [State.applyConfig]
  repeat' first
    | with_reducible first
      | assumption | apply State.holdSlot_keeps | apply State.finishVault_keeps | apply State.setEnergy_keeps
        | apply State.setTrace_keeps | apply State.trigger_keeps | apply State.startPurge_keeps
        | apply State.prune_keeps | apply State.sweepPurge_keeps | apply State.reencrypt_keeps
        | apply State.reshardChunk_keeps | apply State.markRepairs_keeps | apply State.startJoin_keeps
        | apply State.announceShrink_keeps
    | split | (simp only [keeps_mk, keeps_fold])

theorem State.applyOutput_keeps {K : Kept} (s : State) (e : Effect) (stamp : Nat) (hk : Keeps K s) :
    Keeps K (State.applyOutput s e stamp) := by
  unfold State.applyOutput
  cases e
  all_goals simp only
  all_goals first
    | exact hk
    | exact State.writeHost_keeps _ _ _ _ hk
    | exact State.writeHost_keeps _ _ _ _ (State.report_keeps _ _ _ _ _ _ _ hk)
    | exact State.updMbx_keeps _ _ _ hk
    | exact State.startCheckpoint_keeps _ _ _ _ _ _ _ _ hk
    | exact State.chkptTileDone_keeps _ hk
    | exact State.orderCheckpoint_keeps _ _ hk
    | exact State.failCheckpoint_keeps _ hk
    | exact State.writeReel_keeps _ _ hk
    | exact State.startRestore_keeps _ _ _ _ hk
    | exact State.restoreRecord_keeps _ _ hk
    | exact State.endRestore_keeps _ hk
    | exact State.shutDown_keeps _ _ hk

theorem State.applyPlain_keeps {K : Kept} (s : State) (e : Effect) (stamp : Nat)
    (hk : Keeps K s) : Keeps K (State.applyPlain s e stamp) := by
  simp only [State.applyPlain]
  repeat' first
    | with_reducible first
      | assumption | apply State.applyOutput_keeps | apply State.applyConfig_keeps | apply State.applyStore_keeps
        | apply State.applyRequest_keeps | apply State.applySession_keeps | apply State.applyImage_keeps

theorem State.applySpool_keeps {K : Kept} (s : State) (idx ty fl : Nat) (pay : Bytes) (stamp : Nat)
    (hk : Keeps K s) : Keeps K (State.applySpool s idx ty fl pay stamp) := by
  simp only [State.applySpool]
  repeat' first
    | with_reducible first
      | assumption | apply State.endReq_keeps | apply State.appendSpool_keeps | apply State.cutOrRelease_keeps
        | apply State.freeReq_keeps
    | split

theorem State.publish_keeps {K : Kept} (s : State) (e : Effect) (stamp : Nat) (own : Bool)
    (hk : Keeps K s) : Keeps K (State.publish s e stamp own) := by
  simp only [State.publish]
  repeat' first
    | with_reducible first
      | assumption | apply State.postRing_keeps | apply State.postReqDone_keeps | apply State.applySpool_keeps
        | apply State.finishCmd_keeps | apply State.postEvent_keeps | apply State.sendMsg_keeps
        | apply State.postHeld_keeps | apply State.postHeldDone_keeps | apply State.postDci_keeps
    | split

theorem publishStep_keeps {K : Kept} (session : Option Nat) (q : State × Nat) (e : Effect) (hk : Keeps K q.1) :
    Keeps K (publishStep session q e).1 := State.publish_keeps _ _ _ _ hk

theorem State.touch_keeps {K : Kept} (s : State) (idx : Option Nat) (stamp : Nat)
    (hk : Keeps K s) : Keeps K (State.touch s idx stamp) := by
  simp only [State.touch]
  repeat' first
    | with_reducible first
      | assumption | apply State.updSess_keeps
    | split

theorem State.applyItem_keeps {K : Kept} (s : State) (seq : Nat) (i : Item)
    (hk : Keeps K s) : Keeps K (State.applyItem s seq i).1 := by
  simp only [State.applyItem]
  repeat' first
    | with_reducible first
      | assumption | apply State.applyPlain_keeps | apply State.touch_keeps | apply publishStep_keeps
        | apply foldl_keeps | apply foldl_keeps_fst | apply foldl_keeps_snd
    | split | intro _

theorem State.view_keeps {K : Kept} (s : State)
    (hk : Keeps K s) : Keeps K (State.view s) := by
  simp only [State.view]
  repeat' first
    | with_reducible first
      | assumption | apply State.applyPlain_keeps | apply foldl_keeps | apply foldl_keeps_fst | apply foldl_keeps_snd
    | split | intro _

end Sys2Proof.Machine
end

