-- ==== Sys2Proof/Laws/KeepsGroup.lean ====
section
/-! SUPPORT. Preservation (Laws/KeepsBase.lean) by the operations of Nci, RequestCmds, AdminCmds, Units, Background, Commands, Exchanges, Handoffs, Messages, Joining. -/
namespace Sys2Proof.Machine

theorem State.fetchFailed_keeps {K : Kept} (s : State) (m : Fin 64)
    (hk : Keeps K s) : Keeps K (State.fetchFailed s m) := by
  simp only [State.fetchFailed]
  repeat' first
    | with_reducible first
      | assumption | apply State.updMbx_keeps

theorem State.fetched_keeps {K : Kept} (s : State) (m : Fin 64) (c : Cmd)
    (hk : Keeps K s) : Keeps K (State.fetched s m c) := by
  simp only [State.fetched]
  repeat' first
    | with_reducible first
      | assumption | apply State.updMbx_keeps
    | split | (simp only [keeps_mk, keeps_fold])

theorem State.reject_keeps {K : Kept} (s : State) (m : Fin 64) (id op : Nat) (st : Status) (res : Bytes)
    (hk : Keeps K s) : Keeps K (State.reject s m id op st res) := by
  simp only [State.reject]
  repeat' first
    | with_reducible first
      | assumption | apply State.updMbx_keeps | apply State.stage_keeps | apply State.count_keeps

theorem State.acceptCmd_keeps {K : Kept} (s : State) (x : Ctx) (effs : List Effect)
    (hk : Keeps K s) : Keeps K (State.acceptCmd s x effs) := by
  simp only [State.acceptCmd]
  repeat' first
    | with_reducible first
      | assumption | apply State.count_keeps | apply State.stage_keeps | apply State.view_keeps
        | apply State.sendMsg_keeps | apply foldl_keeps | apply foldl_keeps_fst | apply foldl_keeps_snd
    | split | intro _ | (simp only [keeps_mk, keeps_fold])

theorem State.loadRejected_keeps {K : Kept} (s : State) (x : Ctx) (st : Status)
    (hk : Keeps K s) : Keeps K (State.loadRejected s x st) := by
  simp only [State.loadRejected]
  repeat' first
    | with_reducible first
      | assumption | apply State.waitOver_keeps | apply State.stage_keeps
    | split | (simp only [keeps_mk, keeps_fold])

theorem State.runCommand_keeps {K : Kept} (s : State) (m : Fin 64) (id op : Nat) (c : Cmd)
    (own : State → Ctx → Checked (List Effect)) (now : State → Ctx → State) (hn : ∀ s x, Keeps K s → Keeps K (now s x))
    (hk : Keeps K s) : Keeps K (State.runCommand s m id op c own now) := by
  simp only [State.runCommand]
  split
  · exact State.loadRejected_keeps _ _ _ (State.reject_keeps _ _ _ _ _ _ hk)
  · exact hn _ _ (State.acceptCmd_keeps _ _ _ hk)

theorem State.markCancel_keeps {K : Kept} (s : State) (x : Ctx)
    (hk : Keeps K s) : Keeps K (State.markCancel s x) := by
  simp only [State.markCancel]
  repeat' first
    | with_reducible first
      | assumption | apply State.updReq_keeps
    | split | (simp only [keeps_mk, keeps_fold])

theorem State.withRestored_keeps {K : Kept} (v : State) (reel : Bytes)
    (hk : Keeps K v) : Keeps K (State.withRestored v reel) := by
  simp only [State.withRestored]
  repeat' first
    | with_reducible first
      | assumption | apply foldl_keeps | apply foldl_keeps_fst | apply foldl_keeps_snd
    | split | intro _ | (simp only [keeps_mk, keeps_fold])

theorem State.hangNow_keeps {K : Kept} (s : State) (x : Ctx) (hk : Keeps K s) : Keeps K (State.hangNow s x) := by
  simp only [State.hangNow]
  split
  · exact hk
  · exact State.declareHang_keeps _ _ _ hk

theorem State.finish_keeps {K : Kept} (s : State) (k : Nat) (u : UnitRec) (effs : List Effect)
    (hk : Keeps K s) : Keeps K (State.finish s k u effs) := by
  simp only [State.finish]
  repeat' first
    | with_reducible first
      | assumption | apply State.finishUnit_keeps

theorem State.runUnit_keeps {K : Kept} (s : State) (i : Nat) (f : UnitKind → Option (Option (List Effect)))
    (hk : Keeps K s) : Keeps K (State.runUnit s i f) := by
  simp only [State.runUnit]
  repeat' first
    | with_reducible first
      | assumption | apply State.finish_keeps | apply State.abandonUnit_keeps
    | split

theorem State.endBound_keeps {K : Kept} (s : State) (d : Digest) (st : Status)
    (hk : Keeps K s) : Keeps K (State.endBound s d st) := by
  simp only [State.endBound]
  repeat' first
    | with_reducible first
      | assumption | apply State.stage_keeps | apply foldl_keeps | apply foldl_keeps_fst | apply foldl_keeps_snd
    | split | intro _

theorem State.noteKeyMiss_keeps {K : Kept} (s : State) (i : Nat)
    (hk : Keeps K s) : Keeps K (State.noteKeyMiss s i) := by
  simp only [State.noteKeyMiss]
  repeat' first
    | with_reducible first
      | assumption | apply State.traceRec_keeps
    | split

theorem State.dropOwner_keeps {K : Kept} (s : State) (u : UnitRec)
    (hk : Keeps K s) : Keeps K (State.dropOwner s u) := by
  simp only [State.dropOwner]
  repeat' first
    | with_reducible first
      | assumption | apply State.updStore_keeps
    | split | (simp only [keeps_mk, keeps_fold])

theorem State.dropUnit_keeps {K : Kept} (s : State) (k : Option Nat) (u : UnitRec)
    (hk : Keeps K s) : Keeps K (State.dropUnit s k u) := by
  simp only [State.dropUnit]
  repeat' first
    | with_reducible first
      | assumption | apply State.returnCredits_keeps
    | split | (simp only [keeps_mk, keeps_fold])

theorem State.runTile_keeps {K : Kept} (s : State) (i : Nat) (f : UnitKind → Nat → Option (List Effect))
    (hk : Keeps K s) : Keeps K (State.runTile s i f) := by
  simp only [State.runTile]
  repeat' first
    | with_reducible first
      | assumption | apply State.pauseUnit_keeps | apply State.finish_keeps
    | split

theorem State.noteCopyMiss_keeps {K : Kept} (s : State) (i : Nat)
    (hk : Keeps K s) : Keeps K (State.noteCopyMiss s i) := by
  simp only [State.noteCopyMiss]
  repeat' first
    | with_reducible first
      | assumption | apply State.traceRec_keeps
    | split

theorem State.endFailed_keeps {K : Kept} (s : State) (u : UnitRec)
    (hk : Keeps K s) : Keeps K (State.endFailed s u) := by
  simp only [State.endFailed]
  repeat' first
    | with_reducible first
      | assumption | apply State.endBound_keeps
    | split

theorem nowOf_keeps {K : Kept} (op : Nat) (s : State) (x : Ctx)
    (hk : Keeps K s) : Keeps K (nowOf op s x) := by
  simp only [nowOf]
  repeat' first
    | with_reducible first
      | assumption | apply State.markCancel_keeps | apply State.hangNow_keeps
    | split

theorem State.rerun_keeps {K : Kept} (s : State) (id m : Nat) (c : Cmd)
    (hk : Keeps K s) : Keeps K (State.rerun s id m c) := by
  simp only [State.rerun]
  repeat' first
    | with_reducible first
      | assumption | apply State.runCommand_keeps | apply nowOf_keeps
    | split

theorem State.runForwarded_keeps {K : Kept} (s : State) (rank : Nat) (c : Cmd) (body : Bytes)
    (hk : Keeps K s) : Keeps K (State.runForwarded s rank c body) := by
  simp only [State.runForwarded]
  repeat' first
    | with_reducible first
      | assumption | apply State.view_keeps | apply nowOf_keeps | apply State.stage_keeps
    | split

theorem State.failLoad_keeps {K : Kept} (s : State) (slot : Nat) (m : Model) (st : Status)
    (hk : Keeps K s) : Keeps K (State.failLoad s slot m st) := by
  simp only [State.failLoad]
  repeat' first
    | with_reducible first
      | assumption | apply State.stage_keeps
    | split | (simp only [keeps_mk, keeps_fold])

theorem State.finishStaged_keeps {K : Kept} (s : State)
    (hk : Keeps K s) : Keeps K (State.finishStaged s) := by
  simp only [State.finishStaged]
  repeat' first
    | with_reducible first
      | assumption | apply State.stage_keeps
    | split | (simp only [keeps_mk, keeps_fold])

theorem State.passOn_keeps {K : Kept} (s : State) (src : Word64) (m : Bytes)
    (hk : Keeps K s) : Keeps K (State.passOn s src m) := by
  simp only [State.passOn]
  repeat' first
    | with_reducible first
      | assumption | apply State.sendAll_keeps
    | split

theorem State.ownerAnswer_keeps {K : Kept} (s : State) (id v : Nat) (d : HandoffDst)
    (hk : Keeps K s) : Keeps K (State.ownerAnswer s id v d) := by
  simp only [State.ownerAnswer]
  repeat' first
    | with_reducible first
      | assumption | apply State.stage_keeps | apply State.updDst_keeps
    | split

theorem State.keepDecision_keeps {K : Kept} (s : State) (key : UnitKey) (c : Bool)
    (hk : Keeps K s) : Keeps K (State.keepDecision s key c) := by
  simp only [State.keepDecision]
  repeat' first
    | with_reducible assumption | split | (simp only [keeps_mk, keeps_fold])

theorem State.settleVote_keeps {K : Kept} (s : State) (key : UnitKey) (c : Bool)
    (hk : Keeps K s) : Keeps K (State.settleVote s key c) := by
  simp only [State.settleVote]
  repeat' first
    | with_reducible first
      | assumption | apply State.keepDecision_keeps | apply State.sendMsg_keeps | apply foldl_keeps
        | apply foldl_keeps_fst | apply foldl_keeps_snd
    | split | intro _

theorem State.tally_keeps {K : Kept} (s : State) (key : UnitKey)
    (hk : Keeps K s) : Keeps K (State.tally s key) := by
  simp only [State.tally]
  repeat' first
    | with_reducible first
      | assumption | apply State.settleVote_keeps
    | split

theorem State.vote_keeps {K : Kept} (s : State) (rank : Nat) (key : UnitKey) (ok : Bool)
    (hk : Keeps K s) : Keeps K (State.vote s rank key ok) := by
  simp only [State.vote]
  repeat' first
    | with_reducible first
      | assumption | apply State.tally_keeps
    | split | (simp only [keeps_mk, keeps_fold])

theorem State.hearDecision_keeps {K : Kept} (s : State) (rank : Fin 64) (key : UnitKey) (c : Bool)
    (hk : Keeps K s) : Keeps K (State.hearDecision s rank key c) := by
  simp only [State.hearDecision]
  repeat' first
    | with_reducible first
      | assumption | apply State.keepDecision_keeps
    | split

theorem State.mismatch_keeps {K : Kept} (s : State)
    (hk : Keeps K s) : Keeps K (State.mismatch s) := by
  simp only [State.mismatch]
  repeat' first
    | with_reducible assumption | split | (simp only [keeps_mk, keeps_fold])

theorem State.takeVerdict_keeps {K : Kept} (s : State) (go : Bool)
    (hk : Keeps K s) : Keeps K (State.takeVerdict s go) := by
  simp only [State.takeVerdict]
  repeat' first
    | with_reducible first
      | assumption | apply State.mismatch_keeps
    | split | (simp only [keeps_mk, keeps_fold])

theorem State.decideTable_keeps {K : Kept} (s : State) (go : Bool)
    (hk : Keeps K s) : Keeps K (State.decideTable s go) := by
  simp only [State.decideTable]
  repeat' first
    | with_reducible first
      | assumption | apply State.takeVerdict_keeps
    | split | (simp only [keeps_mk, keeps_fold])

theorem State.sendVerdict_keeps {K : Kept} (s : State) (go : Bool)
    (hk : Keeps K s) : Keeps K (State.sendVerdict s go) := by
  simp only [State.sendVerdict]
  repeat' first
    | with_reducible first
      | assumption | apply State.decideTable_keeps | apply State.stage_keeps

theorem State.gotLoaded_keeps {K : Kept} (s : State) (rank : Nat) (d : Digest) (last : Nat)
    (hk : Keeps K s) : Keeps K (State.gotLoaded s rank d last) := by
  simp only [State.gotLoaded]
  repeat' first
    | with_reducible first
      | assumption | apply State.updExchange_keeps | apply State.putNewExchange_keeps
    | split

theorem State.dropExchange_keeps {K : Kept} (s : State) (k : Nat) (x : Exchange) (st : Status)
    (hk : Keeps K s) : Keeps K (State.dropExchange s k x st) := by
  simp only [State.dropExchange]
  repeat' first
    | with_reducible first
      | assumption | apply State.stage_keeps
    | split | (simp only [keeps_mk, keeps_fold])

theorem State.endLate_keeps {K : Kept} (s : State) (d : Digest) (st : Status)
    (hk : Keeps K s) : Keeps K (State.endLate s d st) := by
  simp only [State.endLate]
  repeat' first
    | with_reducible first
      | assumption | apply State.stage_keeps
    | split

theorem State.gotFailed_keeps {K : Kept} (s : State) (d : Digest) (st : Status)
    (hk : Keeps K s) : Keeps K (State.gotFailed s d st) := by
  simp only [State.gotFailed]
  repeat' first
    | with_reducible first
      | assumption | apply State.dropExchange_keeps | apply State.endLate_keeps | apply State.stage_keeps
    | split

theorem State.gotActivate_keeps {K : Kept} (s : State) (d : Digest) (tick ver : Nat)
    (hk : Keeps K s) : Keeps K (State.gotActivate s d tick ver) := by
  simp only [State.gotActivate]
  repeat' first
    | with_reducible first
      | assumption | apply State.updExchange_keeps
    | split

theorem State.gotAbort_keeps {K : Kept} (s : State) (d : Digest)
    (hk : Keeps K s) : Keeps K (State.gotAbort s d) := by
  simp only [State.gotAbort]
  repeat' first
    | with_reducible first
      | assumption | apply State.dropExchange_keeps
    | split

theorem State.gotForward_keeps {K : Kept} (s : State) (rank : Nat) (c : Cmd) (body : Bytes)
    (hk : Keeps K s) : Keeps K (State.gotForward s rank c body) := by
  simp only [State.gotForward]
  repeat' first
    | with_reducible first
      | assumption | apply State.stage_keeps | apply State.startCheckpoint_keeps | apply State.view_keeps
        | apply State.reportLoadedOf_keeps | apply State.putNewExchange_keeps
    | split | (simp only [keeps_mk, keeps_fold])

theorem State.arriveReq_keeps {K : Kept} (s : State) (idx : Nat) (es : List Bytes) (rm gs : Bytes)
    (hk : Keeps K s) : Keeps K (State.arriveReq s idx es rm gs) := by
  simp only [State.arriveReq]
  repeat' first
    | with_reducible first
      | assumption | apply State.updSess_keeps
    | split | (simp only [keeps_mk, keeps_fold])

theorem State.arriveSpool_keeps {K : Kept} (s : State) (idx : Nat) (es : List Bytes) (rm gs : Bytes)
    (hk : Keeps K s) : Keeps K (State.arriveSpool s idx es rm gs) := by
  simp only [State.arriveSpool]
  repeat' first
    | with_reducible first
      | assumption | apply State.updSess_keeps | apply State.arriveReq_keeps
    | split | (simp only [keeps_mk, keeps_fold])

theorem State.arriveTile_keeps {K : Kept} (s : State) (d : Digest) (off : Nat) (data : Bytes)
    (hk : Keeps K s) : Keeps K (State.arriveTile s d off data) := by
  simp only [State.arriveTile]
  repeat' first
    | with_reducible first
      | assumption | apply State.reshardChunk_keeps
    | split | (simp only [keeps_mk, keeps_fold])

theorem State.restoredOn_keeps {K : Kept} (s : State) (rank : Nat)
    (hk : Keeps K s) : Keeps K (State.restoredOn s rank) := by
  simp only [State.restoredOn]
  repeat' first
    | with_reducible first
      | assumption | apply State.stage_keeps
    | split | (simp only [keeps_mk, keeps_fold])

theorem State.gotMove_keeps {K : Kept} (s : State) (rank : Nat) (i : MoveItem)
    (hk : Keeps K s) : Keeps K (State.gotMove s rank i) := by
  simp only [State.gotMove]
  repeat' first
    | with_reducible first
      | assumption | apply State.arriveSpool_keeps | apply State.storeKv_keeps | apply State.arriveTile_keeps
        | apply State.restoredOn_keeps
    | split | (simp only [keeps_mk, keeps_fold])

theorem State.receive_keeps {K : Kept} (s : State) (rank tick : Nat) (i : Instr)
    (hk : Keeps K s) : Keeps K (State.receive s rank tick i) := by
  simp only [State.receive]
  repeat' first
    | with_reducible assumption | split | (simp only [keeps_mk, keeps_fold])

theorem State.deliver_keeps {K : Kept} (s : State) (i : Instr)
    (hk : Keeps K s) : Keeps K (State.deliver s i) := by
  simp only [State.deliver]
  repeat' first
    | with_reducible first
      | assumption | apply State.gotLoaded_keeps | apply State.gotFailed_keeps | apply State.gotActivate_keeps
        | apply State.gotAbort_keeps | apply State.gotForward_keeps | apply State.gotMove_keeps
        | apply State.updQuery_keeps | apply State.takeVerdict_keeps
    | split

theorem State.moveDecider_keeps {K : Kept} (s : State) (surv : Word64) (c : Nat)
    (hk : Keeps K s) : Keeps K (State.moveDecider s surv c) := by
  simp only [State.moveDecider]
  repeat' first
    | with_reducible assumption | split | (simp only [keeps_mk, keeps_fold])

theorem State.loseRemoved_keeps {K : Kept} (s : State)
    (hk : Keeps K s) : Keeps K (State.loseRemoved s) := by
  simp only [State.loseRemoved]
  repeat' first
    | with_reducible assumption | split | (simp only [keeps_mk, keeps_fold])

theorem State.takeCopies_keeps {K : Kept} (s : State) (n rank : Nat) (c : JoinCopy)
    (hk : Keeps K s) : Keeps K (State.takeCopies s n rank c) := by
  simp only [State.takeCopies]
  repeat' first
    | with_reducible first
      | assumption | apply foldl_keeps | apply foldl_keeps_fst | apply foldl_keeps_snd
    | split | intro _ | (simp only [keeps_mk, keeps_fold])

theorem State.takePlace_keeps {K : Kept} (hn : K.tick = none) (s : State) (d : Bytes) (tick : Nat)
    (hk : Keeps K s) : Keeps K (State.takePlace s d tick) := by
  simp only [State.takePlace]
  repeat' first
    | with_reducible first
      | assumption | apply State.drawFree_keeps | apply State.traceRec_keeps
    | split | (simp only [keeps_mk, keeps_fold]) | (apply KeepsOf.anyTick hn; exact State.drawFree_keeps s hk)

theorem State.sendHello_keeps {K : Kept} (s : State) (v : HelloVia) (peer : Nat) (body : Bytes)
    (hk : Keeps K s) : Keeps K (State.sendHello s v peer body) := by
  simp only [State.sendHello]
  repeat' first
    | with_reducible first
      | assumption | apply State.sendMsg_keeps | apply State.stage_keeps
    | split

theorem State.beginExchange_keeps {K : Kept} (s : State) (v : HelloVia) (peer : Nat)
    (hk : Keeps K s) : Keeps K (State.beginExchange s v peer).2 := by
  simp only [State.beginExchange]
  repeat' first
    | with_reducible first
      | assumption | apply State.newExchange_keeps | apply State.sendHello_keeps
    | split

theorem State.helloReport_keeps {K : Kept} (s : State) (nonce : Bytes)
    (hk : Keeps K s) : Keeps K (State.helloReport s nonce).2 := by
  simp only [State.helloReport]
  repeat' first
    | with_reducible first
      | assumption | apply State.drawFree_keeps | apply State.report_keeps
    | split | (simp only [keeps_mk, keeps_fold])

theorem State.helloOne_keeps {K : Kept} (s : State) (v : HelloVia) (body : Bytes)
    (hk : Keeps K s) : Keeps K (State.helloOne s v body) := by
  simp only [State.helloOne]
  repeat' first
    | with_reducible first
      | assumption | apply State.beginExchange_keeps | apply State.putExchange_keeps | apply State.helloReport_keeps
        | apply State.sendHello_keeps

theorem State.portUp_keeps {K : Kept} (s : State) (p : Fin 20) (peer : Nat)
    (hk : Keeps K s) : Keeps K (State.portUp s p peer) := by
  simp only [State.portUp]
  repeat' first
    | with_reducible assumption | split | (simp only [keeps_mk, keeps_fold])

theorem State.finishExchange_keeps {K : Kept} (s : State) (v : HelloVia) (x : KeyExchange)
    (hk : Keeps K s) : Keeps K (State.finishExchange s v x) := by
  simp only [State.finishExchange]
  repeat' first
    | with_reducible first
      | assumption | apply State.installExchange_keeps | apply State.putExchange_keeps | apply State.portUp_keeps
        | apply State.ackJoin_keeps | apply State.fillCopy_keeps
    | split

theorem State.failExchange_keeps {K : Kept} (s : State) (v : HelloVia)
    (hk : Keeps K s) : Keeps K (State.failExchange s v) := by
  simp only [State.failExchange]
  repeat' first
    | with_reducible first
      | assumption | apply State.traceRec_keeps | apply State.failJoin_keeps | apply State.ackJoin_keeps
        | apply State.updSrc_keeps
    | split

theorem State.helloTwo_keeps {K : Kept} (s : State) (v : HelloVia) (body : Bytes)
    (hk : Keeps K s) : Keeps K (State.helloTwo s v body) := by
  simp only [State.helloTwo]
  repeat' first
    | with_reducible first
      | assumption | apply State.finishExchange_keeps | apply State.failExchange_keeps
    | split

theorem State.helloBlock_keeps {K : Kept} (s : State) (v : HelloVia) (body : Bytes)
    (hk : Keeps K s) : Keeps K (State.helloBlock s v body) := by
  simp only [State.helloBlock]
  repeat' first
    | with_reducible first
      | assumption | apply State.helloOne_keeps | apply State.helloTwo_keeps
    | split

theorem State.helloLink_keeps {K : Kept} (s : State) (p : Fin 20) (body : Bytes)
    (hk : Keeps K s) : Keeps K (State.helloLink s p body) := by
  simp only [State.helloLink]
  repeat' first
    | with_reducible first
      | assumption | apply State.traceRec_keeps | apply State.helloBlock_keeps | apply State.finishExchange_keeps
    | split | (simp only [keeps_mk, keeps_fold])

end Sys2Proof.Machine
end

