-- ==== Sys2Proof/Laws/KeepsCommit.lean ====
section
/-! SUPPORT. Preservation (Laws/KeepsBase.lean) by the operations of Commit, Ticks. -/
namespace Sys2Proof.Machine

theorem foldl_keeps_run {K : Kept} {α : Type} {f : Committing → α → Committing} {xs : List α} {s : Committing}
    (h : Keeps K s.s)
    (H : ∀ s x, Keeps K s.s → Keeps K (f s x).s) : Keeps K (xs.foldl f s).s := by
  induction xs generalizing s with
  | nil => exact h
  | cons x xs ih => exact ih (H s x h)

theorem State.readConsumers_keeps {K : Kept} (s : State)
    (hk : Keeps K s) : Keeps K (State.readConsumers s) := by
  simp only [State.readConsumers]
  repeat' first
    | with_reducible first
      | assumption | apply State.traceRec_keeps | apply State.updReq_keeps | apply foldl_keeps
        | apply foldl_keeps_fst | apply foldl_keeps_snd | apply foldl_keeps_run
    | split | intro _

theorem State.sendReady_keeps {K : Kept} (s : State) (key : UnitKey)
    (hk : Keeps K s) : Keeps K (State.sendReady s key) := by
  simp only [State.sendReady]
  repeat' first
    | with_reducible first
      | assumption | apply State.vote_keeps | apply State.sendMsg_keeps
    | split

theorem State.reportUnits_keeps {K : Kept} (s : State)
    (hk : Keeps K s) : Keeps K (State.reportUnits s) := by
  simp only [State.reportUnits]
  repeat' first
    | with_reducible first
      | assumption | apply State.abandonUnit_keeps | apply State.sendReady_keeps | apply State.sendNotReady_keeps
        | apply foldl_keeps | apply foldl_keeps_fst | apply foldl_keeps_snd | apply foldl_keeps_run
    | split | intro _ | (simp only [keeps_mk, keeps_fold])

theorem State.sendMirrors_keeps {K : Kept} (s : State)
    (hk : Keeps K s) : Keeps K (State.sendMirrors s) := by
  simp only [State.sendMirrors]
  repeat' first
    | with_reducible first
      | assumption | apply State.sendMsg_keeps | apply foldl_keeps | apply foldl_keeps_fst | apply foldl_keeps_snd
        | apply foldl_keeps_run
    | split | intro _

theorem State.sendStatus_keeps {K : Kept} (s : State)
    (hk : Keeps K s) : Keeps K (State.sendStatus s) := by
  simp only [State.sendStatus]
  repeat' first
    | with_reducible first
      | assumption | apply State.sendAll_keeps
    | split | (simp only [keeps_mk, keeps_fold])

theorem State.cutUndecided_keeps {K : Kept} (s : State)
    (hk : Keeps K s) : Keeps K (State.cutUndecided s) := by
  simp only [State.cutUndecided]
  repeat' first
    | with_reducible first
      | assumption | apply State.settleVote_keeps | apply foldl_keeps | apply foldl_keeps_fst | apply foldl_keeps_snd
        | apply foldl_keeps_run
    | split | intro _

theorem State.cutUnacked_keeps {K : Kept} (s : State)
    (hk : Keeps K s) : Keeps K (State.cutUnacked s) := by
  simp only [State.cutUnacked]
  repeat' first
    | with_reducible assumption | split | (simp only [keeps_mk, keeps_fold])

theorem TickSt.deferOne_tick (t : TickSt) : t.deferOne.tick = t.tick := rfl

theorem State.deferItem_keeps {K : Kept} (s : State) (i : Item)
    (hk : Keeps K s) : Keeps K (State.deferItem s i) := by
  simp only [State.deferItem]
  repeat' first
    | with_reducible first
      | assumption | apply State.traceRec_keeps
    | split | (simp only [keeps_mk, keeps_fold, TickSt.deferOne_tick])

theorem State.noteCommit_keeps {K : Kept} (s : State) (i : Item)
    (hk : Keeps K s) : Keeps K (State.noteCommit s i) := by
  simp only [State.noteCommit]
  repeat' first
    | with_reducible first
      | assumption | apply State.traceRec_keeps | apply State.count_keeps
    | split

theorem State.nextPiece_keeps {K : Kept} (s : State) (i : Item)
    (hk : Keeps K s) : Keeps K (State.nextPiece s i) := by
  simp only [State.nextPiece]
  repeat' first
    | with_reducible first
      | assumption | apply State.addUnit_keeps
    | split

theorem Committing.run_keeps {K : Kept} (a : Committing) (i : Item)
    (hk : Keeps K a.s) : Keeps K (Committing.run a i).s := by
  simp only [Committing.run]
  repeat' first
    | with_reducible first
      | assumption | apply State.applyItem_keeps | apply State.noteCommit_keeps | apply State.nextPiece_keeps
        | apply State.deferItem_keeps
    | split

theorem Committing.runNow_keeps {K : Kept} (a : Committing) (i : Item) (after : State → State)
    (ha : ∀ s, Keeps K s → Keeps K (after s)) (hk : Keeps K a.s) : Keeps K (Committing.runNow a i after).s := by
  simp only [Committing.runNow]
  split
  · exact hk
  · split
    · exact ha _ (foldl_keeps (State.applyItem_keeps _ _ _ hk) fun s x h => State.addMirror_keeps _ _ h)
    · exact State.deferItem_keeps _ _ hk

theorem Committing.runSends_keeps {K : Kept} (a : Committing) (effs : List Effect) (after : State → State)
    (ha : ∀ s, Keeps K s → Keeps K (after s)) (hk : Keeps K a.s) : Keeps K (Committing.runSends a effs after).s := by
  simp only [Committing.runSends]
  split
  · exact ha _ hk
  · exact Committing.runNow_keeps _ _ _ ha hk

theorem State.tryAgain_keeps {K : Kept} (s : State) (i : Item)
    (hk : Keeps K s) : Keeps K (State.tryAgain s i) := by
  simp only [State.tryAgain]
  repeat' first
    | with_reducible assumption | split | (simp only [keeps_mk, keeps_fold])

theorem State.askDecision_keeps {K : Kept} (s : State) (tick : Nat) (i : Item)
    (hk : Keeps K s) : Keeps K (State.askDecision s tick i) := by
  simp only [State.askDecision]
  repeat' first
    | with_reducible first
      | assumption | apply State.sendMsg_keeps
    | split

theorem State.sortSteward_keeps {K : Kept} (s : State) (held : List UnitRec)
    (hk : Keeps K s) : Keeps K (State.sortSteward s held).2 := by
  simp only [State.sortSteward]
  repeat' first
    | with_reducible first
      | assumption | apply State.tryAgain_keeps | apply State.askDecision_keeps | apply foldl_keeps
        | apply foldl_keeps_fst | apply foldl_keeps_snd | apply foldl_keeps_run
    | split | intro _ | (simp only [keeps_mk, keeps_fold])

theorem State.sortUnits_keeps {K : Kept} (s : State)
    (hk : Keeps K s) : Keeps K (State.sortUnits s).2 := by
  simp only [State.sortUnits]
  repeat' first
    | with_reducible first
      | assumption | apply State.abandonUnit_keeps | apply State.tryAgain_keeps | apply State.askDecision_keeps
        | apply foldl_keeps | apply foldl_keeps_fst | apply foldl_keeps_snd | apply foldl_keeps_run
    | split | intro _ | (simp only [keeps_mk, keeps_fold])

theorem reqOutcome_keeps {K : Kept} {s : State} {r : Nat} {q : Req} {o : ReqOutcome} (h : State.reqOutcome s r q = some o)
    (u : State) (hu : Keeps K u) : Keeps K (o.pre u) := by
  unfold State.reqOutcome at h
  simp only at h
  repeat' split at h
  all_goals cases h
  all_goals first
    | exact hu
    | exact State.updReq_keeps _ _ _ (State.count_keeps _ _ _ _ (State.cutHist_keeps _ _ _ hu))
    | (show Keeps K (if _ then _ else _)
       split
       · exact State.applyStalled_keeps _ _ hu
       · exact hu)

theorem Committing.runReq_keeps {K : Kept} (a : Committing) (r : Nat) (hk : Keeps K a.s) : Keeps K (Committing.runReq a r).s := by
  unfold Committing.runReq
  split
  · exact hk
  split
  · exact hk
  · split
    · exact hk
    · rename_i o ho
      have hp := reqOutcome_keeps ho a.s hk
      simp only
      repeat' first
        | with_reducible assumption | split | with_reducible apply State.deferItem_keeps
        | with_reducible apply Committing.runNow_keeps | intro _ | simp only [id_eq]

theorem Committing.runDci_keeps {K : Kept} (a : Committing) (r : Nat)
    (hk : Keeps K a.s) : Keeps K (Committing.runDci a r).s := by
  simp only [Committing.runDci]
  repeat' first
    | with_reducible first
      | assumption | apply Committing.runNow_keeps | apply State.freeReq_keeps | apply foldl_keeps
        | apply foldl_keeps_fst | apply foldl_keeps_snd | apply foldl_keeps_run
    | split | intro _

theorem Committing.runAsks_keeps {K : Kept} (a : Committing)
    (hk : Keeps K a.s) : Keeps K (Committing.runAsks a).s := by
  simp only [Committing.runAsks]
  repeat' first
    | with_reducible first
      | assumption | apply Committing.runNow_keeps | apply State.updDst_keeps | apply foldl_keeps
        | apply foldl_keeps_fst | apply foldl_keeps_snd | apply foldl_keeps_run
    | split | intro _

theorem Committing.runShrink_keeps {K : Kept} (a : Committing)
    (hk : Keeps K a.s) : Keeps K (Committing.runShrink a).s := by
  simp only [Committing.runShrink]
  repeat' first
    | with_reducible first
      | assumption | apply Committing.runNow_keeps | apply foldl_keeps | apply foldl_keeps_fst
        | apply foldl_keeps_snd | apply foldl_keeps_run
    | split | intro _ | (simp only [keeps_mk, keeps_fold])

theorem Committing.runDump_keeps {K : Kept} (a : Committing)
    (hk : Keeps K a.s) : Keeps K (Committing.runDump a).s := by
  simp only [Committing.runDump]
  repeat' first
    | with_reducible first
      | assumption | apply Committing.runNow_keeps | apply foldl_keeps | apply foldl_keeps_fst
        | apply foldl_keeps_snd | apply foldl_keeps_run
    | split | intro _ | (simp only [keeps_mk, keeps_fold])

theorem Committing.runLate_keeps {K : Kept} (a : Committing)
    (hk : Keeps K a.s) : Keeps K (Committing.runLate a).s := by
  simp only [Committing.runLate]
  repeat' first
    | with_reducible first
      | assumption | apply Committing.runDump_keeps | apply Committing.runShrink_keeps
        | apply Committing.runAsks_keeps | apply Committing.runNow_keeps | apply foldl_keeps | apply foldl_keeps_fst
        | apply foldl_keeps_snd | apply foldl_keeps_run
    | split | intro _ | (simp only [keeps_mk, keeps_fold, id_eq])

theorem Committing.runAfter_keeps {K : Kept} (a : Committing)
    (hk : Keeps K a.s) : Keeps K (Committing.runAfter a).s := by
  simp only [Committing.runAfter]
  repeat' first
    | with_reducible first
      | assumption | apply Committing.runNow_keeps | apply foldl_keeps | apply foldl_keeps_fst
        | apply foldl_keeps_snd | apply foldl_keeps_run
    | split | intro _ | (simp only [keeps_mk, keeps_fold, id_eq])

theorem Committing.runTick_keeps {K : Kept} (a : Committing)
    (hk : Keeps K a.s) : Keeps K (Committing.runTick a).s := by
  simp only [Committing.runTick]
  repeat' first
    | with_reducible first
      | assumption | apply Committing.runNow_keeps | apply foldl_keeps | apply foldl_keeps_fst
        | apply foldl_keeps_snd | apply foldl_keeps_run
    | split | intro _ | (simp only [keeps_mk, keeps_fold])

theorem State.cancelAtEntry_keeps {K : Kept} (s : State) (r : Nat)
    (hk : Keeps K s) : Keeps K (State.cancelAtEntry s r) := by
  simp only [State.cancelAtEntry]
  repeat' first
    | with_reducible first
      | assumption | apply State.updReq_keeps

theorem State.enterDirect_keeps {K : Kept} (s : State) (cause : Nat)
    (hk : Keeps K s) : Keeps K (State.enterDirect s cause) := by
  simp only [State.enterDirect]
  repeat' first
    | with_reducible first
      | assumption | apply State.dropWork_keeps | apply State.stage_keeps | apply State.standAlone_keeps
        | apply State.setSticky_keeps
    | split | (simp only [keeps_mk, keeps_fold])

theorem Committing.runEntry_keeps {K : Kept} (a : Committing)
    (hk : Keeps K a.s) : Keeps K (Committing.runEntry a).s := by
  simp only [Committing.runEntry]
  repeat' first
    | with_reducible first
      | assumption | apply State.cancelAtEntry_keeps | apply Committing.runNow_keeps | apply State.enterDirect_keeps
        | apply foldl_keeps | apply foldl_keeps_fst | apply foldl_keeps_snd | apply foldl_keeps_run
    | split | intro _ | (simp only [keeps_mk, keeps_fold, id_eq])

theorem State.chkptDue_keeps {K : Kept} (s : State) (hk : Keeps K s) : Keeps K (State.chkptDue s) := by
  unfold State.chkptDue
  split
  · exact hk
  · split
    · exact hk
    · split
      · split
        · rename_i z hz
          exact State.orderCheckpoint_keeps _ _ (State.chkptStep_keeps hk hz)
        · exact State.stage_keeps _ _ _ hk
      · simp only
        split
        · rename_i z hz
          exact State.reportLoadedOf_keeps _ _ (State.putNewExchange_keeps _ _ (State.chkptStep_keeps hk hz))
        · exact State.stage_keeps _ _ _ hk

theorem State.deliverWhere_keeps {K : Kept} (s : State) (p : Instr → Bool)
    (hk : Keeps K s) : Keeps K (State.deliverWhere s p) := by
  simp only [State.deliverWhere]
  repeat' first
    | with_reducible first
      | assumption | apply State.deliver_keeps | apply foldl_keeps | apply foldl_keeps_fst | apply foldl_keeps_snd
        | apply foldl_keeps_run
    | split | intro _ | (simp only [keeps_mk, keeps_fold])

theorem State.deliverAll_keeps {K : Kept} (s : State)
    (hk : Keeps K s) : Keeps K (State.deliverAll s) := by
  simp only [State.deliverAll]
  repeat' first
    | with_reducible first
      | assumption | apply State.deliverWhere_keeps
    | split | (simp only [keeps_mk, keeps_fold])

theorem State.pruneUnits_keeps {K : Kept} (s : State)
    (hk : Keeps K s) : Keeps K (State.pruneUnits s) := by
  simp only [State.pruneUnits]
  repeat' first
    | with_reducible first
      | assumption | apply State.addUnit_keeps | apply foldl_keeps | apply foldl_keeps_fst | apply foldl_keeps_snd
        | apply foldl_keeps_run
    | split | intro _

theorem State.refillTenants_keeps {K : Kept} (s : State) (busy : List Nat)
    (hk : Keeps K s) : Keeps K (State.refillTenants s busy) := by
  simp only [State.refillTenants]
  repeat' first
    | with_reducible assumption | split | (simp only [keeps_mk, keeps_fold])

theorem State.tableExchange_keeps {K : Kept} (s : State)
    (hk : Keeps K s) : Keeps K (State.tableExchange s) := by
  simp only [State.tableExchange]
  repeat' first
    | with_reducible first
      | assumption | apply State.sendMsg_keeps
    | split | (simp only [keeps_mk, keeps_fold])

theorem Committing.runVerdict_keeps {K : Kept} (a : Committing)
    (hk : Keeps K a.s) : Keeps K (Committing.runVerdict a).s := by
  simp only [Committing.runVerdict]
  repeat' first
    | with_reducible first
      | assumption | apply Committing.runSends_keeps | apply State.decideTable_keeps
    | split | intro _

theorem Committing.runActivate_keeps {K : Kept} (a : Committing)
    (hk : Keeps K a.s) : Keeps K (Committing.runActivate a).s := by
  simp only [Committing.runActivate]
  repeat' first
    | with_reducible first
      | assumption | apply Committing.runSends_keeps | apply State.updExchange_keeps | apply foldl_keeps
        | apply foldl_keeps_fst | apply foldl_keeps_snd | apply foldl_keeps_run
    | split | intro _

theorem State.joinSteps_keeps {K : Kept} (s : State)
    (hk : Keeps K s) : Keeps K (State.joinSteps s) := by
  simp only [State.joinSteps]
  repeat' first
    | with_reducible first
      | assumption | apply State.sendMsg_keeps | apply foldl_keeps | apply foldl_keeps_fst | apply foldl_keeps_snd
        | apply foldl_keeps_run
    | split | intro _ | (simp only [keeps_mk, keeps_fold])

theorem State.sendMarkers_keeps {K : Kept} (s : State)
    (hk : Keeps K s) : Keeps K (State.sendMarkers s) := by
  simp only [State.sendMarkers]
  repeat' first
    | with_reducible first
      | assumption | apply State.sendMsg_keeps | apply foldl_keeps | apply foldl_keeps_fst | apply foldl_keeps_snd
        | apply foldl_keeps_run
    | split | intro _

theorem State.publishMbx_keeps {K : Kept} (s : State) (m : Fin 64)
    (hk : Keeps K s) : Keeps K (State.publishMbx s m) := by
  simp only [State.publishMbx]
  repeat' first
    | with_reducible first
      | assumption | apply State.updMbx_keeps | apply State.writeHost_keeps
    | split

theorem State.nextTick_keeps {K : Kept} (s : State)
    (hk : Keeps K s) : Keeps K.next (State.nextTick s) := by
  simp only [State.nextTick]
  repeat' first
    | with_reducible first
      | assumption | apply State.count_keeps | apply State.rerun_keeps | apply State.sendMarkers_keeps
        | apply foldl_keeps | apply foldl_keeps_fst | apply foldl_keeps_snd | apply foldl_keeps_run
    | split | intro _ | (simp only [keeps_mk, keeps_fold]) | apply KeepsOf.later

theorem State.settleCommit_keeps {K : Kept} (s : State) (busy : List Nat)
    (hk : Keeps K s) : Keeps K (State.settleCommit s busy) := by
  simp only [State.settleCommit]
  repeat' first
    | with_reducible first
      | assumption | apply State.chkptDue_keeps | apply State.trimSess_keeps | apply State.unzero_keeps
        | apply State.settleStores_keeps | apply State.settleSlots_keeps | apply State.settlePages_keeps
        | apply State.deliverAll_keeps | apply State.settleMirrors_keeps | apply State.pruneUnits_keeps
        | apply State.clearRemoved_keeps | apply State.freeingUnits_keeps | apply State.joinSteps_keeps
        | apply State.tableExchange_keeps | apply State.refillTenants_keeps | apply foldl_keeps
        | apply foldl_keeps_fst | apply foldl_keeps_snd | apply foldl_keeps_run
    | split | intro _ | (simp only [keeps_mk, keeps_fold])

theorem State.commitItems_keeps {K : Kept} (s : State)
    (hk : Keeps K s) : Keeps K (State.commitItems s).s := by
  simp only [State.commitItems]
  repeat' first
    | with_reducible first
      | assumption | apply State.sortUnits_keeps | apply State.sortSteward_keeps | apply Committing.run_keeps
        | apply Committing.runReq_keeps | apply Committing.runLate_keeps | apply State.deliverWhere_keeps
        | apply Committing.runAfter_keeps | apply Committing.runDci_keeps | apply Committing.runEntry_keeps
        | apply Committing.runTick_keeps | apply State.takeFresh_keeps | apply foldl_keeps | apply foldl_keeps_fst
        | apply foldl_keeps_snd | apply foldl_keeps_run
    | split | intro _ | (simp only [keeps_mk, keeps_fold])

theorem State.commitPoint_keeps {K : Kept} (s : State)
    (hk : Keeps K s) : Keeps K.next (State.commitPoint s) := by
  simp only [State.commitPoint]
  repeat' first
    | with_reducible first
      | assumption | apply State.cutUnacked_keeps | apply State.cutUndecided_keeps | apply State.atTime_keeps
        | apply State.commitItems_keeps | apply State.settleCommit_keeps | apply State.nextTick_keeps
        | apply State.publishMbx_keeps | apply Committing.runVerdict_keeps | apply Committing.runActivate_keeps
        | apply foldl_keeps | apply foldl_keeps_fst | apply foldl_keeps_snd
        | apply foldl_keeps_run
    | split | intro _ | (simp only [keeps_mk, keeps_fold])

theorem State.beginTick_keeps {K : Kept} (s : State) (at_ : Nat)
    (hk : Keeps K s) : Keeps K (State.beginTick s at_) := by
  simp only [State.beginTick]
  repeat' first
    | with_reducible assumption | split | (simp only [keeps_mk, keeps_fold])

theorem State.pinSample_keeps {K : Kept} (s : State) (edge mark : Option Nat)
    (hk : Keeps K s) : Keeps K (State.pinSample s edge mark) := by
  simp only [State.pinSample]
  repeat' first
    | with_reducible assumption | split | (simp only [keeps_mk, keeps_fold])

theorem State.faultTick_keeps {K : Kept} (s : State)
    (hk : Keeps K s) : Keeps K (State.faultTick s) := by
  simp only [State.faultTick]
  repeat' first
    | with_reducible first
      | assumption | apply State.leaveGroup_keeps
    | split | (simp only [keeps_mk, keeps_fold])

theorem State.activateTable_keeps {K : Kept} (s : State) (t : SchedTable)
    (hk : Keeps K s) : Keeps K (State.activateTable s t) := by
  simp only [State.activateTable]
  repeat' first
    | with_reducible first
      | assumption | apply State.traceRec_keeps
    | split | (simp only [keeps_mk, keeps_fold])

end Sys2Proof.Machine
end

