-- ==== Sys2Proof/Laws/KeepsEnds.lean ====
section
/-! SUPPORT. Preservation (Laws/KeepsBase.lean) by the operations of Twine, Registers, Direct, Board, Watch. -/
namespace Sys2Proof.Machine

theorem State.updPort_keeps {K : Kept} (s : State) (p : Fin 20) (f : Port → Port)
    (hk : Keeps K s) : Keeps K (State.updPort s p f) := by
  simp only [State.updPort]
  repeat' first
    | with_reducible assumption | split | (simp only [keeps_mk, keeps_fold])

theorem State.downPort_keeps {K : Kept} (s : State) (p : Fin 20)
    (hk : Keeps K s) : Keeps K (State.downPort s p) := by
  simp only [State.downPort]
  repeat' first
    | with_reducible first
      | assumption | apply State.updPort_keeps | apply State.queueFlits_keeps | apply foldl_keeps
        | apply foldl_keeps_fst | apply foldl_keeps_snd
    | split | intro _

theorem State.askRetry_keeps {K : Kept} (s : State) (p : Fin 20)
    (hk : Keeps K s) : Keeps K (State.askRetry s p) := by
  simp only [State.askRetry]
  repeat' first
    | with_reducible first
      | assumption | apply State.sendMsg_keeps | apply State.updPort_keeps
    | split

theorem State.takeData_keeps {K : Kept} (s : State) (p : Fin 20) (f payload : Bytes)
    (hk : Keeps K s) : Keeps K (State.takeData s p f payload) := by
  simp only [State.takeData]
  repeat' first
    | with_reducible first
      | assumption | apply State.updPort_keeps | apply State.traceRec_keeps
    | split | (simp only [keeps_mk, keeps_fold])

theorem State.takeFlit_keeps {K : Kept} (s : State) (p : Fin 20) (f payload : Bytes)
    (hk : Keeps K s) : Keeps K (State.takeFlit s p f payload) := by
  simp only [State.takeFlit]
  repeat' first
    | with_reducible first
      | assumption | apply State.queueFlits_keeps | apply State.takeData_keeps
    | split

theorem State.cancelFor_keeps {K : Kept} (s : State) (m : Fin 64)
    (hk : Keeps K s) : Keeps K (State.cancelFor s m) := by
  simp only [State.cancelFor]
  repeat' first
    | with_reducible first
      | assumption | apply State.updReq_keeps | apply State.sendAll_keeps | apply foldl_keeps | apply foldl_keeps_fst
        | apply foldl_keeps_snd
    | split | intro _ | (simp only [keeps_mk, keeps_fold])

theorem State.stopMailbox_keeps {K : Kept} (s : State) (m : Fin 64)
    (hk : Keeps K s) : Keeps K (State.stopMailbox s m) := by
  simp only [State.stopMailbox]
  repeat' first
    | with_reducible first
      | assumption | apply State.updMbx_keeps | apply State.waitOver_keeps | apply State.cancelFor_keeps

theorem State.dropDci_keeps {K : Kept} (s : State)
    (hk : Keeps K s) : Keeps K (State.dropDci s) := by
  simp only [State.dropDci]
  repeat' first
    | with_reducible first
      | assumption | apply State.freeReq_keeps | apply foldl_keeps | apply foldl_keeps_fst | apply foldl_keeps_snd
    | split | intro _ | (simp only [keeps_mk, keeps_fold])

theorem State.writePf_keeps {K : Kept} (s : State) (off : Nat) (v : Word32) (hk : Keeps K s) :
    Keeps K (State.writePf s off v) := by
  unfold State.writePf
  repeat' first
    | exact hk
    | split

theorem State.noteFlyerMiss_keeps {K : Kept} (s : State) (e : Cmd)
    (hk : Keeps K s) : Keeps K (State.noteFlyerMiss s e) := by
  simp only [State.noteFlyerMiss]
  repeat' first
    | with_reducible first
      | assumption | apply State.traceRec_keeps
    | split

theorem State.comeReady_keeps {K : Kept} (hn : K.tick = none) (s : State)
    (hk : Keeps K s) : Keeps K (State.comeReady s) := by
  simp only [State.comeReady]
  repeat' first
    | with_reducible first
      | assumption | apply State.addUnit_keeps
    | split | (simp only [keeps_mk, keeps_fold]) | (apply KeepsOf.anyTick hn; exact hk)

theorem State.resumeUnits_keeps {K : Kept} (s : State) (sp : HostSpace) (page : Nat)
    (hk : Keeps K s) : Keeps K (State.resumeUnits s sp page) := by
  simp only [State.resumeUnits]
  repeat' first
    | with_reducible assumption | split | (simp only [keeps_mk, keeps_fold])

theorem State.pageIn_keeps {K : Kept} (s : State) (sp : HostSpace) (page : Nat)
    (hk : Keeps K s) : Keeps K (State.pageIn s sp page) := by
  simp only [State.pageIn]
  repeat' first
    | with_reducible first
      | assumption | apply State.resumeUnits_keeps
    | split | (simp only [keeps_mk, keeps_fold])

theorem State.failPage_keeps {K : Kept} (s : State) (sp : HostSpace) (page : Nat) (st : Status)
    (hk : Keeps K s) : Keeps K (State.failPage s sp page st) := by
  simp only [State.failPage]
  repeat' first
    | with_reducible first
      | assumption | apply State.stage_keeps | apply State.endBound_keeps | apply State.failLoad_keeps
        | apply foldl_keeps | apply foldl_keeps_fst | apply foldl_keeps_snd
    | split | intro _ | (simp only [keeps_mk, keeps_fold])

theorem State.flushRing_keeps {K : Kept} (s : State) (r : Nat)
    (hk : Keeps K s) : Keeps K (State.flushRing s r) := by
  simp only [State.flushRing]
  repeat' first
    | with_reducible first
      | assumption | apply State.updReq_keeps | apply State.writeRing_keeps | apply foldl_keeps
        | apply foldl_keeps_fst | apply foldl_keeps_snd
    | split | intro _

theorem State.flushLate_keeps {K : Kept} (s : State)
    (hk : Keeps K s) : Keeps K (State.flushLate s) := by
  simp only [State.flushLate]
  repeat' first
    | with_reducible first
      | assumption | apply State.writeHost_keeps | apply foldl_keeps | apply foldl_keeps_fst | apply foldl_keeps_snd
    | split | intro _ | (simp only [keeps_mk, keeps_fold])

theorem State.flushCq_keeps {K : Kept} (s : State) (m : Fin 64)
    (hk : Keeps K s) : Keeps K (State.flushCq s m) := by
  simp only [State.flushCq]
  repeat' first
    | with_reducible first
      | assumption | apply State.writeCq_keeps | apply State.updMbx_keeps | apply foldl_keeps | apply foldl_keeps_fst
        | apply foldl_keeps_snd
    | split | intro _

theorem State.flushDci_keeps {K : Kept} (s : State)
    (hk : Keeps K s) : Keeps K (State.flushDci s) := by
  simp only [State.flushDci]
  repeat' first
    | with_reducible first
      | assumption | apply State.writeDci_keeps | apply foldl_keeps | apply foldl_keeps_fst | apply foldl_keeps_snd
    | split | intro _ | (simp only [keeps_mk, keeps_fold])

end Sys2Proof.Machine
end

