-- ==== Sys2Proof/Laws/KeepsExec.lean ====
section
/-! SUPPORT. Preservation (Laws/KeepsBase.lean) by every command but COLD_RESET, RAIL_FAULT, THERMAL_TRIP and LC_ADVANCE. -/
namespace Sys2Proof.Machine

/-- Every next state of an outcome keeps what `K` names. -/
def OutKeeps (K : Kept) (r : Res) : Prop := ∀ t, r = .next t → Keeps K t

theorem outKeeps_next {K : Kept} {t : State} (h : Keeps K t) : OutKeeps K (.next t) := by
  intro u hu
  cases hu
  exact h

theorem State.warm_keeps {K : Kept} (hn : K.tick = none) (s : State) (hk : Keeps K s) : Keeps K s.warm :=
  KeepsOf.anyTick hn hk 0

theorem Keeps.unloose {K : Kept} (hn : K.tick = none) {s : State} (h : Keeps K.next s) : Keeps K s :=
  ⟨h.1, h.2.1, h.2.2.1, h.2.2.2.1, fun _ e => by rw [hn] at e; cases e⟩

theorem State.hostCommand_keeps {K : Kept} (s : State) (m : Fin 64) (c : Cmd) (op : Nat) (own : State → Ctx → Checked (List Effect)) (now : State → Ctx → State)
    (hn : ∀ s x, Keeps K s → Keeps K (now s x)) (hk : Keeps K s) : OutKeeps K (State.hostCommand s m c op own now) := by
  simp only [State.hostCommand]
  repeat' first
    | with_reducible first
      | assumption | apply State.fetchFailed_keeps | apply State.waitOn_keeps | apply State.runCommand_keeps
        | apply State.fetched_keeps | apply outKeeps_next | apply hn
    | split

theorem State.dciEntry_keeps {K : Kept} (s : State) (e : Cmd) (op : Nat) (own : State → Checked (List Effect))
    (hk : Keeps K s) : OutKeeps K (State.dciEntry s e op own) := by
  simp only [State.dciEntry]
  repeat' first
    | with_reducible first
      | assumption | apply State.stage_keeps | apply outKeeps_next
    | split | intro _ | (simp only [keeps_mk, keeps_fold])

theorem State.handoffIn_keeps {K : Kept} (s : State) (ty : Nat) (m : BitVec 1024) (f : State → Bytes → Nat → State)
    (hf : ∀ s b i, Keeps K s → Keeps K (f s b i)) (hk : Keeps K s) : OutKeeps K (State.handoffIn s ty m f) := by
  simp only [State.handoffIn]
  repeat' first
    | with_reducible first
      | assumption | apply outKeeps_next | apply hf
    | split | intro _ | (simp only [keeps_mk, keeps_fold])

theorem State.receiveFrom_keeps {K : Kept} (s : State) (rank : Fin 64) (i : Instr)
    (hk : Keeps K s) : OutKeeps K (State.receiveFrom s rank i) := by
  simp only [State.receiveFrom]
  repeat' first
    | with_reducible first
      | assumption | apply State.receive_keeps | apply outKeeps_next
    | split

theorem State.receiveFromRoot_keeps {K : Kept} (s : State) (i : Instr)
    (hk : Keeps K s) : OutKeeps K (State.receiveFromRoot s i) := by
  simp only [State.receiveFromRoot]
  repeat' first
    | with_reducible first
      | assumption | apply State.receive_keeps | apply outKeeps_next
    | split

theorem execPurge_keeps {K : Kept} (m : Fin 64) (c : Cmd) (s : State)
    (hk : Keeps K s) : OutKeeps K (execPurge m c s) := by
  simp only [execPurge]
  repeat' first
    | with_reducible first
      | assumption | apply outKeeps_next | apply State.hostCommand_keeps
    | split | intro _

theorem execGateListLoad_keeps {K : Kept} (m : Fin 64) (c : Cmd) (s : State)
    (hk : Keeps K s) : OutKeeps K (execGateListLoad m c s) := by
  simp only [execGateListLoad]
  repeat' first
    | with_reducible first
      | assumption | apply outKeeps_next | apply State.hostCommand_keeps
    | split | intro _

theorem execHandoffOfferDeadline_keeps {K : Kept} (h : Word64) (s : State)
    (hk : Keeps K s) : OutKeeps K (execHandoffOfferDeadline h s) := by
  simp only [execHandoffOfferDeadline]
  repeat' first
    | with_reducible first
      | assumption | apply State.updSrc_keeps | apply outKeeps_next
    | split

theorem execDelete_keeps {K : Kept} (m : Fin 64) (c : Cmd) (s : State)
    (hk : Keeps K s) : OutKeeps K (execDelete m c s) := by
  simp only [execDelete]
  repeat' first
    | with_reducible first
      | assumption | apply outKeeps_next | apply State.hostCommand_keeps
    | split | intro _

theorem execHandoffAcceptDeadline_keeps {K : Kept} (h : Word64) (s : State)
    (hk : Keeps K s) : OutKeeps K (execHandoffAcceptDeadline h s) := by
  simp only [execHandoffAcceptDeadline]
  repeat' first
    | with_reducible first
      | assumption | apply State.stage_keeps | apply State.updDst_keeps | apply outKeeps_next
    | split

theorem execActivate_keeps {K : Kept} (digest : Digest) (tick : BitVec 48) (version : Nat) (s : State)
    (hk : Keeps K s) : OutKeeps K (execActivate digest tick version s) := by
  simp only [execActivate]
  repeat' first
    | with_reducible first
      | assumption | apply outKeeps_next | apply State.receiveFromRoot_keeps

theorem execCqHeadWrite_keeps {K : Kept} (m : Fin 64) (v : Word32) (hw : List (Nat × Bytes)) (s : State)
    (hk : Keeps K s) : OutKeeps K (execCqHeadWrite m v hw s) := by
  simp only [execCqHeadWrite]
  repeat' first
    | with_reducible first
      | assumption | apply State.updMbx_keeps | apply State.hostWrites_keeps | apply outKeeps_next
    | split

theorem execEchoReply_keeps {K : Kept} (port : Fin 20) (ns : Word64) (nowNs : Word64) (s : State)
    (hk : Keeps K s) : OutKeeps K (execEchoReply port ns nowNs s) := by
  simp only [execEchoReply]
  repeat' first
    | with_reducible first
      | assumption | apply State.updPort_keeps | apply State.sendMsg_keeps | apply outKeeps_next
    | split

theorem execInsert_keeps {K : Kept} (m : Fin 64) (c : Cmd) (s : State)
    (hk : Keeps K s) : OutKeeps K (execInsert m c s) := by
  simp only [execInsert]
  repeat' first
    | with_reducible first
      | assumption | apply outKeeps_next | apply State.hostCommand_keeps
    | split | intro _

theorem execEnergySet_keeps {K : Kept} (m : Fin 64) (c : Cmd) (s : State)
    (hk : Keeps K s) : OutKeeps K (execEnergySet m c s) := by
  simp only [execEnergySet]
  repeat' first
    | with_reducible first
      | assumption | apply outKeeps_next | apply State.hostCommand_keeps
    | split | intro _

theorem execNegotiate_keeps {K : Kept} (m : Fin 64) (c : Cmd) (s : State)
    (hk : Keeps K s) : OutKeeps K (execNegotiate m c s) := by
  simp only [execNegotiate]
  repeat' first
    | with_reducible first
      | assumption | apply outKeeps_next | apply State.hostCommand_keeps
    | split | intro _

theorem execCommit_keeps {K : Kept} (rank : Fin 64) (key : UnitKey) (s : State)
    (hk : Keeps K s) : OutKeeps K (execCommit rank key s) := by
  simp only [execCommit]
  repeat' first
    | with_reducible first
      | assumption | apply State.hearDecision_keeps | apply outKeeps_next

theorem execShrinkTimeout_keeps {K : Kept} (s : State)
    (hk : Keeps K s) : OutKeeps K (execShrinkTimeout s) := by
  simp only [execShrinkTimeout]
  repeat' first
    | with_reducible first
      | assumption | apply State.loseRemoved_keeps | apply State.stage_keeps | apply outKeeps_next
    | split | intro _ | (simp only [keeps_mk, keeps_fold])

theorem execTopk_keeps {K : Kept} (rank : Fin 64) (stamp : Word64) (query : Nat) (hits : List Hit) (s : State)
    (hk : Keeps K s) : OutKeeps K (execTopk rank stamp query hits s) := by
  simp only [execTopk]
  repeat' first
    | with_reducible first
      | assumption | apply State.receive_keeps | apply outKeeps_next
    | split

theorem execRegisterWrite_keeps {K : Kept} (f : Fin 64) (off : BitVec 24) (v : Word32) (s : State)
    (hk : Keeps K s) : OutKeeps K (execRegisterWrite f off v s) := by
  simp only [execRegisterWrite]
  repeat' first
    | with_reducible first
      | assumption | apply State.updMbx_keeps | apply State.writePf_keeps | apply outKeeps_next
    | split

theorem execAdapterFree_keeps {K : Kept} (u : Nat) (s : State)
    (hk : Keeps K s) : OutKeeps K (execAdapterFree u s) := by
  simp only [execAdapterFree]
  repeat' first
    | with_reducible first
      | assumption | apply State.runUnit_keeps | apply outKeeps_next

theorem execSqTailWrite_keeps {K : Kept} (m : Fin 64) (v : Word32) (hw : List (Nat × Bytes)) (s : State)
    (hk : Keeps K s) : OutKeeps K (execSqTailWrite m v hw s) := by
  simp only [execSqTailWrite]
  repeat' first
    | with_reducible first
      | assumption | apply State.hostWrites_keeps | apply State.updMbx_keeps | apply outKeeps_next
    | split

theorem execRetry_keeps {K : Kept} (port : Fin 20) (seq : BitVec 16) (s : State)
    (hk : Keeps K s) : OutKeeps K (execRetry port seq s) := by
  simp only [execRetry]
  repeat' first
    | with_reducible first
      | assumption | apply State.updPort_keeps | apply outKeeps_next
    | split

theorem execXtalLoss_keeps {K : Kept} (s : State)
    (hk : Keeps K s) : OutKeeps K (execXtalLoss s) := by
  simp only [execXtalLoss]
  repeat' first
    | with_reducible first
      | assumption | apply State.halt_keeps | apply outKeeps_next

theorem execPeakTrip_keeps {K : Kept} (s : State)
    (hk : Keeps K s) : OutKeeps K (execPeakTrip s) := by
  simp only [execPeakTrip]
  repeat' first
    | with_reducible first
      | assumption | apply State.peakTrip_keeps | apply outKeeps_next
    | split

theorem execJoinPropose_keeps {K : Kept} (joinTick : BitVec 48) (table : Bytes) (s : State)
    (hk : Keeps K s) : OutKeeps K (execJoinPropose joinTick table s) := by
  simp only [execJoinPropose]
  repeat' first
    | with_reducible first
      | assumption | apply outKeeps_next
    | split | intro _ | (simp only [keeps_mk, keeps_fold])

theorem execVerdictDeadline_keeps {K : Kept} (s : State)
    (hk : Keeps K s) : OutKeeps K (execVerdictDeadline s) := by
  simp only [execVerdictDeadline]
  repeat' first
    | with_reducible first
      | assumption | apply State.sendVerdict_keeps | apply outKeeps_next
    | split

theorem execHangDump_keeps {K : Kept} (m : Fin 64) (c : Cmd) (s : State)
    (hk : Keeps K s) : OutKeeps K (execHangDump m c s) := by
  simp only [execHangDump]
  repeat' first
    | with_reducible first
      | assumption | apply State.hangNow_keeps | apply outKeeps_next | apply State.hostCommand_keeps

theorem execHandoffOffer_keeps {K : Kept} (m : Fin 64) (c : Cmd) (s : State)
    (hk : Keeps K s) : OutKeeps K (execHandoffOffer m c s) := by
  simp only [execHandoffOffer]
  repeat' first
    | with_reducible first
      | assumption | apply outKeeps_next | apply State.hostCommand_keeps
    | split | intro _

theorem execOscWaitDone_keeps {K : Kept} (s : State)
    (hk : Keeps K s) : OutKeeps K (execOscWaitDone s) := by
  simp only [execOscWaitDone]
  repeat' first
    | with_reducible first
      | assumption | apply State.atTime_keeps | apply outKeeps_next
    | split | intro _ | (simp only [keeps_mk, keeps_fold])

theorem execOpenChannel_keeps {K : Kept} (m : Fin 64) (c : Cmd) (s : State)
    (hk : Keeps K s) : OutKeeps K (execOpenChannel m c s) := by
  simp only [execOpenChannel]
  repeat' first
    | with_reducible first
      | assumption | apply outKeeps_next | apply State.hostCommand_keeps
    | split | intro _

theorem execPrefillSlice_keeps {K : Kept} (u : Nat) (s : State)
    (hk : Keeps K s) : OutKeeps K (execPrefillSlice u s) := by
  simp only [execPrefillSlice]
  repeat' first
    | with_reducible first
      | assumption | apply State.runUnit_keeps | apply State.noteKeyMiss_keeps | apply outKeeps_next
    | split

theorem execHandoffCommit_keeps {K : Kept} (m : Fin 64) (c : Cmd) (s : State)
    (hk : Keeps K s) : OutKeeps K (execHandoffCommit m c s) := by
  simp only [execHandoffCommit]
  repeat' first
    | with_reducible first
      | assumption | apply outKeeps_next | apply State.hostCommand_keeps
    | split | intro _

theorem execUnitEnded_keeps {K : Kept} (u : Nat) (s : State)
    (hk : Keeps K s) : OutKeeps K (execUnitEnded u s) := by
  simp only [execUnitEnded]
  repeat' first
    | with_reducible first
      | assumption | apply State.traceRec_keeps | apply State.stage_keeps | apply State.dropOwner_keeps
        | apply outKeeps_next
    | split | intro _ | (simp only [keeps_mk, keeps_fold])

theorem execTickCtrlWrite_keeps {K : Kept} (v : Word32) (s : State)
    (hk : Keeps K s) : OutKeeps K (execTickCtrlWrite v s) := by
  simp only [execTickCtrlWrite]
  repeat' first
    | with_reducible first
      | assumption | apply outKeeps_next
    | split | intro _ | (simp only [keeps_mk, keeps_fold])

theorem execSessionMove_keeps {K : Kept} (u : Nat) (s : State)
    (hk : Keeps K s) : OutKeeps K (execSessionMove u s) := by
  simp only [execSessionMove]
  repeat' first
    | with_reducible first
      | assumption | apply State.runUnit_keeps | apply outKeeps_next

theorem execModelActivate_keeps {K : Kept} (slot : Fin 8) (s : State)
    (hk : Keeps K s) : OutKeeps K (execModelActivate slot s) := by
  simp only [execModelActivate]
  repeat' first
    | with_reducible first
      | assumption | apply State.stage_keeps | apply outKeeps_next
    | split | intro _ | (simp only [keeps_mk, keeps_fold])

theorem execHostClockLoss_keeps {K : Kept} (s : State)
    (hk : Keeps K s) : OutKeeps K (execHostClockLoss s) := by
  simp only [execHostClockLoss]
  repeat' first
    | with_reducible first
      | assumption | apply outKeeps_next
    | split | intro _ | (simp only [keeps_mk, keeps_fold])

theorem execGroupJoin_keeps {K : Kept} (m : Fin 64) (c : Cmd) (s : State)
    (hk : Keeps K s) : OutKeeps K (execGroupJoin m c s) := by
  simp only [execGroupJoin]
  repeat' first
    | with_reducible first
      | assumption | apply outKeeps_next | apply State.hostCommand_keeps
    | split | intro _

theorem execStewardWatchdog_keeps {K : Kept} (s : State)
    (hk : Keeps K s) : OutKeeps K (execStewardWatchdog s) := by
  simp only [execStewardWatchdog]
  repeat' first
    | with_reducible first
      | assumption | apply State.drawFree_keeps | apply outKeeps_next
    | split | intro _ | (simp only [keeps_mk, keeps_fold])

theorem execReady_keeps {K : Kept} (rank : Fin 64) (key : UnitKey) (s : State)
    (hk : Keeps K s) : OutKeeps K (execReady rank key s) := by
  simp only [execReady]
  repeat' first
    | with_reducible first
      | assumption | apply State.vote_keeps | apply outKeeps_next
    | split

theorem execStoreQueryDeadline_keeps {K : Kept} (q : Nat) (s : State)
    (hk : Keeps K s) : OutKeeps K (execStoreQueryDeadline q s) := by
  simp only [execStoreQueryDeadline]
  repeat' first
    | with_reducible first
      | assumption | apply State.stage_keeps | apply outKeeps_next
    | split

theorem execVerdictWaitExpiry_keeps {K : Kept} (s : State)
    (hk : Keeps K s) : OutKeeps K (execVerdictWaitExpiry s) := by
  simp only [execVerdictWaitExpiry]
  repeat' first
    | with_reducible first
      | assumption | apply outKeeps_next
    | split | intro _ | (simp only [keeps_mk, keeps_fold])

theorem execMirrorAckDeadline_keeps {K : Kept} (s : State)
    (hk : Keeps K s) : OutKeeps K (execMirrorAckDeadline s) := by
  simp only [execMirrorAckDeadline]
  repeat' first
    | with_reducible first
      | assumption | apply State.cutUnacked_keeps | apply State.atTime_keeps | apply outKeeps_next
    | split

theorem execHangDumpTimeout_keeps {K : Kept} (s : State)
    (hk : Keeps K s) : OutKeeps K (execHangDumpTimeout s) := by
  simp only [execHangDumpTimeout]
  repeat' first
    | with_reducible first
      | assumption | apply State.stage_keeps | apply outKeeps_next
    | split | intro _ | (simp only [keeps_mk, keeps_fold])

theorem execPciePerst_keeps {K : Kept} (p : Fin 2) (s : State)
    (hk : Keeps K s) : OutKeeps K (execPciePerst p s) := by
  simp only [execPciePerst]
  repeat' first
    | with_reducible first
      | assumption | apply outKeeps_next
    | split | intro _ | (simp only [keeps_mk, keeps_fold])

theorem execCommitPoint_keeps {K : Kept} (hn : K.tick = none) (s : State)
    (hk : Keeps K s) : OutKeeps K (execCommitPoint s) := by
  simp only [execCommitPoint]
  split
  · exact outKeeps_next (Keeps.unloose hn (State.commitPoint_keeps s hk))
  · exact outKeeps_next hk

theorem execSlotEnd_keeps {K : Kept} (k : Fin 16) (s : State)
    (hk : Keeps K s) : OutKeeps K (execSlotEnd k s) := by
  simp only [execSlotEnd]
  repeat' first
    | with_reducible first
      | assumption | apply State.atTime_keeps | apply State.abandonUnit_keeps | apply outKeeps_next
        | apply foldl_keeps | apply foldl_keeps_fst | apply foldl_keeps_snd
    | split | intro _ | (simp only [keeps_mk, keeps_fold])

theorem execBistResultUpkeep_keeps {K : Kept} (u : Nat) (s : State)
    (hk : Keeps K s) : OutKeeps K (execBistResultUpkeep u s) := by
  simp only [execBistResultUpkeep]
  repeat' first
    | with_reducible first
      | assumption | apply State.runUnit_keeps | apply outKeeps_next

theorem execRingRoomTimeout_keeps {K : Kept} (r : Nat) (s : State)
    (hk : Keeps K s) : OutKeeps K (execRingRoomTimeout r s) := by
  simp only [execRingRoomTimeout]
  repeat' first
    | with_reducible first
      | assumption | apply State.stage_keeps | apply State.updReq_keeps | apply outKeeps_next
    | split

theorem execHankTile_keeps {K : Kept} (src : Word64) (h : Word64) (tile : Nat) (data : Bytes) (s : State)
    (hk : Keeps K s) : OutKeeps K (execHankTile src h tile data s) := by
  simp only [execHankTile]
  repeat' first
    | with_reducible first
      | assumption | apply outKeeps_next
    | split | intro _ | (simp only [keeps_mk, keeps_fold])

theorem execAbort_keeps {K : Kept} (digest : Digest) (s : State)
    (hk : Keeps K s) : OutKeeps K (execAbort digest s) := by
  simp only [execAbort]
  repeat' first
    | with_reducible first
      | assumption | apply outKeeps_next | apply State.receiveFromRoot_keeps

theorem execMirrorAck_keeps {K : Kept} (rank : Fin 64) (key : UnitKey) (s : State)
    (hk : Keeps K s) : OutKeeps K (execMirrorAck rank key s) := by
  simp only [execMirrorAck]
  repeat' first
    | with_reducible first
      | assumption | apply outKeeps_next
    | split | intro _ | (simp only [keeps_mk, keeps_fold])

theorem execRouteMapActivate_keeps {K : Kept} (s : State)
    (hk : Keeps K s) : OutKeeps K (execRouteMapActivate s) := by
  simp only [execRouteMapActivate]
  repeat' first
    | with_reducible first
      | assumption | apply State.activateMap_keeps | apply outKeeps_next
    | split

theorem execChkptTile_keeps {K : Kept} (u : Nat) (s : State)
    (hk : Keeps K s) : OutKeeps K (execChkptTile u s) := by
  simp only [execChkptTile]
  repeat' first
    | with_reducible first
      | assumption | apply State.runTile_keeps | apply outKeeps_next

theorem execAdopt_keeps {K : Kept} (m : Fin 64) (c : Cmd) (s : State)
    (hk : Keeps K s) : OutKeeps K (execAdopt m c s) := by
  simp only [execAdopt]
  repeat' first
    | with_reducible first
      | assumption | apply outKeeps_next | apply State.hostCommand_keeps
    | split | intro _

theorem execCountersRead_keeps {K : Kept} (m : Fin 64) (c : Cmd) (s : State)
    (hk : Keeps K s) : OutKeeps K (execCountersRead m c s) := by
  simp only [execCountersRead]
  repeat' first
    | with_reducible first
      | assumption | apply outKeeps_next | apply State.hostCommand_keeps
    | split | intro _

theorem execEcho_keeps {K : Kept} (port : Fin 20) (ns : Word64) (s : State)
    (hk : Keeps K s) : OutKeeps K (execEcho port ns s) := by
  simp only [execEcho]
  repeat' first
    | with_reducible first
      | assumption | apply State.sendMsg_keeps | apply outKeeps_next
    | split

theorem execModelShardFree_keeps {K : Kept} (u : Nat) (s : State)
    (hk : Keeps K s) : OutKeeps K (execModelShardFree u s) := by
  simp only [execModelShardFree]
  repeat' first
    | with_reducible first
      | assumption | apply State.runUnit_keeps | apply outKeeps_next

theorem execForward_keeps {K : Kept} (rank : Fin 64) (c : Cmd) (body : Bytes) (s : State)
    (hk : Keeps K s) : OutKeeps K (execForward rank c body s) := by
  simp only [execForward]
  repeat' first
    | with_reducible first
      | assumption | apply State.runForwarded_keeps | apply outKeeps_next | apply State.receiveFrom_keeps
    | split

theorem execGateEntrySwitch_keeps {K : Kept} (port : Fin 20) (i : Fin 32) (s : State)
    (hk : Keeps K s) : OutKeeps K (execGateEntrySwitch port i s) := by
  simp only [execGateEntrySwitch]
  repeat' first
    | with_reducible first
      | assumption | apply State.drainPort_keeps | apply State.updPort_keeps | apply State.atTime_keeps
        | apply outKeeps_next
    | split

theorem execWarmReset_keeps {K : Kept} (hn : K.tick = none) (s : State)
    (hk : Keeps K s) : OutKeeps K (execWarmReset s) := by
  simp only [execWarmReset]
  repeat' first
    | with_reducible first
      | assumption | apply outKeeps_next | apply State.warm_keeps hn
    | split

theorem execStoreCreate_keeps {K : Kept} (m : Fin 64) (c : Cmd) (s : State)
    (hk : Keeps K s) : OutKeeps K (execStoreCreate m c s) := by
  simp only [execStoreCreate]
  repeat' first
    | with_reducible first
      | assumption | apply outKeeps_next | apply State.hostCommand_keeps
    | split | intro _

theorem execReviveTileTimeout_keeps {K : Kept} (u : Nat) (s : State)
    (hk : Keeps K s) : OutKeeps K (execReviveTileTimeout u s) := by
  simp only [execReviveTileTimeout]
  repeat' first
    | with_reducible first
      | assumption | apply State.stage_keeps | apply State.dropUnit_keeps | apply outKeeps_next
    | split

theorem execTickFault_keeps {K : Kept} (marker : Option (BitVec 48)) (s : State)
    (hk : Keeps K s) : OutKeeps K (execTickFault marker s) := by
  simp only [execTickFault]
  repeat' first
    | with_reducible first
      | assumption | apply State.faultTick_keeps | apply outKeeps_next
    | split

theorem execDciStep_keeps {K : Kept} (e : Cmd) (s : State)
    (hk : Keeps K s) : OutKeeps K (execDciStep e s) := by
  simp only [execDciStep]
  repeat' first
    | with_reducible first
      | assumption | apply outKeeps_next | apply State.dciEntry_keeps

theorem execPrefixLookup_keeps {K : Kept} (u : Nat) (s : State)
    (hk : Keeps K s) : OutKeeps K (execPrefixLookup u s) := by
  simp only [execPrefixLookup]
  repeat' first
    | with_reducible first
      | assumption | apply State.runUnit_keeps | apply outKeeps_next

theorem execKeyRotate_keeps {K : Kept} (m : Fin 64) (c : Cmd) (s : State)
    (hk : Keeps K s) : OutKeeps K (execKeyRotate m c s) := by
  simp only [execKeyRotate]
  repeat' first
    | with_reducible first
      | assumption | apply outKeeps_next | apply State.hostCommand_keeps
    | split | intro _

theorem execTraceCfg_keeps {K : Kept} (m : Fin 64) (c : Cmd) (s : State)
    (hk : Keeps K s) : OutKeeps K (execTraceCfg m c s) := by
  simp only [execTraceCfg]
  repeat' first
    | with_reducible first
      | assumption | apply outKeeps_next | apply State.hostCommand_keeps
    | split | intro _

theorem execAtsInvalidation_keeps {K : Kept} (space : HostSpace) (page : Nat) (s : State)
    (hk : Keeps K s) : OutKeeps K (execAtsInvalidation space page s) := by
  simp only [execAtsInvalidation]
  repeat' first
    | with_reducible first
      | assumption | apply outKeeps_next
    | split | intro _ | (simp only [keeps_mk, keeps_fold])

theorem execReleaseKeyExpiry_keeps {K : Kept} (id : Word64) (s : State)
    (hk : Keeps K s) : OutKeeps K (execReleaseKeyExpiry id s) := by
  simp only [execReleaseKeyExpiry]
  repeat' first
    | with_reducible first
      | assumption | apply outKeeps_next
    | split | intro _ | (simp only [keeps_mk, keeps_fold])

theorem execHandoffMsgCommit_keeps {K : Kept} (src : Word64) (msg : BitVec 1024) (s : State)
    (hk : Keeps K s) : OutKeeps K (execHandoffMsgCommit src msg s) := by
  simp only [execHandoffMsgCommit]
  repeat' first
    | with_reducible first
      | assumption | apply State.updDst_keeps | apply outKeeps_next | apply State.handoffIn_keeps
    | split | intro _

theorem execKeyPhaseSwitch_keeps {K : Kept} (port : Fin 20) (s : State)
    (hk : Keeps K s) : OutKeeps K (execKeyPhaseSwitch port s) := by
  simp only [execKeyPhaseSwitch]
  repeat' first
    | with_reducible first
      | assumption | apply State.updPort_keeps | apply outKeeps_next
    | split

theorem execLoadAdapter_keeps {K : Kept} (m : Fin 64) (c : Cmd) (s : State)
    (hk : Keeps K s) : OutKeeps K (execLoadAdapter m c s) := by
  simp only [execLoadAdapter]
  repeat' first
    | with_reducible first
      | assumption | apply outKeeps_next | apply State.hostCommand_keeps
    | split | intro _

theorem execDciReqSet_keeps {K : Kept} (s : State)
    (hk : Keeps K s) : OutKeeps K (execDciReqSet s) := by
  simp only [execDciReqSet]
  repeat' first
    | with_reducible first
      | assumption | apply outKeeps_next
    | split | intro _ | (simp only [keeps_mk, keeps_fold])

theorem execOperatingPointStep_keeps {K : Kept} (ok : Bool) (s : State)
    (hk : Keeps K s) : OutKeeps K (execOperatingPointStep ok s) := by
  simp only [execOperatingPointStep]
  repeat' first
    | with_reducible first
      | assumption | apply State.stepPoint_keeps | apply outKeeps_next
    | split

theorem execOwnerReply_keeps {K : Kept} (src : Word64) (msg : BitVec 1024) (s : State)
    (hk : Keeps K s) : OutKeeps K (execOwnerReply src msg s) := by
  simp only [execOwnerReply]
  repeat' first
    | with_reducible first
      | assumption | apply State.ownerAnswer_keeps | apply State.passOn_keeps | apply State.stage_keeps
        | apply State.updSrc_keeps | apply outKeeps_next | apply State.handoffIn_keeps
    | split | intro _

theorem execVerifyReel_keeps {K : Kept} (m : Fin 64) (c : Cmd) (s : State)
    (hk : Keeps K s) : OutKeeps K (execVerifyReel m c s) := by
  simp only [execVerifyReel]
  repeat' first
    | with_reducible first
      | assumption | apply outKeeps_next | apply State.hostCommand_keeps
    | split | intro _

theorem execGroupShrink_keeps {K : Kept} (m : Fin 64) (c : Cmd) (s : State)
    (hk : Keeps K s) : OutKeeps K (execGroupShrink m c s) := by
  simp only [execGroupShrink]
  repeat' first
    | with_reducible first
      | assumption | apply outKeeps_next | apply State.hostCommand_keeps
    | split | intro _

theorem execLoadGrammar_keeps {K : Kept} (m : Fin 64) (c : Cmd) (s : State)
    (hk : Keeps K s) : OutKeeps K (execLoadGrammar m c s) := by
  simp only [execLoadGrammar]
  repeat' first
    | with_reducible first
      | assumption | apply outKeeps_next | apply State.hostCommand_keeps
    | split | intro _

theorem execCompactBuild_keeps {K : Kept} (u : Nat) (s : State)
    (hk : Keeps K s) : OutKeeps K (execCompactBuild u s) := by
  simp only [execCompactBuild]
  repeat' first
    | with_reducible first
      | assumption | apply State.runUnit_keeps | apply outKeeps_next

theorem execEvictModel_keeps {K : Kept} (m : Fin 64) (c : Cmd) (s : State)
    (hk : Keeps K s) : OutKeeps K (execEvictModel m c s) := by
  simp only [execEvictModel]
  repeat' first
    | with_reducible first
      | assumption | apply outKeeps_next | apply State.hostCommand_keeps
    | split | intro _

theorem execGateTakeover_keeps {K : Kept} (port : Fin 20) (s : State)
    (hk : Keeps K s) : OutKeeps K (execGateTakeover port s) := by
  simp only [execGateTakeover]
  repeat' first
    | with_reducible first
      | assumption | apply State.drainPort_keeps | apply State.updPort_keeps | apply outKeeps_next
    | split

theorem execResume_keeps {K : Kept} (m : Fin 64) (c : Cmd) (s : State)
    (hk : Keeps K s) : OutKeeps K (execResume m c s) := by
  simp only [execResume]
  repeat' first
    | with_reducible first
      | assumption | apply outKeeps_next | apply State.hostCommand_keeps
    | split | intro _

theorem execVaultWriteDone_keeps {K : Kept} (s : State)
    (hk : Keeps K s) : OutKeeps K (execVaultWriteDone s) := by
  simp only [execVaultWriteDone]
  repeat' first
    | with_reducible first
      | assumption | apply State.finishStaged_keeps | apply State.stage_keeps | apply outKeeps_next
    | split | intro _ | (simp only [keeps_mk, keeps_fold])

theorem execModelChunkRead_keeps {K : Kept} (slot : Fin 8) (chunk : Nat) (s : State)
    (hk : Keeps K s) : OutKeeps K (execModelChunkRead slot chunk s) := by
  simp only [execModelChunkRead]
  repeat' first
    | with_reducible first
      | assumption | apply State.failLoad_keeps | apply State.reportLoaded_keeps | apply outKeeps_next
    | split | intro _ | (simp only [keeps_mk, keeps_fold])

theorem execParkTileTimeout_keeps {K : Kept} (u : Nat) (s : State)
    (hk : Keeps K s) : OutKeeps K (execParkTileTimeout u s) := by
  simp only [execParkTileTimeout]
  repeat' first
    | with_reducible first
      | assumption | apply State.stage_keeps | apply State.dropUnit_keeps | apply outKeeps_next
    | split

theorem execCompact_keeps {K : Kept} (m : Fin 64) (c : Cmd) (s : State)
    (hk : Keeps K s) : OutKeeps K (execCompact m c s) := by
  simp only [execCompact]
  repeat' first
    | with_reducible first
      | assumption | apply outKeeps_next | apply State.hostCommand_keeps
    | split | intro _

theorem execTickMarker_keeps {K : Kept} (port : Fin 20) (tick : BitVec 48) (root : Fin 64) (s : State)
    (hk : Keeps K s) : OutKeeps K (execTickMarker port tick root s) := by
  simp only [execTickMarker]
  repeat' first
    | with_reducible first
      | assumption | apply State.pinSample_keeps | apply State.faultTick_keeps | apply State.beginTick_keeps
        | apply State.sendMsg_keeps | apply outKeeps_next | apply foldl_keeps | apply foldl_keeps_fst
        | apply foldl_keeps_snd
    | split | intro _ | (simp only [keeps_mk, keeps_fold])

theorem execAccept_keeps {K : Kept} (src : Word64) (msg : BitVec 1024) (s : State)
    (hk : Keeps K s) : OutKeeps K (execAccept src msg s) := by
  simp only [execAccept]
  repeat' first
    | with_reducible first
      | assumption | apply State.stage_keeps | apply State.passOn_keeps | apply State.updSrc_keeps
        | apply outKeeps_next | apply State.handoffIn_keeps
    | split | intro _

theorem execEpochDrainDeadline_keeps {K : Kept} (s : State)
    (hk : Keeps K s) : OutKeeps K (execEpochDrainDeadline s) := by
  simp only [execEpochDrainDeadline]
  repeat' first
    | with_reducible first
      | assumption | apply State.drainEpoch_keeps | apply outKeeps_next
    | split

theorem execTraceTrigger_keeps {K : Kept} (m : Fin 64) (c : Cmd) (s : State)
    (hk : Keeps K s) : OutKeeps K (execTraceTrigger m c s) := by
  simp only [execTraceTrigger]
  repeat' first
    | with_reducible first
      | assumption | apply outKeeps_next | apply State.hostCommand_keeps
    | split | intro _

theorem execClaim_keeps {K : Kept} (m : Fin 64) (c : Cmd) (s : State)
    (hk : Keeps K s) : OutKeeps K (execClaim m c s) := by
  simp only [execClaim]
  repeat' first
    | with_reducible first
      | assumption | apply outKeeps_next | apply State.hostCommand_keeps
    | split | intro _

theorem execPurgeSweep_keeps {K : Kept} (u : Nat) (s : State)
    (hk : Keeps K s) : OutKeeps K (execPurgeSweep u s) := by
  simp only [execPurgeSweep]
  repeat' first
    | with_reducible first
      | assumption | apply State.runUnit_keeps | apply outKeeps_next

theorem execWidthChange_keeps {K : Kept} (s : State)
    (hk : Keeps K s) : OutKeeps K (execWidthChange s) := by
  simp only [execWidthChange]
  repeat' first
    | with_reducible first
      | assumption | apply State.stage_keeps | apply State.widthChange_keeps | apply State.moveDecider_keeps
        | apply State.sendVerdict_keeps | apply outKeeps_next
    | split | intro _ | (simp only [keeps_mk, keeps_fold])

theorem execDciCreate_keeps {K : Kept} (e : Cmd) (s : State)
    (hk : Keeps K s) : OutKeeps K (execDciCreate e s) := by
  simp only [execDciCreate]
  repeat' first
    | with_reducible first
      | assumption | apply outKeeps_next | apply State.dciEntry_keeps

theorem execDciEnableWrite_keeps {K : Kept} (v : Word32) (s : State)
    (hk : Keeps K s) : OutKeeps K (execDciEnableWrite v s) := by
  simp only [execDciEnableWrite]
  repeat' first
    | with_reducible first
      | assumption | apply outKeeps_next
    | split | intro _ | (simp only [keeps_mk, keeps_fold])

theorem execGroupWaitTimeout_keeps {K : Kept} (x : Nat) (s : State)
    (hk : Keeps K s) : OutKeeps K (execGroupWaitTimeout x s) := by
  simp only [execGroupWaitTimeout]
  repeat' first
    | with_reducible first
      | assumption | apply State.stage_keeps | apply outKeeps_next
    | split | intro _ | (simp only [keeps_mk, keeps_fold])

theorem execQuery_keeps {K : Kept} (m : Fin 64) (c : Cmd) (s : State)
    (hk : Keeps K s) : OutKeeps K (execQuery m c s) := by
  simp only [execQuery]
  repeat' first
    | with_reducible first
      | assumption | apply outKeeps_next | apply State.hostCommand_keeps
    | split | intro _

theorem execDciFlyer_keeps {K : Kept} (e : Cmd) (s : State)
    (hk : Keeps K s) : OutKeeps K (execDciFlyer e s) := by
  simp only [execDciFlyer]
  repeat' first
    | with_reducible first
      | assumption | apply State.waitOver_keeps | apply State.waitOn_keeps | apply State.noteFlyerMiss_keeps
        | apply outKeeps_next | apply State.dciEntry_keeps
    | split

theorem execAct_keeps {K : Kept} (_rank : Fin 64) (_body : Bytes) (s : State)
    (hk : Keeps K s) : OutKeeps K (execAct _rank _body s) := by
  simp only [execAct]
  repeat' first
    | with_reducible first
      | assumption | apply outKeeps_next

theorem execReshardTile_keeps {K : Kept} (u : Nat) (s : State)
    (hk : Keeps K s) : OutKeeps K (execReshardTile u s) := by
  simp only [execReshardTile]
  repeat' first
    | with_reducible first
      | assumption | apply State.endFailed_keeps | apply State.runTile_keeps | apply outKeeps_next
    | split

theorem execSchedLoad_keeps {K : Kept} (m : Fin 64) (c : Cmd) (s : State)
    (hk : Keeps K s) : OutKeeps K (execSchedLoad m c s) := by
  simp only [execSchedLoad]
  repeat' first
    | with_reducible first
      | assumption | apply outKeeps_next | apply State.hostCommand_keeps
    | split | intro _

theorem execLinkShaperRefill_keeps {K : Kept} (port : Fin 20) (s : State)
    (hk : Keeps K s) : OutKeeps K (execLinkShaperRefill port s) := by
  simp only [execLinkShaperRefill]
  repeat' first
    | with_reducible first
      | assumption | apply State.drainPort_keeps | apply State.updPort_keeps | apply outKeeps_next

theorem execCloseChannel_keeps {K : Kept} (m : Fin 64) (c : Cmd) (s : State)
    (hk : Keeps K s) : OutKeeps K (execCloseChannel m c s) := by
  simp only [execCloseChannel]
  repeat' first
    | with_reducible first
      | assumption | apply outKeeps_next | apply State.hostCommand_keeps
    | split | intro _

theorem execSubmit_keeps {K : Kept} (m : Fin 64) (c : Cmd) (s : State)
    (hk : Keeps K s) : OutKeeps K (execSubmit m c s) := by
  simp only [execSubmit]
  repeat' first
    | with_reducible first
      | assumption | apply outKeeps_next | apply State.hostCommand_keeps
    | split | intro _

theorem execModelChunkTimeout_keeps {K : Kept} (slot : Fin 8) (chunk : Nat) (s : State)
    (hk : Keeps K s) : OutKeeps K (execModelChunkTimeout slot chunk s) := by
  simp only [execModelChunkTimeout]
  repeat' first
    | with_reducible first
      | assumption | apply State.failLoad_keeps | apply outKeeps_next
    | split

theorem execStoreQuery_keeps {K : Kept} (m : Fin 64) (c : Cmd) (s : State)
    (hk : Keeps K s) : OutKeeps K (execStoreQuery m c s) := by
  simp only [execStoreQuery]
  repeat' first
    | with_reducible first
      | assumption | apply outKeeps_next | apply State.hostCommand_keeps
    | split | intro _

theorem execCoordinatorDeadline_keeps {K : Kept} (s : State)
    (hk : Keeps K s) : OutKeeps K (execCoordinatorDeadline s) := by
  simp only [execCoordinatorDeadline]
  repeat' first
    | with_reducible first
      | assumption | apply State.cutUndecided_keeps | apply State.atTime_keeps | apply outKeeps_next
    | split

theorem execCancel_keeps {K : Kept} (m : Fin 64) (c : Cmd) (s : State)
    (hk : Keeps K s) : OutKeeps K (execCancel m c s) := by
  simp only [execCancel]
  repeat' first
    | with_reducible first
      | assumption | apply State.markCancel_keeps | apply outKeeps_next | apply State.hostCommand_keeps

theorem execOffer_keeps {K : Kept} (src : Word64) (msg : BitVec 1024) (s : State)
    (hk : Keeps K s) : OutKeeps K (execOffer src msg s) := by
  simp only [execOffer]
  repeat' first
    | with_reducible first
      | assumption | apply State.stage_keeps | apply outKeeps_next | apply State.handoffIn_keeps
    | split | intro _ | (simp only [keeps_mk, keeps_fold])

theorem execHandoffSettleTimeout_keeps {K : Kept} (h : Word64) (s : State)
    (hk : Keeps K s) : OutKeeps K (execHandoffSettleTimeout h s) := by
  simp only [execHandoffSettleTimeout]
  repeat' first
    | with_reducible first
      | assumption | apply State.stage_keeps | apply State.updDst_keeps | apply outKeeps_next
    | split

theorem execDciWqTailWrite_keeps {K : Kept} (v : Word32) (hw : List (Nat × Bytes)) (s : State)
    (hk : Keeps K s) : OutKeeps K (execDciWqTailWrite v hw s) := by
  simp only [execDciWqTailWrite]
  repeat' first
    | with_reducible first
      | assumption | apply State.hostWrites_keeps | apply outKeeps_next
    | split | intro _ | (simp only [keeps_mk, keeps_fold])

theorem execOwnerQueryRetry_keeps {K : Kept} (h : Word64) (s : State)
    (hk : Keeps K s) : OutKeeps K (execOwnerQueryRetry h s) := by
  simp only [execOwnerQueryRetry]
  repeat' first
    | with_reducible first
      | assumption | apply State.stage_keeps | apply State.updDst_keeps | apply State.updSrc_keeps
        | apply outKeeps_next
    | split

theorem execSlotStart_keeps {K : Kept} (k : Fin 16) (s : State)
    (hk : Keeps K s) : OutKeeps K (execSlotStart k s) := by
  simp only [execSlotStart]
  repeat' first
    | with_reducible first
      | assumption | apply State.atTime_keeps | apply State.admission_keeps | apply State.count_keeps
        | apply outKeeps_next
    | split | intro _ | (simp only [keeps_mk, keeps_fold])

theorem execPrune_keeps {K : Kept} (u : Nat) (s : State)
    (hk : Keeps K s) : OutKeeps K (execPrune u s) := by
  simp only [execPrune]
  repeat' first
    | with_reducible first
      | assumption | apply State.runUnit_keeps | apply outKeeps_next

theorem execNotReady_keeps {K : Kept} (rank : Fin 64) (key : UnitKey) (s : State)
    (hk : Keeps K s) : OutKeeps K (execNotReady rank key s) := by
  simp only [execNotReady]
  repeat' first
    | with_reducible first
      | assumption | apply State.vote_keeps | apply outKeeps_next
    | split

theorem execEvictDrainDeadline_keeps {K : Kept} (slot : Fin 8) (s : State)
    (hk : Keeps K s) : OutKeeps K (execEvictDrainDeadline slot s) := by
  simp only [execEvictDrainDeadline]
  repeat' first
    | with_reducible first
      | assumption | apply outKeeps_next
    | split | intro _ | (simp only [keeps_mk, keeps_fold])

theorem execQueryOwnerMsg_keeps {K : Kept} (src : Word64) (msg : BitVec 1024) (s : State)
    (hk : Keeps K s) : OutKeeps K (execQueryOwnerMsg src msg s) := by
  simp only [execQueryOwnerMsg]
  repeat' first
    | with_reducible first
      | assumption | apply State.stage_keeps | apply outKeeps_next | apply State.handoffIn_keeps
    | split | intro _

theorem execHandoffMsgAbort_keeps {K : Kept} (src : Word64) (msg : BitVec 1024) (s : State)
    (hk : Keeps K s) : OutKeeps K (execHandoffMsgAbort src msg s) := by
  simp only [execHandoffMsgAbort]
  repeat' first
    | with_reducible first
      | assumption | apply State.passOn_keeps | apply State.updSrc_keeps | apply State.updDst_keeps
        | apply State.stage_keeps | apply outKeeps_next | apply State.handoffIn_keeps
    | split | intro _

theorem execPinRestore_keeps {K : Kept} (s : State)
    (hk : Keeps K s) : OutKeeps K (execPinRestore s) := by
  simp only [execPinRestore]
  repeat' first
    | with_reducible first
      | assumption | apply outKeeps_next
    | split | intro _ | (simp only [keeps_mk, keeps_fold])

theorem execAbandon_keeps {K : Kept} (rank : Fin 64) (key : UnitKey) (s : State)
    (hk : Keeps K s) : OutKeeps K (execAbandon rank key s) := by
  simp only [execAbandon]
  repeat' first
    | with_reducible first
      | assumption | apply State.hearDecision_keeps | apply outKeeps_next

theorem execRouteMapSet_keeps {K : Kept} (m : Fin 64) (c : Cmd) (s : State)
    (hk : Keeps K s) : OutKeeps K (execRouteMapSet m c s) := by
  simp only [execRouteMapSet]
  repeat' first
    | with_reducible first
      | assumption | apply outKeeps_next | apply State.hostCommand_keeps
    | split | intro _

theorem execFunctionLevelReset_keeps {K : Kept} (f : Fin 64) (s : State)
    (hk : Keeps K s) : OutKeeps K (execFunctionLevelReset f s) := by
  simp only [execFunctionLevelReset]
  repeat' first
    | with_reducible first
      | assumption | apply State.updMbx_keeps | apply State.stopMailbox_keeps | apply outKeeps_next

theorem execDecodeUnitCreate_keeps {K : Kept} (r : Nat) (s : State)
    (hk : Keeps K s) : OutKeeps K (execDecodeUnitCreate r s) := by
  simp only [execDecodeUnitCreate]
  repeat' first
    | with_reducible first
      | assumption | apply State.updReq_keeps | apply State.addUnit_keeps | apply outKeeps_next
    | split

theorem execReviveTile_keeps {K : Kept} (u : Nat) (s : State)
    (hk : Keeps K s) : OutKeeps K (execReviveTile u s) := by
  simp only [execReviveTile]
  repeat' first
    | with_reducible first
      | assumption | apply State.runTile_keeps | apply outKeeps_next

theorem execTickNowLoRead_keeps {K : Kept} (s : State)
    (hk : Keeps K s) : OutKeeps K (execTickNowLoRead s) := by
  simp only [execTickNowLoRead]
  repeat' first
    | with_reducible first
      | assumption | apply outKeeps_next
    | split | intro _ | (simp only [keeps_mk, keeps_fold])

theorem execRetract_keeps {K : Kept} (m : Fin 64) (c : Cmd) (s : State)
    (hk : Keeps K s) : OutKeeps K (execRetract m c s) := by
  simp only [execRetract]
  repeat' first
    | with_reducible first
      | assumption | apply outKeeps_next | apply State.hostCommand_keeps
    | split | intro _

theorem execLinkTrained_keeps {K : Kept} (port : Fin 20) (lanes : BitVec 8) (s : State)
    (hk : Keeps K s) : OutKeeps K (execLinkTrained port lanes s) := by
  simp only [execLinkTrained]
  repeat' first
    | with_reducible first
      | assumption | apply State.updPort_keeps | apply State.newExchange_keeps | apply State.sendHello_keeps
        | apply outKeeps_next
    | split

theorem execLcChallenge_keeps {K : Kept} (s : State)
    (hk : Keeps K s) : OutKeeps K (execLcChallenge s) := by
  simp only [execLcChallenge]
  repeat' first
    | with_reducible first
      | assumption | apply State.drawFree_keeps | apply outKeeps_next
    | split | intro _ | (simp only [keeps_mk, keeps_fold])

theorem execMemberLost_keeps {K : Kept} (rank : Fin 64) (s : State)
    (hk : Keeps K s) : OutKeeps K (execMemberLost rank s) := by
  simp only [execMemberLost]
  repeat' first
    | with_reducible first
      | assumption | apply State.leaveGroup_keeps | apply State.stage_keeps | apply outKeeps_next
    | split | intro _ | (simp only [keeps_mk, keeps_fold])

theorem execSchedActivate_keeps {K : Kept} (s : State)
    (hk : Keeps K s) : OutKeeps K (execSchedActivate s) := by
  simp only [execSchedActivate]
  repeat' first
    | with_reducible first
      | assumption | apply State.activateTable_keeps | apply outKeeps_next
    | split

theorem execWhorlBoundary_keeps {K : Kept} (measuredUj : Nat) (s : State)
    (hk : Keeps K s) : OutKeeps K (execWhorlBoundary measuredUj s) := by
  simp only [execWhorlBoundary]
  repeat' first
    | with_reducible first
      | assumption | apply State.settleWhorl_keeps | apply outKeeps_next
    | split

theorem execPinLoss_keeps {K : Kept} (s : State)
    (hk : Keeps K s) : OutKeeps K (execPinLoss s) := by
  simp only [execPinLoss]
  repeat' first
    | with_reducible first
      | assumption | apply outKeeps_next
    | split | intro _ | (simp only [keeps_mk, keeps_fold])

theorem execSatClear_keeps {K : Kept} (r : SatCounter) (s : State)
    (hk : Keeps K s) : OutKeeps K (execSatClear r s) := by
  simp only [execSatClear]
  repeat' first
    | with_reducible first
      | assumption | apply outKeeps_next
    | split | intro _ | (simp only [keeps_mk, keeps_fold])

theorem execPageResponse_keeps {K : Kept} (space : HostSpace) (page : Nat) (ok : Bool) (s : State)
    (hk : Keeps K s) : OutKeeps K (execPageResponse space page ok s) := by
  simp only [execPageResponse]
  repeat' first
    | with_reducible first
      | assumption | apply State.pageIn_keeps | apply State.failPage_keeps | apply outKeeps_next
    | split

theorem execMirror_keeps {K : Kept} (rank : Fin 64) (key : UnitKey) (entries : List MirrorEntry) (s : State)
    (hk : Keeps K s) : OutKeeps K (execMirror rank key entries s) := by
  simp only [execMirror]
  repeat' first
    | with_reducible first
      | assumption | apply State.sendMsg_keeps | apply outKeeps_next
    | split | intro _ | (simp only [keeps_mk, keeps_fold])

theorem execMailboxWatchdog_keeps {K : Kept} (m : Fin 64) (s : State)
    (hk : Keeps K s) : OutKeeps K (execMailboxWatchdog m s) := by
  simp only [execMailboxWatchdog]
  repeat' first
    | with_reducible first
      | assumption | apply State.declareHang_keeps | apply State.updMbx_keeps | apply State.atTime_keeps
        | apply outKeeps_next
    | split

theorem execDecodeStep_keeps {K : Kept} (u : Nat) (s : State)
    (hk : Keeps K s) : OutKeeps K (execDecodeStep u s) := by
  simp only [execDecodeStep]
  repeat' first
    | with_reducible first
      | assumption | apply State.runUnit_keeps | apply State.noteKeyMiss_keeps | apply outKeeps_next
    | split

theorem execReelWrite_keeps {K : Kept} (s : State)
    (hk : Keeps K s) : OutKeeps K (execReelWrite s) := by
  simp only [execReelWrite]
  repeat' first
    | with_reducible first
      | assumption | apply State.stage_keeps | apply outKeeps_next
    | split

theorem execCommitWindowOpen_keeps {K : Kept} (hw : List (Nat × Bytes)) (s : State)
    (hk : Keeps K s) : OutKeeps K (execCommitWindowOpen hw s) := by
  simp only [execCommitWindowOpen]
  repeat' first
    | with_reducible first
      | assumption | apply State.atTime_keeps | apply State.hostWrites_keeps | apply State.sendStatus_keeps
        | apply State.sendMirrors_keeps | apply State.reportUnits_keeps | apply State.readConsumers_keeps
        | apply outKeeps_next
    | split | intro _ | (simp only [keeps_mk, keeps_fold])

theorem execFailed_keeps {K : Kept} (rank : Fin 64) (digest : Digest) (status : Fin 16) (s : State)
    (hk : Keeps K s) : OutKeeps K (execFailed rank digest status s) := by
  simp only [execFailed]
  repeat' first
    | with_reducible first
      | assumption | apply outKeeps_next | apply State.receiveFrom_keeps

theorem execRestore_keeps {K : Kept} (m : Fin 64) (c : Cmd) (s : State)
    (hk : Keeps K s) : OutKeeps K (execRestore m c s) := by
  simp only [execRestore]
  repeat' first
    | with_reducible first
      | assumption | apply outKeeps_next | apply State.hostCommand_keeps
    | split | intro _

theorem execShrink_keeps {K : Kept} (survivors : Word64) (tick : BitVec 48) (s : State)
    (hk : Keeps K s) : OutKeeps K (execShrink survivors tick s) := by
  simp only [execShrink]
  repeat' first
    | with_reducible first
      | assumption | apply outKeeps_next
    | split | intro _ | (simp only [keeps_mk, keeps_fold])

theorem execPortDown_keeps {K : Kept} (port : Fin 20) (s : State)
    (hk : Keeps K s) : OutKeeps K (execPortDown port s) := by
  simp only [execPortDown]
  repeat' first
    | with_reducible first
      | assumption | apply State.traceRec_keeps | apply State.downPort_keeps | apply outKeeps_next
    | split

theorem execTableDigest_keeps {K : Kept} (rank : Fin 64) (id : Word32) (digest : Digest) (s : State)
    (hk : Keeps K s) : OutKeeps K (execTableDigest rank id digest s) := by
  simp only [execTableDigest]
  repeat' first
    | with_reducible first
      | assumption | apply outKeeps_next
    | split | intro _ | (simp only [keeps_mk, keeps_fold])

theorem execStallHoldExpiry_keeps {K : Kept} (r : Nat) (s : State)
    (hk : Keeps K s) : OutKeeps K (execStallHoldExpiry r s) := by
  simp only [execStallHoldExpiry]
  repeat' first
    | with_reducible first
      | assumption | apply State.view_keeps | apply State.stage_keeps | apply State.updReq_keeps
        | apply outKeeps_next
    | split

theorem execDciCqHeadWrite_keeps {K : Kept} (v : Word32) (s : State)
    (hk : Keeps K s) : OutKeeps K (execDciCqHeadWrite v s) := by
  simp only [execDciCqHeadWrite]
  repeat' first
    | with_reducible first
      | assumption | apply outKeeps_next
    | split | intro _ | (simp only [keeps_mk, keeps_fold])

theorem execAtsResponse_keeps {K : Kept} (space : HostSpace) (page : Nat) (frame : Option Nat) (s : State)
    (hk : Keeps K s) : OutKeeps K (execAtsResponse space page frame s) := by
  simp only [execAtsResponse]
  repeat' first
    | with_reducible first
      | assumption | apply State.count_keeps | apply State.pageIn_keeps | apply outKeeps_next
    | split | intro _ | (simp only [keeps_mk, keeps_fold])

theorem execLoadVocab_keeps {K : Kept} (m : Fin 64) (c : Cmd) (s : State)
    (hk : Keeps K s) : OutKeeps K (execLoadVocab m c s) := by
  simp only [execLoadVocab]
  repeat' first
    | with_reducible first
      | assumption | apply outKeeps_next | apply State.hostCommand_keeps
    | split | intro _

theorem execReencryptionSweep_keeps {K : Kept} (u : Nat) (s : State)
    (hk : Keeps K s) : OutKeeps K (execReencryptionSweep u s) := by
  simp only [execReencryptionSweep]
  repeat' first
    | with_reducible first
      | assumption | apply State.runUnit_keeps | apply outKeeps_next

theorem execTwineClockLoss_keeps {K : Kept} (k : Fin 4) (s : State)
    (hk : Keeps K s) : OutKeeps K (execTwineClockLoss k s) := by
  simp only [execTwineClockLoss]
  repeat' first
    | with_reducible first
      | assumption | apply State.downPort_keeps | apply outKeeps_next | apply foldl_keeps

theorem execMbxDisable_keeps {K : Kept} (m : Fin 64) (s : State)
    (hk : Keeps K s) : OutKeeps K (execMbxDisable m s) := by
  simp only [execMbxDisable]
  repeat' first
    | with_reducible first
      | assumption | apply State.updMbx_keeps | apply State.stopMailbox_keeps | apply outKeeps_next
    | split

theorem execPageRequestTimeout_keeps {K : Kept} (space : HostSpace) (page : Nat) (s : State)
    (hk : Keeps K s) : OutKeeps K (execPageRequestTimeout space page s) := by
  simp only [execPageRequestTimeout]
  repeat' first
    | with_reducible first
      | assumption | apply State.failPage_keeps | apply outKeeps_next
    | split

theorem execHoldTimeout_keeps {K : Kept} (idx : Nat) (s : State)
    (hk : Keeps K s) : OutKeeps K (execHoldTimeout idx s) := by
  simp only [execHoldTimeout]
  repeat' first
    | with_reducible first
      | assumption | apply State.stage_keeps | apply outKeeps_next
    | split

theorem execWdogEnWrite_keeps {K : Kept} (m : Fin 64) (v : Bool) (s : State)
    (hk : Keeps K s) : OutKeeps K (execWdogEnWrite m v s) := by
  simp only [execWdogEnWrite]
  repeat' first
    | with_reducible first
      | assumption | apply State.updMbx_keeps | apply outKeeps_next
    | split

theorem execLoadModel_keeps {K : Kept} (m : Fin 64) (c : Cmd) (s : State)
    (hk : Keeps K s) : OutKeeps K (execLoadModel m c s) := by
  simp only [execLoadModel]
  repeat' first
    | with_reducible first
      | assumption | apply outKeeps_next | apply State.hostCommand_keeps
    | split | intro _

theorem execInDoubtExpiry_keeps {K : Kept} (u : Nat) (s : State)
    (hk : Keeps K s) : OutKeeps K (execInDoubtExpiry u s) := by
  simp only [execInDoubtExpiry]
  repeat' first
    | with_reducible first
      | assumption | apply State.abandonUnit_keeps | apply State.updSess_keeps | apply State.releaseKv_keeps
        | apply State.updReq_keeps | apply State.startRebuild_keeps | apply State.stage_keeps
        | apply State.tryAgain_keeps | apply outKeeps_next
    | split | intro _ | (simp only [keeps_mk, keeps_fold, TickSt.abandonOne_tick])

theorem execLoaded_keeps {K : Kept} (rank : Fin 64) (digest : Digest) (lastVersion : Nat) (s : State)
    (hk : Keeps K s) : OutKeeps K (execLoaded rank digest lastVersion s) := by
  simp only [execLoaded]
  repeat' first
    | with_reducible first
      | assumption | apply outKeeps_next | apply State.receiveFrom_keeps

theorem execRestoreRecord_keeps {K : Kept} (idx : Nat) (ok : Bool) (s : State)
    (hk : Keeps K s) : OutKeeps K (execRestoreRecord idx ok s) := by
  simp only [execRestoreRecord]
  repeat' first
    | with_reducible first
      | assumption | apply State.stage_keeps | apply outKeeps_next
    | split

theorem execDciDestroy_keeps {K : Kept} (e : Cmd) (s : State)
    (hk : Keeps K s) : OutKeeps K (execDciDestroy e s) := by
  simp only [execDciDestroy]
  repeat' first
    | with_reducible first
      | assumption | apply outKeeps_next | apply State.dciEntry_keeps

theorem execDelayedRingWrite_keeps {K : Kept} (space : HostSpace) (page : Nat) (s : State)
    (hk : Keeps K s) : OutKeeps K (execDelayedRingWrite space page s) := by
  simp only [execDelayedRingWrite]
  repeat' first
    | with_reducible first
      | assumption | apply State.flushLate_keeps | apply State.flushRing_keeps | apply State.flushDci_keeps
        | apply State.flushCq_keeps | apply outKeeps_next | apply foldl_keeps | apply foldl_keeps_fst
        | apply foldl_keeps_snd
    | split

theorem execFlit_keeps {K : Kept} (port : Fin 20) (flit : BitVec 2048) (fecOk : Bool) (s : State)
    (hk : Keeps K s) : OutKeeps K (execFlit port flit fecOk s) := by
  simp only [execFlit]
  repeat' first
    | with_reducible first
      | assumption | apply State.askRetry_keeps | apply State.updPort_keeps | apply State.drainPort_keeps
        | apply State.takeFlit_keeps | apply outKeeps_next
    | split

theorem execParkTile_keeps {K : Kept} (u : Nat) (s : State)
    (hk : Keeps K s) : OutKeeps K (execParkTile u s) := by
  simp only [execParkTile]
  repeat' first
    | with_reducible first
      | assumption | apply State.runTile_keeps | apply State.noteCopyMiss_keeps | apply outKeeps_next

theorem execPark_keeps {K : Kept} (m : Fin 64) (c : Cmd) (s : State)
    (hk : Keeps K s) : OutKeeps K (execPark m c s) := by
  simp only [execPark]
  repeat' first
    | with_reducible first
      | assumption | apply outKeeps_next | apply State.hostCommand_keeps
    | split | intro _

theorem execDciReqClear_keeps {K : Kept} (s : State)
    (hk : Keeps K s) : OutKeeps K (execDciReqClear s) := by
  simp only [execDciReqClear]
  repeat' first
    | with_reducible first
      | assumption | apply State.dropDci_keeps | apply outKeeps_next
    | split | intro _ | (simp only [keeps_mk, keeps_fold])

theorem execJoinGo_keeps {K : Kept} (hn : K.tick = none) (tick : BitVec 48) (copy : Option JoinCopy) (s : State)
    (hk : Keeps K s) : OutKeeps K (execJoinGo tick copy s) := by
  simp only [execJoinGo]
  repeat' first
    | with_reducible first
      | assumption | apply State.failJoin_keeps | apply State.takePlace_keeps hn | apply State.takeCopies_keeps
        | apply State.stage_keeps | apply State.widthChange_keeps | apply outKeeps_next
    | split | intro _ | (simp only [keeps_mk, keeps_fold])

theorem execBistRead_keeps {K : Kept} (s : State)
    (hk : Keeps K s) : OutKeeps K (execBistRead s) := by
  simp only [execBistRead]
  repeat' first
    | with_reducible first
      | assumption | apply State.setSticky_keeps | apply outKeeps_next
    | split | intro _ | (simp only [keeps_mk, keeps_fold])

theorem execChkptTileTimeout_keeps {K : Kept} (u : Nat) (s : State)
    (hk : Keeps K s) : OutKeeps K (execChkptTileTimeout u s) := by
  simp only [execChkptTileTimeout]
  repeat' first
    | with_reducible first
      | assumption | apply State.stage_keeps | apply State.dropUnit_keeps | apply outKeeps_next
    | split

theorem execRawTestEngine_keeps {K : Kept} (s : State)
    (hk : Keeps K s) : OutKeeps K (execRawTestEngine s) := by
  simp only [execRawTestEngine]
  repeat' first
    | with_reducible first
      | assumption | apply State.setSticky_keeps | apply outKeeps_next
    | split

theorem execQueryOwner_keeps {K : Kept} (m : Fin 64) (c : Cmd) (s : State)
    (hk : Keeps K s) : OutKeeps K (execQueryOwner m c s) := by
  simp only [execQueryOwner]
  repeat' first
    | with_reducible first
      | assumption | apply outKeeps_next | apply State.hostCommand_keeps
    | split | intro _

theorem execJoinAck_keeps {K : Kept} (rank : Fin 64) (status : Fin 16) (s : State)
    (hk : Keeps K s) : OutKeeps K (execJoinAck rank status s) := by
  simp only [execJoinAck]
  repeat' first
    | with_reducible first
      | assumption | apply State.failJoin_keeps | apply outKeeps_next
    | split | intro _ | (simp only [keeps_mk, keeps_fold])

theorem execBistResults_keeps {K : Kept} (m : Fin 64) (c : Cmd) (s : State)
    (hk : Keeps K s) : OutKeeps K (execBistResults m c s) := by
  simp only [execBistResults]
  repeat' first
    | with_reducible first
      | assumption | apply outKeeps_next | apply State.hostCommand_keeps
    | split | intro _

theorem execSessionCreate_keeps {K : Kept} (m : Fin 64) (c : Cmd) (s : State)
    (hk : Keeps K s) : OutKeeps K (execSessionCreate m c s) := by
  simp only [execSessionCreate]
  repeat' first
    | with_reducible first
      | assumption | apply outKeeps_next | apply State.hostCommand_keeps
    | split | intro _

theorem execBootComplete_keeps {K : Kept} (hn : K.tick = none) (s : State)
    (hk : Keeps K s) : OutKeeps K (execBootComplete s) := by
  simp only [execBootComplete]
  repeat' first
    | with_reducible first
      | assumption | apply State.setSticky_keeps | apply State.comeReady_keeps hn | apply outKeeps_next
    | split | intro _ | (simp only [keeps_mk, keeps_fold])

theorem execHello_keeps {K : Kept} (via : HelloVia) (body : Bytes) (s : State)
    (hk : Keeps K s) : OutKeeps K (execHello via body s) := by
  simp only [execHello]
  repeat' first
    | with_reducible first
      | assumption | apply State.helloLink_keeps | apply State.failJoin_keeps | apply State.ackJoin_keeps
        | apply State.helloBlock_keeps | apply outKeeps_next
    | split

theorem execDecisionQuery_keeps {K : Kept} (rank : Fin 64) (key : UnitKey) (s : State)
    (hk : Keeps K s) : OutKeeps K (execDecisionQuery rank key s) := by
  simp only [execDecisionQuery]
  repeat' first
    | with_reducible first
      | assumption | apply State.sendMsg_keeps | apply outKeeps_next
    | split

theorem execMbxEnable_keeps {K : Kept} (m : Fin 64) (s : State)
    (hk : Keeps K s) : OutKeeps K (execMbxEnable m s) := by
  simp only [execMbxEnable]
  repeat' first
    | with_reducible first
      | assumption | apply State.updMbx_keeps | apply outKeeps_next
    | split

theorem execShutdown_keeps {K : Kept} (m : Fin 64) (c : Cmd) (s : State)
    (hk : Keeps K s) : OutKeeps K (execShutdown m c s) := by
  simp only [execShutdown]
  repeat' first
    | with_reducible first
      | assumption | apply outKeeps_next | apply State.hostCommand_keeps
    | split | intro _

theorem execTickWatchdog_keeps {K : Kept} (s : State)
    (hk : Keeps K s) : OutKeeps K (execTickWatchdog s) := by
  simp only [execTickWatchdog]
  repeat' first
    | with_reducible first
      | assumption | apply State.declareHang_keeps | apply outKeeps_next
    | split

theorem execRevive_keeps {K : Kept} (m : Fin 64) (c : Cmd) (s : State)
    (hk : Keeps K s) : OutKeeps K (execRevive m c s) := by
  simp only [execRevive]
  repeat' first
    | with_reducible first
      | assumption | apply outKeeps_next | apply State.hostCommand_keeps
    | split | intro _

theorem execBoot_keeps {K : Kept} (straps : BitVec 9) (signatureOk : Bool) (s : State)
    (hk : Keeps K s) : OutKeeps K (execBoot straps signatureOk s) := by
  simp only [execBoot]
  repeat' first
    | with_reducible first
      | assumption | apply outKeeps_next
    | split | intro _ | (simp only [keeps_mk, keeps_fold])

theorem execSearchPass_keeps {K : Kept} (u : Nat) (s : State)
    (hk : Keeps K s) : OutKeeps K (execSearchPass u s) := by
  simp only [execSearchPass]
  repeat' first
    | with_reducible first
      | assumption | apply State.finish_keeps | apply State.stagePass_keeps | apply outKeeps_next
    | split

theorem execBistRunDone_keeps {K : Kept} (run : BistRun) (s : State)
    (hk : Keeps K s) : OutKeeps K (execBistRunDone run s) := by
  simp only [execBistRunDone]
  repeat' first
    | with_reducible first
      | assumption | apply outKeeps_next
    | split | intro _ | (simp only [keeps_mk, keeps_fold])

theorem execRetireAdapter_keeps {K : Kept} (m : Fin 64) (c : Cmd) (s : State)
    (hk : Keeps K s) : OutKeeps K (execRetireAdapter m c s) := by
  simp only [execRetireAdapter]
  repeat' first
    | with_reducible first
      | assumption | apply outKeeps_next | apply State.hostCommand_keeps
    | split | intro _

theorem execShaperSet_keeps {K : Kept} (m : Fin 64) (c : Cmd) (s : State)
    (hk : Keeps K s) : OutKeeps K (execShaperSet m c s) := by
  simp only [execShaperSet]
  repeat' first
    | with_reducible first
      | assumption | apply outKeeps_next | apply State.hostCommand_keeps
    | split | intro _

theorem execAttest_keeps {K : Kept} (m : Fin 64) (c : Cmd) (s : State)
    (hk : Keeps K s) : OutKeeps K (execAttest m c s) := by
  simp only [execAttest]
  repeat' first
    | with_reducible first
      | assumption | apply outKeeps_next | apply State.hostCommand_keeps
    | split | intro _

theorem execMove_keeps {K : Kept} (rank : Fin 64) (item : MoveItem) (s : State)
    (hk : Keeps K s) : OutKeeps K (execMove rank item s) := by
  simp only [execMove]
  repeat' first
    | with_reducible first
      | assumption | apply outKeeps_next | apply State.receiveFrom_keeps

theorem execTableVerdict_keeps {K : Kept} (go : Bool) (s : State)
    (hk : Keeps K s) : OutKeeps K (execTableVerdict go s) := by
  simp only [execTableVerdict]
  repeat' first
    | with_reducible first
      | assumption | apply outKeeps_next | apply State.receiveFromRoot_keeps

theorem execPortRetrain_keeps {K : Kept} (port : Fin 20) (s : State)
    (hk : Keeps K s) : OutKeeps K (execPortRetrain port s) := by
  simp only [execPortRetrain]
  repeat' first
    | with_reducible first
      | assumption | apply State.updPort_keeps | apply State.atTime_keeps | apply outKeeps_next
    | split

theorem execStatus_keeps {K : Kept} (rank : Fin 64) (tick : BitVec 48) (counts : List Nat) (s : State)
    (hk : Keeps K s) : OutKeeps K (execStatus rank tick counts s) := by
  simp only [execStatus]
  repeat' first
    | with_reducible first
      | assumption | apply outKeeps_next
    | split | intro _ | (simp only [keeps_mk, keeps_fold])

theorem execTenantCreate_keeps {K : Kept} (m : Fin 64) (c : Cmd) (s : State)
    (hk : Keeps K s) : OutKeeps K (execTenantCreate m c s) := by
  simp only [execTenantCreate]
  repeat' first
    | with_reducible first
      | assumption | apply outKeeps_next | apply State.hostCommand_keeps
    | split | intro _

theorem execTraceMsg_keeps {K : Kept} (rank : Fin 64) (body : Bytes) (s : State)
    (hk : Keeps K s) : OutKeeps K (execTraceMsg rank body s) := by
  simp only [execTraceMsg]
  repeat' first
    | with_reducible first
      | assumption | apply outKeeps_next | apply State.receiveFrom_keeps

theorem execJoinTimeout_keeps {K : Kept} (s : State)
    (hk : Keeps K s) : OutKeeps K (execJoinTimeout s) := by
  simp only [execJoinTimeout]
  repeat' first
    | with_reducible first
      | assumption | apply State.failJoin_keeps | apply outKeeps_next
    | split

theorem execLinkRetryTimeout_keeps {K : Kept} (port : Fin 20) (s : State)
    (hk : Keeps K s) : OutKeeps K (execLinkRetryTimeout port s) := by
  simp only [execLinkRetryTimeout]
  repeat' first
    | with_reducible first
      | assumption | apply State.atTime_keeps | apply State.updPort_keeps | apply outKeeps_next
    | split

theorem execPurgeTimeout_keeps {K : Kept} (p : Nat) (s : State)
    (hk : Keeps K s) : OutKeeps K (execPurgeTimeout p s) := by
  simp only [execPurgeTimeout]
  repeat' first
    | with_reducible first
      | assumption | apply State.stage_keeps | apply outKeeps_next
    | split | intro _ | (simp only [keeps_mk, keeps_fold])

theorem execDciInput_keeps {K : Kept} (e : Cmd) (s : State)
    (hk : Keeps K s) : OutKeeps K (execDciInput e s) := by
  simp only [execDciInput]
  repeat' first
    | with_reducible first
      | assumption | apply outKeeps_next | apply State.dciEntry_keeps

theorem execTickInEdge_keeps {K : Kept} (sinceUs : Nat) (s : State)
    (hk : Keeps K s) : OutKeeps K (execTickInEdge sinceUs s) := by
  simp only [execTickInEdge]
  repeat' first
    | with_reducible first
      | assumption | apply State.pinSample_keeps | apply State.beginTick_keeps | apply outKeeps_next
    | split | intro _ | (simp only [keeps_mk, keeps_fold])

theorem execGroupApply_keeps {K : Kept} (x : Nat) (s : State)
    (hk : Keeps K s) : OutKeeps K (execGroupApply x s) := by
  simp only [execGroupApply]
  repeat' first
    | with_reducible first
      | assumption | apply State.stage_keeps | apply outKeeps_next
    | split | intro _ | (simp only [keeps_mk, keeps_fold])

theorem execSessionDestroy_keeps {K : Kept} (m : Fin 64) (c : Cmd) (s : State)
    (hk : Keeps K s) : OutKeeps K (execSessionDestroy m c s) := by
  simp only [execSessionDestroy]
  repeat' first
    | with_reducible first
      | assumption | apply outKeeps_next | apply State.hostCommand_keeps
    | split | intro _

theorem execTokenize_keeps {K : Kept} (u : Nat) (s : State)
    (hk : Keeps K s) : OutKeeps K (execTokenize u s) := by
  simp only [execTokenize]
  repeat' first
    | with_reducible first
      | assumption | apply State.drawFree_keeps | apply State.count_keeps | apply State.runUnit_keeps
        | apply outKeeps_next
    | split

theorem execCheckpoint_keeps {K : Kept} (m : Fin 64) (c : Cmd) (s : State)
    (hk : Keeps K s) : OutKeeps K (execCheckpoint m c s) := by
  simp only [execCheckpoint]
  repeat' first
    | with_reducible first
      | assumption | apply outKeeps_next | apply State.hostCommand_keeps
    | split | intro _

theorem execStewardRestart_keeps {K : Kept} (s : State)
    (hk : Keeps K s) : OutKeeps K (execStewardRestart s) := by
  simp only [execStewardRestart]
  repeat' first
    | with_reducible first
      | assumption | apply State.setSticky_keeps | apply outKeeps_next
    | split | intro _ | (simp only [keeps_mk, keeps_fold])

end Sys2Proof.Machine
end

