-- ==== Sys2Proof/Laws/Ops.lean ====
section
/-! SUPPORT. What the shared operations can change: one lemma per operation, which names the fields that it writes. -/
namespace Sys2Proof.Machine

/-- A property of the state that every step of a fold keeps. -/
theorem foldl_holds {α : Type} (P : State → Prop) (f : State → α → State) (hf : ∀ s a, P s → P (f s a)) (l : List α) (s : State)
    (h : P s) : P (l.foldl f s) := by
  induction l generalizing s with
  | nil => exact h
  | cons a l ih => exact ih _ (hf s a h)

/-! ### Host memory, counters, trace -/

theorem State.hostWrites_frame (s : State) (hw : List (Nat × Bytes)) : ∃ m, s.hostWrites hw = { s with host0 := m } := by
  unfold State.hostWrites
  refine foldl_holds (fun t => ∃ m, t = { s with host0 := m }) _ ?_ _ _ ⟨_, rfl⟩
  rintro x a ⟨m, rfl⟩
  exact ⟨_, rfl⟩

theorem State.count_frame (s : State) (g i k : Nat) : ∃ d, s.count g i k = { s with dbg := d } := by
  unfold State.count
  split <;> exact ⟨_, rfl⟩

theorem State.traceLost_frame (s : State) (r : Bool) : ∃ d, s.traceLost r = { s with dbg := d } := ⟨_, rfl⟩

theorem State.tracePost_frame (s : State) (r : Bool) (b : Bytes) : ∃ d, s.tracePost r b = { s with dbg := d } := by
  unfold State.tracePost
  dsimp only
  repeat' split
  all_goals first | exact State.traceLost_frame s _ | exact ⟨_, rfl⟩

theorem State.tracePut_frame (s : State) (r : Bool) (b : Bytes) : ∃ d, s.tracePut r b = { s with dbg := d } := by
  unfold State.tracePut
  split
  · exact ⟨_, rfl⟩
  · exact ⟨_, rfl⟩
  · obtain ⟨d, h⟩ := State.tracePost_frame s r b
    rw [h]; exact ⟨_, rfl⟩
  · exact State.traceLost_frame s r

theorem State.trigger_frame (s : State) (a b c : Nat) : ∃ d, s.trigger a b c = { s with dbg := d } := by
  unfold State.trigger
  split
  · exact ⟨_, rfl⟩
  · dsimp only
    have h1 : ∃ d, (if s.dbg.capture = 3 then s else s.count 6 3 1) = { s with dbg := d } := by
      split
      · exact ⟨_, rfl⟩
      · exact State.count_frame _ _ _ _
    obtain ⟨d, h1⟩ := h1
    rw [h1]
    split
    · exact State.tracePut_frame _ _ _
    · exact State.tracePut_frame _ _ _

/-- A trace record changes the trace block alone. -/
theorem State.traceRec_frame (s : State) (c r : Nat) (b : Bytes) : ∃ d, s.traceRec c r b = { s with dbg := d } := by
  unfold State.traceRec
  dsimp only
  generalize (if decide (0x8000 ≤ c) = true then 1 else 0) = fl
  split
  · exact ⟨s.dbg, rfl⟩
  · obtain ⟨d, h⟩ := State.tracePut_frame s (decide (0x8000 ≤ c)) (traceBytes s.tk.tick c s.cycle r fl b)
    rw [h]
    split
    · obtain ⟨e, h2⟩ := State.trigger_frame { s with dbg := d } r 2 c
      exact ⟨e, h2⟩
    · exact ⟨d, rfl⟩

/-! ### Messages -/

/-- The fields that sending a message writes. -/
def Sent (s t : State) : Prop := ∃ p d f o q n, t = { s with
  ports := p, dbg := d, freeCtr := f, outbox := o, grp := { s.grp with msgSeq := q, sentCounts := n } }

theorem Sent.refl (s : State) : Sent s s := ⟨_, _, _, _, _, _, rfl⟩
theorem Sent.trans {a b c : State} (h : Sent a b) (k : Sent b c) : Sent a c := by
  obtain ⟨_, _, _, _, _, _, rfl⟩ := h
  obtain ⟨p, d, f, o, q, n, rfl⟩ := k
  exact ⟨p, d, f, o, q, n, rfl⟩
theorem Sent.ite {s a b : State} {c : Prop} [Decidable c] (ha : Sent s a) (hb : Sent s b) : Sent s (if c then a else b) := by
  split
  · exact ha
  · exact hb
theorem Sent.ofTrace (s : State) (c r : Nat) (b : Bytes) : Sent s (s.traceRec c r b) := by
  obtain ⟨d, h⟩ := s.traceRec_frame c r b
  exact ⟨s.ports, d, s.freeCtr, s.outbox, s.grp.msgSeq, s.grp.sentCounts, h⟩

theorem State.drainPort_frame (s : State) (p : Fin 20) : Sent s (s.drainPort p) := by
  unfold State.drainPort
  dsimp only
  split
  · exact Sent.refl s
  · refine foldl_holds (Sent s) _ (fun t b h => h.trans (Sent.ofTrace t _ _ _)) _ _ ?_
    exact ⟨_, s.dbg, s.freeCtr + 1, s.outbox, s.grp.msgSeq, s.grp.sentCounts, rfl⟩

theorem State.queueFlits_frame (s : State) (p : Fin 20) (m : TxMsg) : Sent s (s.queueFlits p m) := by
  refine Sent.trans ?_ (State.drainPort_frame _ p)
  exact ⟨_, s.dbg, s.freeCtr, s.outbox, s.grp.msgSeq, s.grp.sentCounts, rfl⟩

/-- The bytes and the flits of a message draw a free value at most. -/
theorem State.bodyOf_frame (s : State) (b : MsgBody) : ∃ k, (s.bodyOf b).2 = { s with freeCtr := k } := by
  unfold State.bodyOf
  split
  all_goals exact ⟨_, rfl⟩

theorem State.flitsOf_draws (s : State) (dst stamp n : Nat) (b : MsgBody) : ∃ k, (s.flitsOf dst stamp n b).2 = { s with freeCtr := k } := by
  unfold State.flitsOf
  dsimp only
  split
  all_goals first | exact State.bodyOf_frame s _ | exact ⟨_, rfl⟩

theorem State.flitsOf_frame (s : State) (dst stamp n : Nat) (b : MsgBody) : Sent s (s.flitsOf dst stamp n b).2 := by
  obtain ⟨k, h⟩ := s.flitsOf_draws dst stamp n b
  rw [h]
  exact ⟨s.ports, s.dbg, k, s.outbox, s.grp.msgSeq, s.grp.sentCounts, rfl⟩

theorem State.transmit_frame (s : State) (dst : MsgDst) (stamp n : Nat) (b : MsgBody) : Sent s (s.transmit dst stamp n b) := by
  unfold State.transmit
  split
  · exact Sent.refl s
  · exact (State.flitsOf_frame s _ _ _ b).trans (State.queueFlits_frame _ _ _)

/-- A message sent touches the ports, the outbox, the message counts, the trace and the free counter alone. -/
theorem State.sendMsg_frame (s : State) (dst : MsgDst) (stamp : Nat) (b : MsgBody) : Sent s (s.sendMsg dst stamp b) := by
  unfold State.sendMsg
  refine Sent.ite (Sent.refl s) ?_
  dsimp only
  generalize (8 * (match dst with | .rank r => r | .device _ => 64 | .port p => 65 + p) + b.tc) = k
  have h := (Sent.trans (b := { s with
    outbox := s.outbox ++ [⟨dst, stamp, s.tk.tick, (Tb.get s.grp.msgSeq k).getD 0, b⟩]
    grp.msgSeq := Tb.set s.grp.msgSeq k ((Tb.get s.grp.msgSeq k).getD 0 + 1) })
    ⟨s.ports, s.dbg, s.freeCtr, _, _, s.grp.sentCounts, rfl⟩ (State.transmit_frame _ dst stamp ((Tb.get s.grp.msgSeq k).getD 0) b))
  cases dst <;> cases stamp <;> first | exact h | exact h.trans ⟨_, _, _, _, _, _, rfl⟩

theorem State.sendAll_frame (s : State) (stamp : Nat) (b : MsgBody) : Sent s (s.sendAll stamp b) := by
  unfold State.sendAll
  exact foldl_holds (Sent s) _ (fun t r h => h.trans (State.sendMsg_frame t _ _ _)) _ _ (Sent.refl s)

/-! ### Sending changes a port's queue, sequence, unacknowledged flits, credits and shapers alone -/

/-- A port after sending. -/
def PortSent (x y : Port) : Prop := y = x.sentAs y

theorem PortSent.refl (x : Port) : PortSent x x := rfl
theorem PortSent.trans {x y z : Port} (h : PortSent x y) (k : PortSent y z) : PortSent x z := by
  unfold PortSent at h k ⊢
  rw [k, h]
  rfl

/-- Every port as sending leaves it. -/
def PortsSent (s t : State) : Prop := ∀ q : Fin 20, PortSent s.ports[q] t.ports[q]

theorem PortsSent.refl (s : State) : PortsSent s s := fun _ => rfl
theorem PortsSent.trans {a b c : State} (h : PortsSent a b) (k : PortsSent b c) : PortsSent a c := fun q => (h q).trans (k q)
theorem PortsSent.of_eq {a b : State} (h : b.ports = a.ports) : PortsSent a b := fun q => by rw [h]; exact PortSent.refl _

theorem PortsSent.ite {s a b : State} {c : Prop} [Decidable c] (ha : PortsSent s a) (hb : PortsSent s b) :
    PortsSent s (if c then a else b) := by
  split
  · exact ha
  · exact hb

theorem PortsSent.set {s t : State} (p : Fin 20) (y : Port) (h : PortSent s.ports[p] y) (ht : t.ports = s.ports.set p y) :
    PortsSent s t := by
  intro q
  rw [ht]
  by_cases hq : q = p
  · subst hq; simpa using h
  · have : p.val ≠ q.val := fun h => hq (Fin.ext h.symm)
    simp [Vector.getElem_set_ne _ _ this, PortSent.refl]

theorem Port.put_sent (x : Port) (m : TxMsg) (k : Nat) : PortSent x (x.put m k) := by
  unfold Port.put
  generalize (m.flits.drop m.done).take k = l
  induction l generalizing x with
  | nil => rfl
  | cons f l ih => exact PortSent.trans (show PortSent x (x.putFlit m f) from rfl) (ih (x.putFlit m f))

theorem Draining.one_sent (tc : Nat) (a : Draining) (m : TxMsg) : PortSent a.port (Draining.one tc a m).port := by
  unfold Draining.one
  dsimp only
  repeat' split
  all_goals first | exact Port.put_sent _ _ _ | rfl

theorem Draining.all_sent (tc : Nat) (l : List TxMsg) (a : Draining) : PortSent a.port (l.foldl (Draining.one tc) a).port := by
  induction l generalizing a with
  | nil => rfl
  | cons m l ih => exact (Draining.one_sent tc a m).trans (ih _)

theorem Port.drain_sent (x : Port) : PortSent x (x.drain).1 := by
  unfold Port.drain
  dsimp only
  generalize h : (⟨x, [], false, []⟩ : Draining) = a
  have hx : PortSent x a.port := by rw [← h]; rfl
  generalize [7, 6, 5, 4, 3, 2, 1, 0] = l
  clear h
  induction l generalizing a with
  | nil => exact hx
  | cons c l ih => exact ih _ ((hx.trans (Draining.all_sent c a.port.txq ⟨a.port, [], false, a.notes⟩)).trans rfl)

theorem State.traceRec_ports (s : State) (c r : Nat) (b : Bytes) : (s.traceRec c r b).ports = s.ports := by
  obtain ⟨d, h⟩ := s.traceRec_frame c r b
  rw [h]

theorem State.drainPort_sent (s : State) (p : Fin 20) : PortsSent s (s.drainPort p) := by
  unfold State.drainPort
  dsimp only
  split
  · exact PortsSent.refl s
  · refine foldl_holds (PortsSent s) _ (fun t b h => h.trans (PortsSent.of_eq (t.traceRec_ports _ _ _))) _ _ ?_
    refine PortsSent.set p _ (PortSent.trans ?_ (Port.drain_sent _)) rfl
    rfl

theorem State.queueFlits_sent (s : State) (p : Fin 20) (m : TxMsg) : PortsSent s (s.queueFlits p m) :=
  PortsSent.trans (PortsSent.set p ({ s.ports[p] with
    txq := (s.ports[p]).txq ++ [m], shapers := (s.ports[p]).shapers.modify m.tc fun h => { h with busy := true } } : Port) rfl rfl)
    (State.drainPort_sent _ p)

theorem State.flitsOf_sent (s : State) (dst stamp n : Nat) (b : MsgBody) : PortsSent s (s.flitsOf dst stamp n b).2 := by
  obtain ⟨k, h⟩ := s.flitsOf_draws dst stamp n b
  rw [h]
  exact PortsSent.of_eq rfl

theorem State.transmit_sent (s : State) (dst : MsgDst) (stamp n : Nat) (b : MsgBody) : PortsSent s (s.transmit dst stamp n b) := by
  unfold State.transmit
  split
  · exact PortsSent.refl s
  · exact (State.flitsOf_sent s _ _ _ b).trans (State.queueFlits_sent _ _ _)

/-- A message sent changes what sending changes of the ports, and no more. -/
theorem State.sendMsg_sent (s : State) (dst : MsgDst) (stamp : Nat) (b : MsgBody) : PortsSent s (s.sendMsg dst stamp b) := by
  unfold State.sendMsg
  refine PortsSent.ite (PortsSent.refl s) ?_
  · dsimp only
    generalize (8 * (match dst with | .rank r => r | .device _ => 64 | .port p => 65 + p) + b.tc) = k
    have h := PortsSent.trans (b := { s with
      outbox := s.outbox ++ [⟨dst, stamp, s.tk.tick, (Tb.get s.grp.msgSeq k).getD 0, b⟩]
      grp.msgSeq := Tb.set s.grp.msgSeq k ((Tb.get s.grp.msgSeq k).getD 0 + 1) }) (PortsSent.of_eq rfl)
      (State.transmit_sent _ dst stamp ((Tb.get s.grp.msgSeq k).getD 0) b)
    cases dst <;> cases stamp <;> first | exact h | exact h.trans (PortsSent.of_eq rfl)

theorem State.queueFlits_state (s : State) (p q : Fin 20) (m : TxMsg) :
    ((s.queueFlits p m).ports[q]).state = (s.ports[q]).state := by
  have h := State.queueFlits_sent s p m q
  unfold PortSent at h
  rw [h]
  rfl

theorem Port.drain_idle (x : Port) (h : x.txq = []) : (x.drain).1.txq = [] := by
  unfold Port.drain
  dsimp only
  generalize hd : (⟨x, [], false, []⟩ : Draining) = a
  have ha : a.port.txq = [] := by rw [← hd]; exact h
  clear hd
  generalize [7, 6, 5, 4, 3, 2, 1, 0] = l
  induction l generalizing a with
  | nil => exact ha
  | cons c l ih =>
    refine ih _ ?_
    show (a.port.txq.foldl (Draining.one c) (⟨a.port, [], false, a.notes⟩ : Draining)).left = []
    rw [ha]
    rfl

/-- A port without queued flits has nothing to send. -/
theorem State.drainPort_idle (s : State) (p : Fin 20) (h : (s.ports[p]).txq = []) : s.drainPort p = s := by
  have d := Port.drain_idle s.ports[p] h
  unfold State.drainPort
  dsimp only
  rw [if_pos (by rw [d, h]; simp)]

/-! ### Units -/

theorem State.takeCredits_frame (s : State) (u : UnitRec) :
    ∃ a b, s.takeCredits u = { s with work.storeCredits := a, work.tenantTiles := b } := by
  unfold State.takeCredits
  split
  · exact ⟨_, _, rfl⟩
  · dsimp only; split <;> exact ⟨_, _, rfl⟩

theorem State.returnCredits_frame (s : State) (u : UnitRec) :
    ∃ a b, s.returnCredits u = { s with work.storeCredits := a, work.tenantTiles := b } := by
  unfold State.returnCredits
  split
  · exact ⟨_, _, rfl⟩
  · dsimp only; split <;> exact ⟨_, _, rfl⟩

/-- What admission writes; the running list only grows. -/
def Admitted (s t : State) : Prop := ∃ more queue a b slots allow ts q g d, t = { s with
  work := { s.work with running := s.work.running ++ more, queue := queue, storeCredits := a, tenantTiles := b }
  tk := { s.tk with slots := slots, allowLeft := allow }, ten := { s.ten with tenants := ts }
  st := { s.st with queries := q, groups := g }, dbg := d }

theorem Admitted.refl (s : State) : Admitted s s := ⟨[], _, _, _, _, _, _, _, _, _, by rw [List.append_nil]⟩
theorem Admitted.trans {a b c : State} (h : Admitted a b) (k : Admitted b c) : Admitted a c := by
  obtain ⟨m, _, _, _, _, _, _, _, _, _, rfl⟩ := h
  obtain ⟨m', q, x, y, sl, al, ts, qs, g, d, rfl⟩ := k
  exact ⟨m ++ m', q, x, y, sl, al, ts, qs, g, d, by rw [← List.append_assoc]⟩
theorem Admitted.dbg {s t : State} {d : DbgSt} (h : t = { s with dbg := d }) : Admitted s t :=
  ⟨[], s.work.queue, s.work.storeCredits, s.work.tenantTiles, s.tk.slots, s.tk.allowLeft, s.ten.tenants, s.st.queries,
    s.st.groups, d, by rw [List.append_nil]; exact h⟩

theorem State.formGroup_frame (s : State) (g : Nat) : ∃ a b, s.formGroup g = { s with st.queries := a, st.groups := b } := by
  unfold State.formGroup
  split
  · exact ⟨_, _, rfl⟩
  · split <;> exact ⟨_, _, rfl⟩

theorem State.startUnit_frame (s : State) (k : Nat) (u : UnitRec) : Admitted s (s.startUnit k u) := by
  unfold State.startUnit
  have h2 : ∀ x : State, Admitted x (match u.cls, u.tenant with
      | .decode, some t => { x with ten.tenants := Tb.upd x.ten.tenants t fun x => { x with decodeSeen := true } }
      | _, _ => x) := by
    intro x
    split
    · exact ⟨[], x.work.queue, x.work.storeCredits, x.work.tenantTiles, x.tk.slots, x.tk.allowLeft, _, x.st.queries, x.st.groups,
        x.dbg, by rw [List.append_nil]⟩
    · exact Admitted.refl x
  have h3 : ∀ x : State, Admitted x (match u.kind with | .searchPass g 0 => x.formGroup g | _ => x) := by
    intro x
    split
    · rename_i g _
      obtain ⟨a, b, e⟩ := x.formGroup_frame g
      exact ⟨[], x.work.queue, x.work.storeCredits, x.work.tenantTiles, x.tk.slots, x.tk.allowLeft, x.ten.tenants, a, b,
        x.dbg, by rw [List.append_nil]; exact e⟩
    · exact Admitted.refl x
  have h4 : ∀ x : State, Admitted x (x.takeCredits u) := by
    intro x
    obtain ⟨a, b, e⟩ := x.takeCredits_frame u
    exact ⟨[], x.work.queue, a, b, x.tk.slots, x.tk.allowLeft, x.ten.tenants, x.st.queries, x.st.groups,
        x.dbg, by rw [List.append_nil]; exact e⟩
  have h5 : ∀ (x : State) (i : Nat), Admitted x (x.count 1 i 1) := fun x i => Admitted.dbg (x.count_frame 1 i 1).choose_spec
  have h6 : ∀ (x : State) (b : Bytes), Admitted x (x.traceRec 0x0010 17 b) :=
    fun x b => Admitted.dbg (x.traceRec_frame 0x0010 17 b).choose_spec
  refine Admitted.trans ?_ (h6 _ _)
  refine Admitted.trans ?_ (h5 _ _)
  refine Admitted.trans ?_ (h4 _)
  refine Admitted.trans ?_ (h3 _)
  refine Admitted.trans ?_ (h2 _)
  exact ⟨_, _, s.work.storeCredits, s.work.tenantTiles, _, _, s.ten.tenants, s.st.queries, s.st.groups, s.dbg, rfl⟩

theorem State.admitLoop_frame (e : SlotEntry) (k : Nat) (l : List UnitRec) (s : State) : Admitted s (s.admitLoop e k l) := by
  induction l generalizing s with
  | nil => exact Admitted.refl s
  | cons u l ih =>
    unfold State.admitLoop
    dsimp only
    split
    · exact (s.startUnit_frame k _).trans (ih _)
    · exact ih s

theorem State.admission_frame (s : State) (k : Nat) : Admitted s (s.admission k) := by
  unfold State.admission
  split
  · exact Admitted.refl s
  · split
    · exact Admitted.refl s
    · exact State.admitLoop_frame _ _ _ _

/-- A unit that finishes. -/
theorem State.finish_spec (s : State) (k : Nat) (u : UnitRec) (effs : List Effect) : s.finishes k u effs (s.finish k u effs) := by
  unfold State.finish State.finishUnit
  dsimp only
  generalize (if s.grp.n ≤ 1 then [] else _) = ms
  have key : ∀ x : State, Sent { s with
      work.running := s.work.running.filter fun e => e.2.key != u.key || e.2.kind != u.kind
      work.done := s.work.done ++ [(⟨some u, k, u.session, if u.left = 0 then effs else []⟩ : Item)] } x → s.finishes k u effs (x.admission k) := by
    rintro x ⟨p, d, f, o, q, n, rfl⟩
    obtain ⟨m, q', a, b, sl, al, ts, qs, g, d', e⟩ := State.admission_frame _ k
    rw [e]
    exact ⟨rfl, ⟨m, rfl⟩, rfl⟩
  refine key _ (Sent.ite (State.sendMsg_frame _ _ _ _) (Sent.refl _))

/-- A unit that is abandoned. -/
theorem State.abandonUnit_spec (s : State) (k : Nat) (u : UnitRec) : s.abandons k u (s.abandonUnit k u) := by
  have hsent : ∀ x y : State, s.abandons k u x → Sent x y → s.abandons k u y := by
    rintro x y ⟨a, b, c, d, e⟩ ⟨p, db, f, o, q, n, rfl⟩
    exact ⟨a, b, c, d, by rw [e]; rfl⟩
  have hcred : ∀ x : State, s.abandons k u x → s.abandons k u (x.returnCredits u) := by
    rintro x ⟨a, b, c, d, e⟩
    obtain ⟨v, w, h⟩ := x.returnCredits_frame u
    rw [h]
    exact ⟨a, b, c, d, by rw [e]; rfl⟩
  have hdbg : ∀ (x y : State), (∃ z, y = { x with dbg := z }) → s.abandons k u x → s.abandons k u y := by
    rintro x y ⟨z, rfl⟩ ⟨a, b, c, d, e⟩
    exact ⟨a, b, c, d, by rw [e]; rfl⟩
  have hvote : ∀ (x : State) (v : List (UnitKey × Nat × Bool)), s.abandons k u x → s.abandons k u { x with work.votes := v } := by
    rintro x v ⟨a, b, c, d, e⟩
    exact ⟨a, b, c, d, by rw [e]; rfl⟩
  have hready : ∀ (x : State) (n : UnitKey), s.abandons k u x → s.abandons k u (x.sendNotReady n) := by
    intro x n h
    unfold State.sendNotReady
    split
    · exact h
    · split
      · exact hvote _ _ h
      · exact hsent _ _ h (State.sendMsg_frame _ _ _ _)
  have hif : ∀ (c : Prop) [Decidable c] (x : State) n, s.abandons k u x → s.abandons k u (if c then x.sendNotReady n else x) := by
    intro c _ x n h
    split
    · exact hready _ _ h
    · exact h
  unfold State.abandonUnit
  dsimp only
  refine hdbg _ _ (State.traceRec_frame _ _ _ _) ?_
  refine hdbg _ _ (State.count_frame _ _ _ _) ?_
  refine hcred _ ?_
  refine hif _ _ _ ?_
  have hmem : ({ u with abandons := u.abandons + 1, lastSlot := k, tags := [] } : UnitRec) ∈
      (s.work.queue ++ [{ u with abandons := u.abandons + 1, lastSlot := k, tags := [] }]).mergeSort (fun a b => a.key.before b.key) :=
    (List.mergeSort_perm _ _).mem_iff.mpr (List.mem_append_right _ (List.mem_singleton.mpr rfl))
  repeat' split
  all_goals exact ⟨rfl, hmem, rfl, rfl, rfl⟩

/-! ### Requests of direct host mode, of a stopped mailbox -/

theorem State.freeReq_frame (s : State) (r : Nat) : ∃ ss w, s.freeReq r = { s with ss := ss, work := w } := by
  unfold State.freeReq; split
  · exact ⟨s.ss, s.work, rfl⟩
  · exact ⟨_, _, rfl⟩

/-- `s` with the queued work of direct host mode gone, and no entry of it waiting for a page (R217, R266). -/
def State.dciDropped (s : State) (ss : SessSt) (w : WorkSt) : State :=
  { s with ss := ss, work := w, dci := { s.dci with wqHead := s.dci.wqTail, delayed := [] }, ats.waits := Tb.del s.ats.waits 64 }

theorem State.dropDci_frame (s : State) : ∃ ss w, s.dropDci = s.dciDropped ss w := by
  unfold State.dropDci
  dsimp only
  refine foldl_holds (fun t => ∃ ss w, t = s.dciDropped ss w) _ ?_ _ _ ⟨_, _, rfl⟩
  rintro x a ⟨ss, w, rfl⟩
  obtain ⟨ss', w', h⟩ := State.freeReq_frame (s.dciDropped ss w) a.1
  exact ⟨ss', w', h⟩

theorem State.cancelFor_frame (s : State) (m : Fin 64) (h : s.glb.inGroup = false) :
    ∃ r w, s.cancelFor m = { s with ss.reqs := r, work.steward := w } := by
  unfold State.cancelFor
  dsimp only
  refine foldl_holds (fun t => ∃ r w, t = { s with ss.reqs := r, work.steward := w }) _ ?_ _ _ ⟨_, _, rfl⟩
  rintro x a ⟨r, w, rfl⟩
  dsimp only
  rw [if_neg]
  · exact ⟨_, _, rfl⟩
  · show ¬ (s.glb.inGroup = true); simp [h]

end Sys2Proof.Machine
end

