-- ==== Sys2Proof/Laws/State.lean ====
section
/-! SUPPORT. What each small update of the state leaves: one lemma per field per update. -/
namespace Sys2Proof.Machine

variable (s : State)

/-! ### stage -/

@[simp] theorem State.stage_steward (effs : List Effect) (o : Option Nat) : (s.stage effs o).work.steward = s.work.steward ++ [⟨none, 16, o, effs⟩] := rfl
@[simp] theorem State.stage_queue (effs : List Effect) (o : Option Nat) : (s.stage effs o).work.queue = s.work.queue := rfl
@[simp] theorem State.stage_running (effs : List Effect) (o : Option Nat) : (s.stage effs o).work.running = s.work.running := rfl
@[simp] theorem State.stage_done (effs : List Effect) (o : Option Nat) : (s.stage effs o).work.done = s.work.done := rfl
@[simp] theorem State.stage_deferred (effs : List Effect) (o : Option Nat) : (s.stage effs o).work.deferred = s.work.deferred := rfl
@[simp] theorem State.stage_inDoubt (effs : List Effect) (o : Option Nat) : (s.stage effs o).work.inDoubt = s.work.inDoubt := rfl
@[simp] theorem State.stage_pending (effs : List Effect) (o : Option Nat) : (s.stage effs o).pending = s.pending := rfl
@[simp] theorem State.stage_timeUs (effs : List Effect) (o : Option Nat) : (s.stage effs o).timeUs = s.timeUs := rfl
@[simp] theorem State.stage_freeCtr (effs : List Effect) (o : Option Nat) : (s.stage effs o).freeCtr = s.freeCtr := rfl
@[simp] theorem State.stage_glb (effs : List Effect) (o : Option Nat) : (s.stage effs o).glb = s.glb := rfl
@[simp] theorem State.stage_tk (effs : List Effect) (o : Option Nat) : (s.stage effs o).tk = s.tk := rfl
@[simp] theorem State.stage_mbx (effs : List Effect) (o : Option Nat) : (s.stage effs o).mbx = s.mbx := rfl
@[simp] theorem State.stage_dci (effs : List Effect) (o : Option Nat) : (s.stage effs o).dci = s.dci := rfl
@[simp] theorem State.stage_host0 (effs : List Effect) (o : Option Nat) : (s.stage effs o).host0 = s.host0 := rfl
@[simp] theorem State.stage_host1 (effs : List Effect) (o : Option Nat) : (s.stage effs o).host1 = s.host1 := rfl
@[simp] theorem State.stage_cxl0 (effs : List Effect) (o : Option Nat) : (s.stage effs o).cxl0 = s.cxl0 := rfl
@[simp] theorem State.stage_cxl1 (effs : List Effect) (o : Option Nat) : (s.stage effs o).cxl1 = s.cxl1 := rfl
@[simp] theorem State.stage_dev (effs : List Effect) (o : Option Nat) : (s.stage effs o).dev = s.dev := rfl
@[simp] theorem State.stage_cmds (effs : List Effect) (o : Option Nat) : (s.stage effs o).cmds = s.cmds := rfl
@[simp] theorem State.stage_nextCmd (effs : List Effect) (o : Option Nat) : (s.stage effs o).nextCmd = s.nextCmd := rfl
@[simp] theorem State.stage_served (effs : List Effect) (o : Option Nat) : (s.stage effs o).served = s.served := rfl
@[simp] theorem State.stage_img (effs : List Effect) (o : Option Nat) : (s.stage effs o).img = s.img := rfl
@[simp] theorem State.stage_ss (effs : List Effect) (o : Option Nat) : (s.stage effs o).ss = s.ss := rfl
@[simp] theorem State.stage_kv (effs : List Effect) (o : Option Nat) : (s.stage effs o).kv = s.kv := rfl
@[simp] theorem State.stage_ten (effs : List Effect) (o : Option Nat) : (s.stage effs o).ten = s.ten := rfl
@[simp] theorem State.stage_st (effs : List Effect) (o : Option Nat) : (s.stage effs o).st = s.st := rfl
@[simp] theorem State.stage_chkpt (effs : List Effect) (o : Option Nat) : (s.stage effs o).chkpt = s.chkpt := rfl
@[simp] theorem State.stage_restore (effs : List Effect) (o : Option Nat) : (s.stage effs o).restore = s.restore := rfl
@[simp] theorem State.stage_sec (effs : List Effect) (o : Option Nat) : (s.stage effs o).sec = s.sec := rfl
@[simp] theorem State.stage_grp (effs : List Effect) (o : Option Nat) : (s.stage effs o).grp = s.grp := rfl
@[simp] theorem State.stage_ports (effs : List Effect) (o : Option Nat) : (s.stage effs o).ports = s.ports := rfl
@[simp] theorem State.stage_inbox (effs : List Effect) (o : Option Nat) : (s.stage effs o).inbox = s.inbox := rfl
@[simp] theorem State.stage_outbox (effs : List Effect) (o : Option Nat) : (s.stage effs o).outbox = s.outbox := rfl
@[simp] theorem State.stage_dbg (effs : List Effect) (o : Option Nat) : (s.stage effs o).dbg = s.dbg := rfl
@[simp] theorem State.stage_pwr (effs : List Effect) (o : Option Nat) : (s.stage effs o).pwr = s.pwr := rfl
@[simp] theorem State.stage_ats (effs : List Effect) (o : Option Nat) : (s.stage effs o).ats = s.ats := rfl

/-! ### updMbx -/

@[simp] theorem State.updMbx_mbx (m : Fin 64) (f : Mailbox → Mailbox) : (s.updMbx m f).mbx = s.mbx.set m (f s.mbx[m]) := rfl
@[simp] theorem State.updMbx_pending (m : Fin 64) (f : Mailbox → Mailbox) : (s.updMbx m f).pending = s.pending := rfl
@[simp] theorem State.updMbx_timeUs (m : Fin 64) (f : Mailbox → Mailbox) : (s.updMbx m f).timeUs = s.timeUs := rfl
@[simp] theorem State.updMbx_freeCtr (m : Fin 64) (f : Mailbox → Mailbox) : (s.updMbx m f).freeCtr = s.freeCtr := rfl
@[simp] theorem State.updMbx_glb (m : Fin 64) (f : Mailbox → Mailbox) : (s.updMbx m f).glb = s.glb := rfl
@[simp] theorem State.updMbx_tk (m : Fin 64) (f : Mailbox → Mailbox) : (s.updMbx m f).tk = s.tk := rfl
@[simp] theorem State.updMbx_dci (m : Fin 64) (f : Mailbox → Mailbox) : (s.updMbx m f).dci = s.dci := rfl
@[simp] theorem State.updMbx_host0 (m : Fin 64) (f : Mailbox → Mailbox) : (s.updMbx m f).host0 = s.host0 := rfl
@[simp] theorem State.updMbx_host1 (m : Fin 64) (f : Mailbox → Mailbox) : (s.updMbx m f).host1 = s.host1 := rfl
@[simp] theorem State.updMbx_cxl0 (m : Fin 64) (f : Mailbox → Mailbox) : (s.updMbx m f).cxl0 = s.cxl0 := rfl
@[simp] theorem State.updMbx_cxl1 (m : Fin 64) (f : Mailbox → Mailbox) : (s.updMbx m f).cxl1 = s.cxl1 := rfl
@[simp] theorem State.updMbx_dev (m : Fin 64) (f : Mailbox → Mailbox) : (s.updMbx m f).dev = s.dev := rfl
@[simp] theorem State.updMbx_cmds (m : Fin 64) (f : Mailbox → Mailbox) : (s.updMbx m f).cmds = s.cmds := rfl
@[simp] theorem State.updMbx_nextCmd (m : Fin 64) (f : Mailbox → Mailbox) : (s.updMbx m f).nextCmd = s.nextCmd := rfl
@[simp] theorem State.updMbx_served (m : Fin 64) (f : Mailbox → Mailbox) : (s.updMbx m f).served = s.served := rfl
@[simp] theorem State.updMbx_work (m : Fin 64) (f : Mailbox → Mailbox) : (s.updMbx m f).work = s.work := rfl
@[simp] theorem State.updMbx_img (m : Fin 64) (f : Mailbox → Mailbox) : (s.updMbx m f).img = s.img := rfl
@[simp] theorem State.updMbx_ss (m : Fin 64) (f : Mailbox → Mailbox) : (s.updMbx m f).ss = s.ss := rfl
@[simp] theorem State.updMbx_kv (m : Fin 64) (f : Mailbox → Mailbox) : (s.updMbx m f).kv = s.kv := rfl
@[simp] theorem State.updMbx_ten (m : Fin 64) (f : Mailbox → Mailbox) : (s.updMbx m f).ten = s.ten := rfl
@[simp] theorem State.updMbx_st (m : Fin 64) (f : Mailbox → Mailbox) : (s.updMbx m f).st = s.st := rfl
@[simp] theorem State.updMbx_chkpt (m : Fin 64) (f : Mailbox → Mailbox) : (s.updMbx m f).chkpt = s.chkpt := rfl
@[simp] theorem State.updMbx_restore (m : Fin 64) (f : Mailbox → Mailbox) : (s.updMbx m f).restore = s.restore := rfl
@[simp] theorem State.updMbx_sec (m : Fin 64) (f : Mailbox → Mailbox) : (s.updMbx m f).sec = s.sec := rfl
@[simp] theorem State.updMbx_grp (m : Fin 64) (f : Mailbox → Mailbox) : (s.updMbx m f).grp = s.grp := rfl
@[simp] theorem State.updMbx_ports (m : Fin 64) (f : Mailbox → Mailbox) : (s.updMbx m f).ports = s.ports := rfl
@[simp] theorem State.updMbx_inbox (m : Fin 64) (f : Mailbox → Mailbox) : (s.updMbx m f).inbox = s.inbox := rfl
@[simp] theorem State.updMbx_outbox (m : Fin 64) (f : Mailbox → Mailbox) : (s.updMbx m f).outbox = s.outbox := rfl
@[simp] theorem State.updMbx_dbg (m : Fin 64) (f : Mailbox → Mailbox) : (s.updMbx m f).dbg = s.dbg := rfl
@[simp] theorem State.updMbx_pwr (m : Fin 64) (f : Mailbox → Mailbox) : (s.updMbx m f).pwr = s.pwr := rfl
@[simp] theorem State.updMbx_ats (m : Fin 64) (f : Mailbox → Mailbox) : (s.updMbx m f).ats = s.ats := rfl

/-! ### updPort -/

@[simp] theorem State.updPort_ports (p : Fin 20) (f : Port → Port) : (s.updPort p f).ports = s.ports.set p (f s.ports[p]) := rfl
@[simp] theorem State.updPort_pending (p : Fin 20) (f : Port → Port) : (s.updPort p f).pending = s.pending := rfl
@[simp] theorem State.updPort_timeUs (p : Fin 20) (f : Port → Port) : (s.updPort p f).timeUs = s.timeUs := rfl
@[simp] theorem State.updPort_freeCtr (p : Fin 20) (f : Port → Port) : (s.updPort p f).freeCtr = s.freeCtr := rfl
@[simp] theorem State.updPort_glb (p : Fin 20) (f : Port → Port) : (s.updPort p f).glb = s.glb := rfl
@[simp] theorem State.updPort_tk (p : Fin 20) (f : Port → Port) : (s.updPort p f).tk = s.tk := rfl
@[simp] theorem State.updPort_mbx (p : Fin 20) (f : Port → Port) : (s.updPort p f).mbx = s.mbx := rfl
@[simp] theorem State.updPort_dci (p : Fin 20) (f : Port → Port) : (s.updPort p f).dci = s.dci := rfl
@[simp] theorem State.updPort_host0 (p : Fin 20) (f : Port → Port) : (s.updPort p f).host0 = s.host0 := rfl
@[simp] theorem State.updPort_host1 (p : Fin 20) (f : Port → Port) : (s.updPort p f).host1 = s.host1 := rfl
@[simp] theorem State.updPort_cxl0 (p : Fin 20) (f : Port → Port) : (s.updPort p f).cxl0 = s.cxl0 := rfl
@[simp] theorem State.updPort_cxl1 (p : Fin 20) (f : Port → Port) : (s.updPort p f).cxl1 = s.cxl1 := rfl
@[simp] theorem State.updPort_dev (p : Fin 20) (f : Port → Port) : (s.updPort p f).dev = s.dev := rfl
@[simp] theorem State.updPort_cmds (p : Fin 20) (f : Port → Port) : (s.updPort p f).cmds = s.cmds := rfl
@[simp] theorem State.updPort_nextCmd (p : Fin 20) (f : Port → Port) : (s.updPort p f).nextCmd = s.nextCmd := rfl
@[simp] theorem State.updPort_served (p : Fin 20) (f : Port → Port) : (s.updPort p f).served = s.served := rfl
@[simp] theorem State.updPort_work (p : Fin 20) (f : Port → Port) : (s.updPort p f).work = s.work := rfl
@[simp] theorem State.updPort_img (p : Fin 20) (f : Port → Port) : (s.updPort p f).img = s.img := rfl
@[simp] theorem State.updPort_ss (p : Fin 20) (f : Port → Port) : (s.updPort p f).ss = s.ss := rfl
@[simp] theorem State.updPort_kv (p : Fin 20) (f : Port → Port) : (s.updPort p f).kv = s.kv := rfl
@[simp] theorem State.updPort_ten (p : Fin 20) (f : Port → Port) : (s.updPort p f).ten = s.ten := rfl
@[simp] theorem State.updPort_st (p : Fin 20) (f : Port → Port) : (s.updPort p f).st = s.st := rfl
@[simp] theorem State.updPort_chkpt (p : Fin 20) (f : Port → Port) : (s.updPort p f).chkpt = s.chkpt := rfl
@[simp] theorem State.updPort_restore (p : Fin 20) (f : Port → Port) : (s.updPort p f).restore = s.restore := rfl
@[simp] theorem State.updPort_sec (p : Fin 20) (f : Port → Port) : (s.updPort p f).sec = s.sec := rfl
@[simp] theorem State.updPort_grp (p : Fin 20) (f : Port → Port) : (s.updPort p f).grp = s.grp := rfl
@[simp] theorem State.updPort_inbox (p : Fin 20) (f : Port → Port) : (s.updPort p f).inbox = s.inbox := rfl
@[simp] theorem State.updPort_outbox (p : Fin 20) (f : Port → Port) : (s.updPort p f).outbox = s.outbox := rfl
@[simp] theorem State.updPort_dbg (p : Fin 20) (f : Port → Port) : (s.updPort p f).dbg = s.dbg := rfl
@[simp] theorem State.updPort_pwr (p : Fin 20) (f : Port → Port) : (s.updPort p f).pwr = s.pwr := rfl
@[simp] theorem State.updPort_ats (p : Fin 20) (f : Port → Port) : (s.updPort p f).ats = s.ats := rfl

/-! ### updSess -/

@[simp] theorem State.updSess_sessions (j : Nat) (f : Session → Session) : (s.updSess j f).ss.sessions = Tb.upd s.ss.sessions j f := rfl
@[simp] theorem State.updSess_reqs (j : Nat) (f : Session → Session) : (s.updSess j f).ss.reqs = s.ss.reqs := rfl
@[simp] theorem State.updSess_pending (j : Nat) (f : Session → Session) : (s.updSess j f).pending = s.pending := rfl
@[simp] theorem State.updSess_timeUs (j : Nat) (f : Session → Session) : (s.updSess j f).timeUs = s.timeUs := rfl
@[simp] theorem State.updSess_freeCtr (j : Nat) (f : Session → Session) : (s.updSess j f).freeCtr = s.freeCtr := rfl
@[simp] theorem State.updSess_glb (j : Nat) (f : Session → Session) : (s.updSess j f).glb = s.glb := rfl
@[simp] theorem State.updSess_tk (j : Nat) (f : Session → Session) : (s.updSess j f).tk = s.tk := rfl
@[simp] theorem State.updSess_mbx (j : Nat) (f : Session → Session) : (s.updSess j f).mbx = s.mbx := rfl
@[simp] theorem State.updSess_dci (j : Nat) (f : Session → Session) : (s.updSess j f).dci = s.dci := rfl
@[simp] theorem State.updSess_host0 (j : Nat) (f : Session → Session) : (s.updSess j f).host0 = s.host0 := rfl
@[simp] theorem State.updSess_host1 (j : Nat) (f : Session → Session) : (s.updSess j f).host1 = s.host1 := rfl
@[simp] theorem State.updSess_cxl0 (j : Nat) (f : Session → Session) : (s.updSess j f).cxl0 = s.cxl0 := rfl
@[simp] theorem State.updSess_cxl1 (j : Nat) (f : Session → Session) : (s.updSess j f).cxl1 = s.cxl1 := rfl
@[simp] theorem State.updSess_dev (j : Nat) (f : Session → Session) : (s.updSess j f).dev = s.dev := rfl
@[simp] theorem State.updSess_cmds (j : Nat) (f : Session → Session) : (s.updSess j f).cmds = s.cmds := rfl
@[simp] theorem State.updSess_nextCmd (j : Nat) (f : Session → Session) : (s.updSess j f).nextCmd = s.nextCmd := rfl
@[simp] theorem State.updSess_served (j : Nat) (f : Session → Session) : (s.updSess j f).served = s.served := rfl
@[simp] theorem State.updSess_work (j : Nat) (f : Session → Session) : (s.updSess j f).work = s.work := rfl
@[simp] theorem State.updSess_img (j : Nat) (f : Session → Session) : (s.updSess j f).img = s.img := rfl
@[simp] theorem State.updSess_kv (j : Nat) (f : Session → Session) : (s.updSess j f).kv = s.kv := rfl
@[simp] theorem State.updSess_ten (j : Nat) (f : Session → Session) : (s.updSess j f).ten = s.ten := rfl
@[simp] theorem State.updSess_st (j : Nat) (f : Session → Session) : (s.updSess j f).st = s.st := rfl
@[simp] theorem State.updSess_chkpt (j : Nat) (f : Session → Session) : (s.updSess j f).chkpt = s.chkpt := rfl
@[simp] theorem State.updSess_restore (j : Nat) (f : Session → Session) : (s.updSess j f).restore = s.restore := rfl
@[simp] theorem State.updSess_sec (j : Nat) (f : Session → Session) : (s.updSess j f).sec = s.sec := rfl
@[simp] theorem State.updSess_grp (j : Nat) (f : Session → Session) : (s.updSess j f).grp = s.grp := rfl
@[simp] theorem State.updSess_ports (j : Nat) (f : Session → Session) : (s.updSess j f).ports = s.ports := rfl
@[simp] theorem State.updSess_inbox (j : Nat) (f : Session → Session) : (s.updSess j f).inbox = s.inbox := rfl
@[simp] theorem State.updSess_outbox (j : Nat) (f : Session → Session) : (s.updSess j f).outbox = s.outbox := rfl
@[simp] theorem State.updSess_dbg (j : Nat) (f : Session → Session) : (s.updSess j f).dbg = s.dbg := rfl
@[simp] theorem State.updSess_pwr (j : Nat) (f : Session → Session) : (s.updSess j f).pwr = s.pwr := rfl
@[simp] theorem State.updSess_ats (j : Nat) (f : Session → Session) : (s.updSess j f).ats = s.ats := rfl

/-! ### updReq -/

@[simp] theorem State.updReq_reqs (r : Nat) (f : Req → Req) : (s.updReq r f).ss.reqs = Tb.upd s.ss.reqs r f := rfl
@[simp] theorem State.updReq_sessions (r : Nat) (f : Req → Req) : (s.updReq r f).ss.sessions = s.ss.sessions := rfl
@[simp] theorem State.updReq_pending (r : Nat) (f : Req → Req) : (s.updReq r f).pending = s.pending := rfl
@[simp] theorem State.updReq_timeUs (r : Nat) (f : Req → Req) : (s.updReq r f).timeUs = s.timeUs := rfl
@[simp] theorem State.updReq_freeCtr (r : Nat) (f : Req → Req) : (s.updReq r f).freeCtr = s.freeCtr := rfl
@[simp] theorem State.updReq_glb (r : Nat) (f : Req → Req) : (s.updReq r f).glb = s.glb := rfl
@[simp] theorem State.updReq_tk (r : Nat) (f : Req → Req) : (s.updReq r f).tk = s.tk := rfl
@[simp] theorem State.updReq_mbx (r : Nat) (f : Req → Req) : (s.updReq r f).mbx = s.mbx := rfl
@[simp] theorem State.updReq_dci (r : Nat) (f : Req → Req) : (s.updReq r f).dci = s.dci := rfl
@[simp] theorem State.updReq_host0 (r : Nat) (f : Req → Req) : (s.updReq r f).host0 = s.host0 := rfl
@[simp] theorem State.updReq_host1 (r : Nat) (f : Req → Req) : (s.updReq r f).host1 = s.host1 := rfl
@[simp] theorem State.updReq_cxl0 (r : Nat) (f : Req → Req) : (s.updReq r f).cxl0 = s.cxl0 := rfl
@[simp] theorem State.updReq_cxl1 (r : Nat) (f : Req → Req) : (s.updReq r f).cxl1 = s.cxl1 := rfl
@[simp] theorem State.updReq_dev (r : Nat) (f : Req → Req) : (s.updReq r f).dev = s.dev := rfl
@[simp] theorem State.updReq_cmds (r : Nat) (f : Req → Req) : (s.updReq r f).cmds = s.cmds := rfl
@[simp] theorem State.updReq_nextCmd (r : Nat) (f : Req → Req) : (s.updReq r f).nextCmd = s.nextCmd := rfl
@[simp] theorem State.updReq_served (r : Nat) (f : Req → Req) : (s.updReq r f).served = s.served := rfl
@[simp] theorem State.updReq_work (r : Nat) (f : Req → Req) : (s.updReq r f).work = s.work := rfl
@[simp] theorem State.updReq_img (r : Nat) (f : Req → Req) : (s.updReq r f).img = s.img := rfl
@[simp] theorem State.updReq_kv (r : Nat) (f : Req → Req) : (s.updReq r f).kv = s.kv := rfl
@[simp] theorem State.updReq_ten (r : Nat) (f : Req → Req) : (s.updReq r f).ten = s.ten := rfl
@[simp] theorem State.updReq_st (r : Nat) (f : Req → Req) : (s.updReq r f).st = s.st := rfl
@[simp] theorem State.updReq_chkpt (r : Nat) (f : Req → Req) : (s.updReq r f).chkpt = s.chkpt := rfl
@[simp] theorem State.updReq_restore (r : Nat) (f : Req → Req) : (s.updReq r f).restore = s.restore := rfl
@[simp] theorem State.updReq_sec (r : Nat) (f : Req → Req) : (s.updReq r f).sec = s.sec := rfl
@[simp] theorem State.updReq_grp (r : Nat) (f : Req → Req) : (s.updReq r f).grp = s.grp := rfl
@[simp] theorem State.updReq_ports (r : Nat) (f : Req → Req) : (s.updReq r f).ports = s.ports := rfl
@[simp] theorem State.updReq_inbox (r : Nat) (f : Req → Req) : (s.updReq r f).inbox = s.inbox := rfl
@[simp] theorem State.updReq_outbox (r : Nat) (f : Req → Req) : (s.updReq r f).outbox = s.outbox := rfl
@[simp] theorem State.updReq_dbg (r : Nat) (f : Req → Req) : (s.updReq r f).dbg = s.dbg := rfl
@[simp] theorem State.updReq_pwr (r : Nat) (f : Req → Req) : (s.updReq r f).pwr = s.pwr := rfl
@[simp] theorem State.updReq_ats (r : Nat) (f : Req → Req) : (s.updReq r f).ats = s.ats := rfl

/-! ### atTime -/

@[simp] theorem State.atTime_timeUs (t : Nat) : (s.atTime t).timeUs = Nat.max s.timeUs t := rfl
@[simp] theorem State.atTime_pending (t : Nat) : (s.atTime t).pending = s.pending := rfl
@[simp] theorem State.atTime_freeCtr (t : Nat) : (s.atTime t).freeCtr = s.freeCtr := rfl
@[simp] theorem State.atTime_glb (t : Nat) : (s.atTime t).glb = s.glb := rfl
@[simp] theorem State.atTime_tk (t : Nat) : (s.atTime t).tk = s.tk := rfl
@[simp] theorem State.atTime_mbx (t : Nat) : (s.atTime t).mbx = s.mbx := rfl
@[simp] theorem State.atTime_dci (t : Nat) : (s.atTime t).dci = s.dci := rfl
@[simp] theorem State.atTime_host0 (t : Nat) : (s.atTime t).host0 = s.host0 := rfl
@[simp] theorem State.atTime_host1 (t : Nat) : (s.atTime t).host1 = s.host1 := rfl
@[simp] theorem State.atTime_cxl0 (t : Nat) : (s.atTime t).cxl0 = s.cxl0 := rfl
@[simp] theorem State.atTime_cxl1 (t : Nat) : (s.atTime t).cxl1 = s.cxl1 := rfl
@[simp] theorem State.atTime_dev (t : Nat) : (s.atTime t).dev = s.dev := rfl
@[simp] theorem State.atTime_cmds (t : Nat) : (s.atTime t).cmds = s.cmds := rfl
@[simp] theorem State.atTime_nextCmd (t : Nat) : (s.atTime t).nextCmd = s.nextCmd := rfl
@[simp] theorem State.atTime_served (t : Nat) : (s.atTime t).served = s.served := rfl
@[simp] theorem State.atTime_work (t : Nat) : (s.atTime t).work = s.work := rfl
@[simp] theorem State.atTime_img (t : Nat) : (s.atTime t).img = s.img := rfl
@[simp] theorem State.atTime_ss (t : Nat) : (s.atTime t).ss = s.ss := rfl
@[simp] theorem State.atTime_kv (t : Nat) : (s.atTime t).kv = s.kv := rfl
@[simp] theorem State.atTime_ten (t : Nat) : (s.atTime t).ten = s.ten := rfl
@[simp] theorem State.atTime_st (t : Nat) : (s.atTime t).st = s.st := rfl
@[simp] theorem State.atTime_chkpt (t : Nat) : (s.atTime t).chkpt = s.chkpt := rfl
@[simp] theorem State.atTime_restore (t : Nat) : (s.atTime t).restore = s.restore := rfl
@[simp] theorem State.atTime_sec (t : Nat) : (s.atTime t).sec = s.sec := rfl
@[simp] theorem State.atTime_grp (t : Nat) : (s.atTime t).grp = s.grp := rfl
@[simp] theorem State.atTime_ports (t : Nat) : (s.atTime t).ports = s.ports := rfl
@[simp] theorem State.atTime_inbox (t : Nat) : (s.atTime t).inbox = s.inbox := rfl
@[simp] theorem State.atTime_outbox (t : Nat) : (s.atTime t).outbox = s.outbox := rfl
@[simp] theorem State.atTime_dbg (t : Nat) : (s.atTime t).dbg = s.dbg := rfl
@[simp] theorem State.atTime_pwr (t : Nat) : (s.atTime t).pwr = s.pwr := rfl
@[simp] theorem State.atTime_ats (t : Nat) : (s.atTime t).ats = s.ats := rfl

/-! ### setSticky -/

@[simp] theorem State.setSticky_sticky (k : Nat) : (s.setSticky k).sec.sticky = s.sec.sticky ||| BitVec.ofNat 5 (2 ^ k) := rfl
@[simp] theorem State.setSticky_pending (k : Nat) : (s.setSticky k).pending = s.pending := rfl
@[simp] theorem State.setSticky_timeUs (k : Nat) : (s.setSticky k).timeUs = s.timeUs := rfl
@[simp] theorem State.setSticky_freeCtr (k : Nat) : (s.setSticky k).freeCtr = s.freeCtr := rfl
@[simp] theorem State.setSticky_glb (k : Nat) : (s.setSticky k).glb = s.glb := rfl
@[simp] theorem State.setSticky_tk (k : Nat) : (s.setSticky k).tk = s.tk := rfl
@[simp] theorem State.setSticky_mbx (k : Nat) : (s.setSticky k).mbx = s.mbx := rfl
@[simp] theorem State.setSticky_dci (k : Nat) : (s.setSticky k).dci = s.dci := rfl
@[simp] theorem State.setSticky_host0 (k : Nat) : (s.setSticky k).host0 = s.host0 := rfl
@[simp] theorem State.setSticky_host1 (k : Nat) : (s.setSticky k).host1 = s.host1 := rfl
@[simp] theorem State.setSticky_cxl0 (k : Nat) : (s.setSticky k).cxl0 = s.cxl0 := rfl
@[simp] theorem State.setSticky_cxl1 (k : Nat) : (s.setSticky k).cxl1 = s.cxl1 := rfl
@[simp] theorem State.setSticky_dev (k : Nat) : (s.setSticky k).dev = s.dev := rfl
@[simp] theorem State.setSticky_cmds (k : Nat) : (s.setSticky k).cmds = s.cmds := rfl
@[simp] theorem State.setSticky_nextCmd (k : Nat) : (s.setSticky k).nextCmd = s.nextCmd := rfl
@[simp] theorem State.setSticky_served (k : Nat) : (s.setSticky k).served = s.served := rfl
@[simp] theorem State.setSticky_work (k : Nat) : (s.setSticky k).work = s.work := rfl
@[simp] theorem State.setSticky_img (k : Nat) : (s.setSticky k).img = s.img := rfl
@[simp] theorem State.setSticky_ss (k : Nat) : (s.setSticky k).ss = s.ss := rfl
@[simp] theorem State.setSticky_kv (k : Nat) : (s.setSticky k).kv = s.kv := rfl
@[simp] theorem State.setSticky_ten (k : Nat) : (s.setSticky k).ten = s.ten := rfl
@[simp] theorem State.setSticky_st (k : Nat) : (s.setSticky k).st = s.st := rfl
@[simp] theorem State.setSticky_chkpt (k : Nat) : (s.setSticky k).chkpt = s.chkpt := rfl
@[simp] theorem State.setSticky_restore (k : Nat) : (s.setSticky k).restore = s.restore := rfl
@[simp] theorem State.setSticky_grp (k : Nat) : (s.setSticky k).grp = s.grp := rfl
@[simp] theorem State.setSticky_ports (k : Nat) : (s.setSticky k).ports = s.ports := rfl
@[simp] theorem State.setSticky_inbox (k : Nat) : (s.setSticky k).inbox = s.inbox := rfl
@[simp] theorem State.setSticky_outbox (k : Nat) : (s.setSticky k).outbox = s.outbox := rfl
@[simp] theorem State.setSticky_dbg (k : Nat) : (s.setSticky k).dbg = s.dbg := rfl
@[simp] theorem State.setSticky_pwr (k : Nat) : (s.setSticky k).pwr = s.pwr := rfl
@[simp] theorem State.setSticky_ats (k : Nat) : (s.setSticky k).ats = s.ats := rfl

/-! ### drawFree -/

@[simp] theorem State.drawFree_freeCtr : (s.drawFree).2.freeCtr = s.freeCtr + 1 := rfl
@[simp] theorem State.drawFree_pending : (s.drawFree).2.pending = s.pending := rfl
@[simp] theorem State.drawFree_timeUs : (s.drawFree).2.timeUs = s.timeUs := rfl
@[simp] theorem State.drawFree_glb : (s.drawFree).2.glb = s.glb := rfl
@[simp] theorem State.drawFree_tk : (s.drawFree).2.tk = s.tk := rfl
@[simp] theorem State.drawFree_mbx : (s.drawFree).2.mbx = s.mbx := rfl
@[simp] theorem State.drawFree_dci : (s.drawFree).2.dci = s.dci := rfl
@[simp] theorem State.drawFree_host0 : (s.drawFree).2.host0 = s.host0 := rfl
@[simp] theorem State.drawFree_host1 : (s.drawFree).2.host1 = s.host1 := rfl
@[simp] theorem State.drawFree_cxl0 : (s.drawFree).2.cxl0 = s.cxl0 := rfl
@[simp] theorem State.drawFree_cxl1 : (s.drawFree).2.cxl1 = s.cxl1 := rfl
@[simp] theorem State.drawFree_dev : (s.drawFree).2.dev = s.dev := rfl
@[simp] theorem State.drawFree_cmds : (s.drawFree).2.cmds = s.cmds := rfl
@[simp] theorem State.drawFree_nextCmd : (s.drawFree).2.nextCmd = s.nextCmd := rfl
@[simp] theorem State.drawFree_served : (s.drawFree).2.served = s.served := rfl
@[simp] theorem State.drawFree_work : (s.drawFree).2.work = s.work := rfl
@[simp] theorem State.drawFree_img : (s.drawFree).2.img = s.img := rfl
@[simp] theorem State.drawFree_ss : (s.drawFree).2.ss = s.ss := rfl
@[simp] theorem State.drawFree_kv : (s.drawFree).2.kv = s.kv := rfl
@[simp] theorem State.drawFree_ten : (s.drawFree).2.ten = s.ten := rfl
@[simp] theorem State.drawFree_st : (s.drawFree).2.st = s.st := rfl
@[simp] theorem State.drawFree_chkpt : (s.drawFree).2.chkpt = s.chkpt := rfl
@[simp] theorem State.drawFree_restore : (s.drawFree).2.restore = s.restore := rfl
@[simp] theorem State.drawFree_sec : (s.drawFree).2.sec = s.sec := rfl
@[simp] theorem State.drawFree_grp : (s.drawFree).2.grp = s.grp := rfl
@[simp] theorem State.drawFree_ports : (s.drawFree).2.ports = s.ports := rfl
@[simp] theorem State.drawFree_inbox : (s.drawFree).2.inbox = s.inbox := rfl
@[simp] theorem State.drawFree_outbox : (s.drawFree).2.outbox = s.outbox := rfl
@[simp] theorem State.drawFree_dbg : (s.drawFree).2.dbg = s.dbg := rfl
@[simp] theorem State.drawFree_pwr : (s.drawFree).2.pwr = s.pwr := rfl
@[simp] theorem State.drawFree_ats : (s.drawFree).2.ats = s.ats := rfl

/-! ### The wait for a page is over -/

@[simp] theorem State.waitOver_waits (w : Nat) : (s.waitOver w).ats.waits = Tb.del s.ats.waits w := rfl
@[simp] theorem State.waitOver_pending (w : Nat) : (s.waitOver w).pending = s.pending := rfl
@[simp] theorem State.waitOver_timeUs (w : Nat) : (s.waitOver w).timeUs = s.timeUs := rfl
@[simp] theorem State.waitOver_freeCtr (w : Nat) : (s.waitOver w).freeCtr = s.freeCtr := rfl
@[simp] theorem State.waitOver_glb (w : Nat) : (s.waitOver w).glb = s.glb := rfl
@[simp] theorem State.waitOver_tk (w : Nat) : (s.waitOver w).tk = s.tk := rfl
@[simp] theorem State.waitOver_mbx (w : Nat) : (s.waitOver w).mbx = s.mbx := rfl
@[simp] theorem State.waitOver_dci (w : Nat) : (s.waitOver w).dci = s.dci := rfl
@[simp] theorem State.waitOver_host0 (w : Nat) : (s.waitOver w).host0 = s.host0 := rfl
@[simp] theorem State.waitOver_host1 (w : Nat) : (s.waitOver w).host1 = s.host1 := rfl
@[simp] theorem State.waitOver_cxl0 (w : Nat) : (s.waitOver w).cxl0 = s.cxl0 := rfl
@[simp] theorem State.waitOver_cxl1 (w : Nat) : (s.waitOver w).cxl1 = s.cxl1 := rfl
@[simp] theorem State.waitOver_dev (w : Nat) : (s.waitOver w).dev = s.dev := rfl
@[simp] theorem State.waitOver_cmds (w : Nat) : (s.waitOver w).cmds = s.cmds := rfl
@[simp] theorem State.waitOver_nextCmd (w : Nat) : (s.waitOver w).nextCmd = s.nextCmd := rfl
@[simp] theorem State.waitOver_served (w : Nat) : (s.waitOver w).served = s.served := rfl
@[simp] theorem State.waitOver_work (w : Nat) : (s.waitOver w).work = s.work := rfl
@[simp] theorem State.waitOver_img (w : Nat) : (s.waitOver w).img = s.img := rfl
@[simp] theorem State.waitOver_ss (w : Nat) : (s.waitOver w).ss = s.ss := rfl
@[simp] theorem State.waitOver_kv (w : Nat) : (s.waitOver w).kv = s.kv := rfl
@[simp] theorem State.waitOver_ten (w : Nat) : (s.waitOver w).ten = s.ten := rfl
@[simp] theorem State.waitOver_st (w : Nat) : (s.waitOver w).st = s.st := rfl
@[simp] theorem State.waitOver_chkpt (w : Nat) : (s.waitOver w).chkpt = s.chkpt := rfl
@[simp] theorem State.waitOver_restore (w : Nat) : (s.waitOver w).restore = s.restore := rfl
@[simp] theorem State.waitOver_sec (w : Nat) : (s.waitOver w).sec = s.sec := rfl
@[simp] theorem State.waitOver_grp (w : Nat) : (s.waitOver w).grp = s.grp := rfl
@[simp] theorem State.waitOver_ports (w : Nat) : (s.waitOver w).ports = s.ports := rfl
@[simp] theorem State.waitOver_inbox (w : Nat) : (s.waitOver w).inbox = s.inbox := rfl
@[simp] theorem State.waitOver_outbox (w : Nat) : (s.waitOver w).outbox = s.outbox := rfl
@[simp] theorem State.waitOver_dbg (w : Nat) : (s.waitOver w).dbg = s.dbg := rfl
@[simp] theorem State.waitOver_pwr (w : Nat) : (s.waitOver w).pwr = s.pwr := rfl

end Sys2Proof.Machine
end

