-- ==== Sys2Proof/Laws/Width.lean ====
section
/-! SUPPORT. What a width change leaves of the device's place and its group (R296). -/
namespace Sys2Proof.Machine

/-- The device's place and its group as they were, but for moves and shards still to come. -/
def Placed (s t : State) : Prop := t.glb = s.glb ∧ t.tk = s.tk ∧
  ∃ mv rs, t.grp = { s.grp with moves := mv, reshards := rs }

theorem Placed.refl (s : State) : Placed s s := ⟨rfl, rfl, _, _, rfl⟩
theorem Placed.trans {a b c : State} (h : Placed a b) (k : Placed b c) : Placed a c := by
  obtain ⟨h1, h2, _, _, h3⟩ := h
  obtain ⟨k1, k2, mv, rs, k3⟩ := k
  exact ⟨k1.trans h1, k2.trans h2, mv, rs, by rw [k3, h3]⟩
theorem Placed.fold {α : Type} (f : State → α → State) (hf : ∀ s a, Placed s (f s a)) (l : List α) (s : State) : Placed s (l.foldl f s) :=
  foldl_holds (Placed s) f (fun t a h => h.trans (hf t a)) l s (Placed.refl s)
theorem Placed.of {s t : State} (h : t.glb = s.glb) (h2 : t.tk = s.tk) (h3 : t.grp = s.grp) : Placed s t := ⟨h, h2, _, _, h3⟩

theorem State.addUnit_placed (s : State) (k : UnitKind) (a b : Option Nat) (c d : Nat) (g : Bool) : Placed s (s.addUnit k a b c d g) := Placed.of rfl rfl rfl
theorem State.updPage_placed (s : State) (p : Nat) (f : Page → Page) : Placed s (s.updPage p f) := Placed.of rfl rfl rfl
theorem State.updSess_placed (s : State) (p : Nat) (f : Session → Session) : Placed s (s.updSess p f) := Placed.of rfl rfl rfl
theorem State.stage_placed (s : State) (e : List Effect) (o : Option Nat) : Placed s (s.stage e o) := Placed.of rfl rfl rfl

theorem State.unrefPage_placed (s : State) (p : Nat) : Placed s (s.unrefPage p) := by
  unfold State.unrefPage
  repeat' (first | split | exact Placed.of rfl rfl rfl | dsimp only)

theorem State.releaseKv_placed (s : State) (i : Nat) : Placed s (s.releaseKv i) := by
  unfold State.releaseKv
  split
  · exact Placed.refl s
  · exact (Placed.fold _ (fun s e => State.unrefPage_placed s _) _ s).trans (State.updSess_placed _ _ _)

theorem State.deleteNode_placed (s : State) (t i : Nat) : Placed s (s.deleteNode t i) := by
  unfold State.deleteNode
  repeat' (first | split | exact Placed.of rfl rfl rfl | dsimp only)
  all_goals exact (Placed.fold _ (fun s e => State.unrefPage_placed s _) _ s).trans (Placed.of rfl rfl rfl)

theorem State.purgeNodes_placed (s : State) (t i : Nat) : Placed s (s.purgeNodes t i).2 :=
  (Placed.fold _ (fun s n => State.deleteNode_placed s t _) _ s).trans (Placed.fold _ (fun s p => State.updPage_placed s p _) _ _)

theorem State.dropTrees_placed (s : State) : Placed s s.dropTrees := by
  unfold State.dropTrees
  refine Placed.fold _ (fun s n => ?_) _ s
  dsimp only
  have h := State.purgeNodes_placed s n.key.tenant n.id
  split
  · exact h
  · exact h.trans (Placed.of rfl rfl rfl)

theorem State.reshardStores_placed (s : State) (surv : Word64) (n : Nat) : Placed s (s.reshardStores surv n) := by
  unfold State.reshardStores
  refine Placed.fold _ (fun s e => ?_) _ s
  dsimp only
  split
  · exact Placed.of rfl rfl rfl
  · exact (Placed.of rfl rfl rfl : Placed s (s.updStore _ _)).trans (Placed.fold _ (fun s q => State.stage_placed s _ _) _ _)

theorem State.planMove_placed (s : State) (n : Nat) (lost : List Nat) (ids : List (Nat × Nat)) (new : Nat → Option Nat)
    (parts : List Nat) (plan : List Nat × List Nat) (idx : Nat) (x : Session) : Placed s (s.planMove n lost ids new parts plan idx x) := by
  unfold State.planMove
  extract_lets old buddy gone src m z y y2 w
  split
  · have hz : Placed s z := by
      unfold z
      split
      · exact State.stage_placed s _ _
      · exact Placed.refl s
    have hw : Placed s w := (hz.trans (State.releaseKv_placed z idx)).trans ⟨rfl, rfl, _, _, rfl⟩
    split
    · exact hw.trans (Placed.of rfl rfl rfl)
    · exact hw.trans (State.updSess_placed _ _ _)
  · exact ⟨rfl, rfl, _, _, rfl⟩

theorem State.planReshard_placed (s : State) (surv : Word64) (n n0 : Nat) : Placed s (s.planReshard surv n n0) := by
  unfold State.planReshard
  dsimp only
  refine Placed.trans (a := s) (Placed.of rfl rfl rfl) (Placed.fold _ (fun s e => ?_) _ _)
  have h : ∀ (out : List Effect) (t : State), Placed t (if out.isEmpty then t else t.stage out) := fun out t => by
    split
    · exact Placed.refl t
    · exact State.stage_placed t _ _
  have h0 : ∀ ms, Placed s { s with img.models := ms } := fun _ => Placed.of rfl rfl rfl
  split
  · exact (h0 _).trans (h _ _)
  · refine ((h0 _).trans (h _ _)).trans (Placed.trans ⟨rfl, rfl, _, _, rfl⟩ (Placed.fold _ (fun s q => State.addUnit_placed s _ _ _ _ _ _) _ _))

theorem State.freeModel_placed (s : State) (k : Nat) : Placed s (s.freeModel k) := by
  unfold State.freeModel
  split
  · exact Placed.refl s
  · dsimp only
    split <;> exact Placed.of rfl rfl rfl

theorem State.fitModels_placed (fuel : Nat) : ∀ s : State, Placed s (s.fitModels fuel) := by
  induction fuel with
  | zero => exact fun s => Placed.refl s
  | succ f ih =>
    intro s
    unfold State.fitModels
    split
    · exact Placed.refl s
    · dsimp only
      split
      · exact Placed.refl s
      · refine Placed.trans ?_ (ih _)
        exact ((Placed.fold _ (fun s q => State.stage_placed s _ _) _ s).trans (State.freeModel_placed _ _)).trans ⟨rfl, rfl, _, _, rfl⟩

/-- The device's place and its group, but for what a member keeps of messages. -/
def Quiet (s t : State) : Prop := t.glb = s.glb ∧ t.tk.tick = s.tk.tick ∧
  ∃ q n g c, t.grp = { s.grp with msgSeq := q, sentCounts := n, gotSeq := g, statusSeen := c }
theorem Quiet.refl (s : State) : Quiet s s := ⟨rfl, rfl, _, _, _, _, rfl⟩
theorem Quiet.trans {a b c : State} (h : Quiet a b) (k : Quiet b c) : Quiet a c := by
  obtain ⟨h1, h2, _, _, _, _, h3⟩ := h
  obtain ⟨k1, k2, q, n, g, d, k3⟩ := k
  exact ⟨k1.trans h1, k2.trans h2, q, n, g, d, by rw [k3, h3]⟩
theorem State.rerank_quiet (s : State) (f : Nat → Option Nat) : Quiet s (s.rerank f) := ⟨rfl, rfl, _, _, _, _, rfl⟩

theorem State.abandonUnit_quiet (s : State) (k : Nat) (u : UnitRec) : Quiet s (s.abandonUnit k u) := by
  obtain ⟨_, _, _, _, e⟩ := State.abandonUnit_spec s k u
  rw [e]
  exact ⟨rfl, rfl, _, _, _, _, rfl⟩

theorem State.endForWidth_quiet (s : State) (n0 : Nat) (lost parts : List Nat) : Quiet s (s.endForWidth n0 lost parts) := by
  unfold State.endForWidth
  dsimp only
  refine foldl_holds (Quiet s) _ (fun t e h => h.trans (⟨rfl, rfl, _, _, _, _, rfl⟩ : Quiet t (t.stage _ _))) _ _ ?_
  refine foldl_holds (Quiet s) _ (fun t e h => ?_) _ _ (Quiet.refl s)
  split
  · exact h.trans (State.abandonUnit_quiet _ _ _)
  · exact h

theorem State.replan_placed (s : State) (surv : Word64) (n n0 : Nat) (kept : Option Nat) (lost parts : List Nat)
    (ids : List (Nat × Nat)) (live : Tbl Session) : Placed s (s.replan surv n n0 kept lost parts ids live) := by
  unfold State.replan
  dsimp only
  refine Placed.trans ?_ ((State.planReshard_placed _ _ _ _).trans (State.fitModels_placed 8 _))
  refine Placed.trans ?_ (Placed.fold _ (fun s e => State.planMove_placed s _ _ _ _ _ _ _ _) _ _)
  exact (State.reshardStores_placed s surv n).trans (State.dropTrees_placed _)

/-- The new state is `regroup` of a quiet one, then changes that leave place and group, then the events. -/
theorem State.widthChange_parts (s : State) (surv : Word64) (joined : Bool) (kept : Option Nat) :
    ∃ (lost : List Nat) (z w : State), Quiet s z ∧ Placed (z.regroup surv kept lost) w ∧
      s.widthChange surv joined kept = if kept = some s.glb.rank then w else w.stage [w.groupEvent] := by
  unfold State.widthChange
  extract_lets n n0 lost ids leaving live parts s1 s2 s3
  refine ⟨lost, (s.endForWidth n0 lost parts).rerank (rankAfter surv n kept), s3, (State.endForWidth_quiet s _ _ _).trans (State.rerank_quiet _ _), ?_, rfl⟩
  show Placed s1 (if _ then _ else _)
  split
  · exact (State.replan_placed _ _ _ _ _ _ _ _ _).trans (Placed.fold _ (fun s _ => State.stage_placed s _ _) _ _)
  · exact State.replan_placed _ _ _ _ _ _ _ _ _

theorem State.widthChange_place (s : State) (surv : Word64) (joined : Bool) (kept : Option Nat) :
    let t := s.widthChange surv joined kept
    let ranks := (List.range s.grp.n).filter surv.getLsbD
    t.glb = { s.glb with rank := (rankAfter surv s.grp.n kept s.glb.rank).getD s.glb.rank } ∧ t.tk.tick = s.tk.tick ∧
    t.grp.n = ranks.length ∧ t.grp.members = ranks.map (fun r => s.grp.members.getD r 0) ∧ t.grp.groupId = s.grp.groupId ∧
    t.grp.shrink = none ∧ t.grp.missed = [] ∧ t.grp.join = s.grp.join ∧
    (kept ≠ some s.glb.rank → t.work.steward.getLast? = some ⟨none, 16, none, [t.groupEvent]⟩) := by
  obtain ⟨lost, z, w, ⟨hg, ht, q, n, _, _, hgr⟩, ⟨wg, wt, mv, rs, wgr⟩, e⟩ := State.widthChange_parts s surv joined kept
  dsimp only
  have d : (s.widthChange surv joined kept).glb = w.glb ∧ (s.widthChange surv joined kept).tk = w.tk ∧
      (s.widthChange surv joined kept).grp = w.grp := by rw [e]; split <;> exact ⟨rfl, rfl, rfl⟩
  rw [d.1, d.2.1, d.2.2, wg, wt, wgr]
  simp only [State.regroup, hg, ht, hgr, true_and]
  intro hk
  have e2 : s.widthChange surv joined kept = w.stage [w.groupEvent] := e.trans (if_neg hk)
  rw [e2]
  show (w.work.steward ++ [_]).getLast? = _
  rw [List.getLast?_concat]
  rfl

end Sys2Proof.Machine
end

