-- ==== Sys2Proof/Tests/Slice0.lean ====
section
/-! SUPPORT. Tests: an ill-formed term for each check of WellFormed, and for every statement that has hypotheses a state and
operands that meet them together. -/
open Sys2Proof Sys2Proof.Machine

section
set_option Elab.async false

/-! ### Well-formed and ill-formed commands -/

/-- A host command whose OPCODE is another row's (R258). -/
theorem test_wf_opcode : (Instr.park 3 (BitVec.ofNat 512 0x0303)).wf = true ∧ (Instr.park 3 (BitVec.ofNat 512 0x0304)).wf = false := by
  decide +kernel

/-- A work entry of the DCI whose OP is another row's (R268). -/
theorem test_wf_dci_op : (Instr.dciStep 3).wf = true ∧ (Instr.dciStep 4).wf = false := by decide +kernel

/-- A handoff message whose TYPE is another row's (R188). -/
theorem test_wf_handoff_type : (Instr.accept 7 2).wf = true ∧ (Instr.accept 7 3).wf = false := by decide +kernel

/-- A store of the host past the last address (R257). -/
theorem test_wf_stores : (Instr.sqTailWrite 0 1 [(2 ^ 64 - 2, [1, 2])]).wf = true ∧
    (Instr.sqTailWrite 0 1 [(2 ^ 64 - 1, [1, 2])]).wf = false := by decide +kernel

/-- A tile that is not 64 KiB long (R189), a HELLO body shorter than its versions (R278), a record with too many faults (R378). -/
theorem test_wf_lengths : (Instr.hankTile 7 0 0 [0]).wf = false ∧ (Instr.hello (.link 0) (zeros 11)).wf = false ∧
    (Instr.hello (.link 0) (zeros 12)).wf = true ∧
    (Instr.bistRunDone (.ran default (List.replicate 4097 default))).wf = false := by decide +kernel


/-! ### Helpers: small states and commands -/

/-- A command whose fields are given by offset and value (R248). -/
def Slice0.cmd (fs : List (Nat × Nat)) : Cmd := BitVec.ofNat 512 ((fs.map fun f => f.2 * 256 ^ f.1).sum)

/-- A tenant whose epoch-0 mailbox is 0. -/
def Slice0.tenant : Tenant :=
  { stackMib := 4096, treeMib := 1, bobbins := 1, sessions := 4, parkTiles := 4, isProtected := false, mailbox := 0, rate := 1
    burst := 1, bucket := 0, decodeSeen := false, routeSince := 0 }

/-- Slots that give each unit its whole estimate, whatever the amounts of work are (R39, R362). -/
def Slice0.slots : List SlotEntry := [
  ⟨.park, 0, 20, estimateUj (.parkTile 0 0) 65536 1, 0xFFF, 2⟩, ⟨.house, 20, 20, estimateUj (.sweep 0) 1 1, 0xFFF, 2⟩,
  ⟨.house, 40, 20, estimateUj (.compact 0) 1 1, 0xFFF, 2⟩, ⟨.chkpt, 60, 20, estimateUj (.chkptTile 0) 65536 1, 0xFFF, 2⟩,
  ⟨.empty, 80, 20, 0, 0, 0⟩, ⟨.house, 100, 20, estimateUj (.reencrypt 1 0) 1 1, 0xFFF, 2⟩]

/-- A device in NCI mode: every mailbox has one command waiting, tenant 1 is routed to mailbox 0 and may use store 0. -/
def Slice0.up : State := { State.reset with
  glb.ready := true, glb.mode := .nci
  mbx := Vector.replicate 64 { Mailbox.reset with
    enable := true, enabled := true, sqLog2 := 4, cqLog2 := 6, sqTail := 1, chan := .opened, nci := 0x13 }
  tk.table := ⟨0, 500, 0, [Slice0.slots]⟩
  ten.tenants := [(1, Slice0.tenant)]
  ten.map := ⟨5, 50, 60, [(1, ⟨0, 0, 0, 65536⟩)], [(0, ⟨0, 0, 1, 0, 1048576, 2⟩)]⟩ }

/-- The same with bytes in the memory at port 0 from address 4,096 on. -/
def Slice0.withBytes (bs : Bytes) (s : State) : State := { s with host0 := Memory.writeN [] 4096 bs }

/-- The premise `serves` as a test that can be run. -/
def Slice0.servesB (s : State) (m : Fin 64) (c : Cmd) (op : Nat) : Bool :=
  s.canFetch m (owedBy (Cmd.op c)) && !s.hostAbsent .port0 (s.slotAddr m) &&
    match specOf op with
    | some k => match ((s.fetched m c).view).common m k c with
      | .ok () => (s.loadPause m c).isNone
      | .error _ => false
    | none => false

theorem Slice0.serves {s : State} {m : Fin 64} {c : Cmd} {op : Nat} (h : Slice0.servesB s m c op = true) : s.serves m c op := by
  unfold Slice0.servesB at h
  simp only [Bool.and_eq_true, Bool.not_eq_true'] at h
  obtain ⟨⟨h1, h2⟩, h3⟩ := h
  refine ⟨h1, h2, ?_⟩
  split at h3
  · rename_i k hk
    refine ⟨k, hk, ?_⟩
    split at h3
    · rename_i h4
      exact ⟨h4, Option.isNone_iff_eq_none.mp h3⟩
    · cases h3
  · cases h3


theorem Slice0.le_foldl_max (l : List SlotEntry) (a : Nat) : a ≤ l.foldl (fun a e => Nat.max a e.energyUj) a := by
  induction l generalizing a with
  | nil => exact Nat.le_refl _
  | cons x l ih => exact Nat.le_trans (Nat.le_max_left _ _) (ih _)

theorem Slice0.mem_le_foldl_max {l : List SlotEntry} {e : SlotEntry} (h : e ∈ l) (a : Nat) :
    e.energyUj ≤ l.foldl (fun a e => Nat.max a e.energyUj) a := by
  induction l generalizing a with
  | nil => cases h
  | cons x l ih => cases h with
    | head => exact Nat.le_trans (Nat.le_max_right _ _) (Slice0.le_foldl_max _ _)
    | tail _ h => exact ih h _

/-- Where nothing is staged, the checks see the state with the command fetched (R247). -/
theorem Slice0.sees {s : State} (h : s.work.steward = []) (m : Fin 64) (c : Cmd) : s.sees m c = s.fetched m c := by
  have h2 : (s.fetched m c).work.steward = [] := h
  unfold State.sees State.view
  rw [h2]
  rfl

theorem Slice0.energy {s : State} {m : Fin 64} {c : Cmd} {k : UnitKind} {size : Nat} {t : Option Nat} (e : SlotEntry)
    (hs : s.work.steward = []) (hr : s.tk.table.rows = [Slice0.slots]) (hn : s.grp.n = 1)
    (h : e ∈ Slice0.slots) (hc : e.cls = k.cls)
    (ht : (match t with | some t => e.tenants.testBit t | none => true) = true) (he : estimateUj k size 1 ≤ e.energyUj) :
    (s.sees m c).energyOk k size t = true := by
  rw [Slice0.sees hs]
  unfold State.energyOk State.largestEnergy
  rw [Bool.or_eq_true, decide_eq_true_eq, show (s.fetched m c).tk.table.rows = [Slice0.slots] from hr,
    show (s.fetched m c).grp.n = 1 from hn]
  refine .inr (Nat.le_trans he (Slice0.mem_le_foldl_max (List.mem_filter.mpr ⟨?_, ?_⟩) 0))
  · simpa using h
  · rw [Bool.and_eq_true, decide_eq_true_eq]
    exact ⟨hc, ht⟩

/-- An answer that passes a test. -/
def Slice0.okB (r : Checked α) (p : α → Bool) : Bool := match r with | .ok a => p a | .error _ => false

theorem Slice0.ok {r : Checked α} {p : α → Bool} (h : Slice0.okB r p = true) : ∃ a, r = .ok a ∧ p a = true := by
  unfold Slice0.okB at h
  split at h
  · exact ⟨_, rfl, h⟩
  · cases h

/-- What a read of the bytes of `withBytes` gives. -/
theorem Slice0.readN (m : HostMem) (bs : Bytes) (a j n : Nat) (h : j + n ≤ bs.length) :
    Memory.readN (Memory.writeN m a bs) (a + j) n = some ((bs.drop j).take n) := by
  induction n generalizing j with
  | zero => simp [Memory.readN]
  | succ n ih =>
    have hj : j < bs.length := by omega
    have h1 := Memory.read_writeN_inside m a bs j hj
    have h2 := ih (j + 1) (by omega)
    rw [← Nat.add_assoc] at h2
    simp only [Memory.readN, h1, h2]
    rw [List.drop_eq_getElem_cons hj, List.take_succ_cons]


/-! ### Host commands of groups 0x01 to 0x03 -/

/-- An IDLE session of tenant 1 at index 3, and what it is made of. -/
def Slice0.sess : Session := freshSession 0 1 16 5 0 0

/-- The device with that session in a state of its own. -/
def Slice0.upS (st : SessState) : State := { Slice0.up with
  ss.sessions := [(3, { Slice0.sess with state := st, hist := [1, 2, 3] })], ss.gens := [(3, 0)]
  sec.slots := [(0, { (default : KeySlot) with kind := .current, tenant := 1 })] }

/-- The device with an ACTIVE model whose digest is 0 in slot 7. -/
def Slice0.upM : State := { Slice0.up with
  img.models := [(7, { (default : Model) with state := .active, tenantMask := 2 })] }

/-- The device with mailbox 0 in a channel state, so many completions owed. -/
def Slice0.upC (ch : Chan) (debts : Nat) : State := { Slice0.up with
  mbx := Slice0.up.mbx.map fun b => { b with chan := ch, debts := debts } }

/-- OPEN on an opened channel, and on a negotiated one. -/
theorem test_witness_open : ∃ (s s' : State) (m : Fin 64) (c : Cmd),
    s.serves m c 0x0102 ∧ s'.serves m c 0x0102 ∧ ((s.sees m c).mbx[m]).chan ≠ .negotiated ∧
    ((s'.sees m c).mbx[m]).chan = .negotiated :=
  ⟨Slice0.up, Slice0.upC .negotiated 0, 0, Slice0.cmd [(0, 0x0102)], Slice0.serves (by decide +kernel), Slice0.serves (by decide +kernel),
    by decide +kernel⟩

/-- CLOSE with one completion more owed, and with its own alone. -/
theorem test_witness_close : ∃ (s s' : State) (m : Fin 64) (c : Cmd),
    s.serves m c 0x0103 ∧ s'.serves m c 0x0103 ∧ ((s.sees m c).mbx[m]).debts = 2 ∧ ((s'.sees m c).mbx[m]).debts = 1 :=
  ⟨Slice0.upC .opened 1, Slice0.up, 63, Slice0.cmd [(0, 0x0103)], Slice0.serves (by decide +kernel), Slice0.serves (by decide +kernel),
    by decide +kernel⟩

/-- NEGOTIATE with the versions 0x13 to 0x1F. -/
theorem test_witness_negotiate : ∃ (s : State) (m : Fin 64) (c : Cmd), s.serves m c 0x0101 ∧
    ((s.sees m c).mbx[m]).chan ≠ .opened ∧ fld c 8 1 ≤ fld c 9 1 ∧ 0x10 ≤ fld c 8 1 ∧ fld c 8 1 ≤ 0x13 ∧ fld c 9 1 ≤ 0x1F :=
  ⟨Slice0.upC .idle 0, 5, Slice0.cmd [(0, 0x0101), (8, 0x13), (9, 0x1F)], Slice0.serves (by decide +kernel), by decide +kernel⟩

/-- QUERY of the session at index 3. -/
def Slice0.cQuery : Cmd := Slice0.cmd [(0, 0x0104), (8, 3), (16, 3), (24, 4096), (32, 512)]

/-- QUERY of a session. -/
theorem test_witness_query : ∃ (s : State) (m : Fin 64) (c : Cmd) (r : Bytes × Option (Option Nat)), s.serves m c 0x0104 ∧
    (s.sees m c).queryItem (fld c 8 2) (fld c 16 8) = .ok r ∧
    (1 ≤ fld c 8 2 ∧ fld c 8 2 ≤ 7 ∧ fld c 24 8 % 16 = 0 ∧ fld c 8 2 ∈ [3, 4, 5, 6] ∧ r.2 = some (some 1) ∧
      (s.sees m c).routeOf 1 = some m.val ∧ r.1.length ≤ fld c 32 4) := by
  obtain ⟨r, h, hp⟩ := Slice0.ok (r := ((Slice0.upS .idle).sees 0 Slice0.cQuery).queryItem (fld Slice0.cQuery 8 2) (fld Slice0.cQuery 16 8))
    (p := fun r => decide (r.2 = some (some 1)) && decide (r.1.length ≤ fld Slice0.cQuery 32 4)) (by decide +kernel)
  rw [Bool.and_eq_true, decide_eq_true_eq, decide_eq_true_eq] at hp
  exact ⟨Slice0.upS .idle, 0, Slice0.cQuery, r, Slice0.serves (by decide +kernel), h,
    by decide +kernel, by decide +kernel, by decide +kernel, by decide +kernel, hp.1, by decide +kernel, hp.2⟩

/-- EVICT_MODEL of an ACTIVE model, RETIRE_ADAPTER, and LOAD_MODEL and LOAD_ADAPTER as commands that are served. -/
theorem test_witness_models : (∃ (s : State) (m : Fin 64) (c : Cmd) (mdl : Model), s.serves m c 0x0202 ∧ fld c 8 1 ≤ 7 ∧
      1 ≤ fld c 12 4 ∧ fld c 12 4 ≤ 60000 ∧ Tb.get (s.sees m c).img.models (fld c 8 1) = some mdl ∧ mdl.state = .active) ∧
    (∃ (s : State) (m : Fin 64) (c : Cmd) (a : AdapterVer), s.serves m c 0x0204 ∧ fld c 8 2 ≤ 4095 ∧
      (s.sees m c).img.adapters.find? (fun a => a.id = fld c 8 2 && a.ver = fld c 10 2) = some a ∧ a.retiring = false) ∧
    (∃ (s : State) (m : Fin 64) (c : Cmd), s.serves m c 0x0201) ∧ ∃ (s : State) (m : Fin 64) (c : Cmd), s.serves m c 0x0203 :=
  ⟨⟨Slice0.upM, 0, Slice0.cmd [(0, 0x0202), (8, 7), (12, 60000)], { (default : Model) with state := .active, tenantMask := 2 },
      Slice0.serves (by decide +kernel), by decide +kernel⟩,
    ⟨{ Slice0.up with img.adapters := [{ (default : AdapterVer) with id := 4095, ver := 1 }] }, 0,
      Slice0.cmd [(0, 0x0204), (8, 4095), (10, 1)], { (default : AdapterVer) with id := 4095, ver := 1 },
      Slice0.serves (by decide +kernel), by decide +kernel⟩,
    ⟨Slice0.up, 0, Slice0.cmd [(0, 0x0201)], Slice0.serves (by decide +kernel)⟩,
    ⟨Slice0.up, 0, Slice0.cmd [(0, 0x0203)], Slice0.serves (by decide +kernel)⟩⟩

/-- LOAD_GRAMMAR and LOAD_VOCAB, unloading the last ID and loading it. -/
theorem test_witness_grammarsAndVocabs :
    (∃ (s : State) (m : Fin 64) (c c' : Cmd), s.serves m c 0x0205 ∧ s.serves m c' 0x0205 ∧
      ((s.given m c).loadFields = true ∧ fld c 8 2 ≤ 1023 ∧ fld c 24 8 = 0 ∧ Tb.has (s.sees m c).img.grammars (fld c 8 2) = true ∧
        (s.sees m c).grammarUsed (fld c 8 2) = false) ∧
      ((s.given m c').loadFields = true ∧ fld c' 8 2 ≤ 1023 ∧ fld c' 24 8 ≠ 0 ∧ (s.sees m c').grp.n ≤ 1)) ∧
    ∃ (s : State) (m : Fin 64) (c c' : Cmd) (w : Vocab), s.serves m c 0x0206 ∧ s.serves m c' 0x0206 ∧
      ((s.given m c).loadFields = true ∧ fld c 8 1 ≤ 15 ∧ fld c 24 8 = 0 ∧ Tb.get (s.sees m c).img.vocabs (fld c 8 1) = some w ∧
        (s.sees m c).vocabUsed w.digest = false) ∧
      ((s.given m c').loadFields = true ∧ fld c' 8 1 ≤ 15 ∧ fld c' 24 8 ≠ 0 ∧ (s.sees m c').grp.n ≤ 1) :=
  ⟨⟨{ Slice0.up with img.grammars := [(1023, default)] }, 0, Slice0.cmd [(0, 0x0205), (8, 1023)],
      Slice0.cmd [(0, 0x0205), (8, 1023), (16, 4096), (24, 64)],
      Slice0.serves (by decide +kernel), Slice0.serves (by decide +kernel), by decide +kernel⟩,
    ⟨{ Slice0.up with img.vocabs := [(15, default)] }, 0, Slice0.cmd [(0, 0x0206), (8, 15)],
      Slice0.cmd [(0, 0x0206), (8, 15), (16, 4096), (24, 64)], default,
      Slice0.serves (by decide +kernel), Slice0.serves (by decide +kernel), by decide +kernel⟩⟩

/-- SESSION_CREATE for the model of digest 0. -/
theorem test_witness_sessionCreate : ∃ (s : State) (m : Fin 64) (c : Cmd) (b : Bytes) (t : Tenant) (mdl : Nat × Model) (i : Nat),
    s.serves m c 0x0301 ∧ (s.given m c).rd .port0 (fld c 16 8) 64 = some b ∧
    (s.sees m c).activeModel (digestOf (b.take 48)) (fld c 8 1) = .ok mdl ∧
    (fld c 8 1 ≤ 63 ∧ fld c 16 8 % 16 = 0 ∧ zeroAt b 48 16 = true ∧ Tb.get (s.sees m c).ten.tenants (fld c 8 1) = some t ∧
      (s.sees m c).routeOf (fld c 8 1) = some m.val ∧ fld c 9 1 ∈ [16, 32, 64, 128] ∧
      (s.sees m c).sessionsOf (fld c 8 1) < t.sessions ∧ (s.sees m c).freeIndex = some i ∧
      (s.sees m c).grants (fld c 8 1) ((s.sees m c).segmentCharge i) = true) :=
  ⟨Slice0.withBytes (zeros 64) Slice0.upM, 0, Slice0.cmd [(0, 0x0301), (8, 1), (9, 128), (16, 4096)], zeros 64, Slice0.tenant,
    (7, { (default : Model) with state := .active, tenantMask := 2 }), 0,
    Slice0.serves (by decide +kernel), by decide +kernel, by decide +kernel, by decide +kernel⟩

/-- SESSION_DESTROY of a session in each of its three states. -/
theorem test_witness_sessionDestroy : ∀ st ∈ [SessState.idle, .parked, .gone], ∃ (s : State) (m : Fin 64) (c : Cmd) (y : Session),
    s.serves m c 0x0302 ∧ (s.sees m c).sessOf (fld c 8 8) = some (3, y) ∧ (s.sees m c).routeOf y.tenant = some m.val ∧ y.state = st := by
  intro st h
  refine ⟨Slice0.upS st, 0, Slice0.cmd [(0, 0x0302), (8, 3)], { Slice0.sess with state := st, hist := [1, 2, 3] }, Slice0.serves ?_, ?_⟩
  · revert st; decide +kernel
  · revert st; decide +kernel

/-- PARK at the last place of a store that takes its limit. -/
theorem test_witness_park : ∃ (s : State) (m : Fin 64) (c : Cmd) (y : Session) (p : ParkStore), s.serves m c 0x0303 ∧
    (s.sees m c).energyOk (.parkTile 0 0) 65536 (some y.tenant) = true ∧
    (fld c 16 1 ≤ 1 ∧ fld c 40 8 % 16 = 0 ∧ (s.sees m c).sessOf (fld c 8 8) = some (3, y) ∧
      (s.sees m c).routeOf y.tenant = some m.val ∧ Tb.get (s.sees m c).ten.map.stores (fld c 17 1) = some p ∧
      p.mask.getLsbD y.tenant = true ∧ fld c 24 8 % 65536 = 0 ∧ fld c 24 8 + fld c 32 8 ≤ p.len ∧ (s.sees m c).copying 3 = false ∧
      (s.sees m c).copyState y = true ∧ ((s.sees m c).currentSlot y.tenant).isSome = true ∧ (s.sees m c).copyFits y = true) :=
  ⟨Slice0.upS .idle, 0, Slice0.cmd [(0, 0x0303), (8, 3), (16, 1), (24, 983040), (32, 65536)],
    { Slice0.sess with state := .idle, hist := [1, 2, 3] }, ⟨0, 0, 1, 0, 1048576, 2⟩, Slice0.serves (by decide +kernel),
    Slice0.energy ⟨.park, 0, 20, estimateUj (.parkTile 0 0) 65536 1, 0xFFF, 2⟩ rfl rfl rfl (.head _) rfl (by decide +kernel) (Nat.le_refl _), by decide +kernel⟩

/-- REVIVE and ADOPT as commands that are served. -/
theorem test_witness_reviveAndAdopt : (∃ (s : State) (m : Fin 64) (c : Cmd), s.serves m c 0x0304) ∧
    ∃ (s : State) (m : Fin 64) (c : Cmd), s.serves m c 0x0308 :=
  ⟨⟨Slice0.up, 0, Slice0.cmd [(0, 0x0304)], Slice0.serves (by decide +kernel)⟩,
    ⟨Slice0.up, 0, Slice0.cmd [(0, 0x0308)], Slice0.serves (by decide +kernel)⟩⟩

/-- HANDOFF_OFFER with the shortest time. -/
theorem test_witness_handoffOffer : ∃ (s : State) (m : Fin 64) (c : Cmd) (y : Session), s.serves m c 0x0305 ∧
    (s.sees m c).energyOk (.parkTile 0 0) 65536 (some y.tenant) = true ∧
    (fld c 24 1 ≤ 1 ∧ 10 ≤ fld c 28 4 ∧ fld c 28 4 ≤ 60000 ∧ (s.sees m c).sessOf (fld c 8 8) = some (3, y) ∧
      (s.sees m c).routeOf y.tenant = some m.val ∧ y.state ≠ .offered ∧ (s.sees m c).copying 3 = false ∧ y.state = .parked ∧
      (s.sees m c).copyFits y = true ∧ (s.sees m c).slotRoom = true) :=
  ⟨Slice0.upS .parked, 0, Slice0.cmd [(0, 0x0305), (8, 3), (16, 99), (24, 1), (28, 10)],
    { Slice0.sess with state := .parked, hist := [1, 2, 3] }, Slice0.serves (by decide +kernel),
    Slice0.energy ⟨.park, 0, 20, estimateUj (.parkTile 0 0) 65536 1, 0xFFF, 2⟩ rfl rfl rfl (.head _) rfl (by decide +kernel) (Nat.le_refl _), by decide +kernel⟩

/-- HANDOFF_COMMIT with and without REFUSE, and QUERY_OWNER. -/
theorem test_witness_handoffCommit : (∀ f ∈ [0, 1], ∃ (s : State) (m : Fin 64) (c : Cmd) (d : HandoffDst), s.serves m c 0x0306 ∧
      fld c 16 1 ≤ 63 ∧ fld c 17 1 = f ∧ Tb.get (s.sees m c).ss.dsts (fld c 8 8) = some d ∧ d.offer ≠ [] ∧ d.session = none ∧
      d.owned = false) ∧
    ∃ (s : State) (m : Fin 64) (c : Cmd) (d : HandoffDst) (i : Nat) (y : Session), s.serves m c 0x0307 ∧
      Tb.get (s.sees m c).ss.dsts (fld c 8 8) = some d ∧ d.session = some i ∧ Tb.get (s.sees m c).ss.sessions i = some y ∧
      y.state = .accepting := by
  refine ⟨fun f hf => ⟨{ Slice0.up with ss.dsts := [(7, { (default : HandoffDst) with offer := zeros 128 })] }, 0,
    Slice0.cmd [(0, 0x0306), (8, 7), (16, 63), (17, f)], { (default : HandoffDst) with offer := zeros 128 }, Slice0.serves ?_, ?_⟩,
    ⟨{ Slice0.upS .accepting with ss.dsts := [(7, { (default : HandoffDst) with session := some 3 })] }, 0,
      Slice0.cmd [(0, 0x0307), (8, 7)], { (default : HandoffDst) with session := some 3 }, 3,
      { Slice0.sess with state := .accepting, hist := [1, 2, 3] }, Slice0.serves (by decide +kernel), by decide +kernel⟩⟩
  · revert f; decide +kernel
  · revert f; decide +kernel

/-- CLAIM of held output of no records. -/
theorem test_witness_claim : ∃ (s : State) (m : Fin 64) (c : Cmd) (y : Session) (h : HeldOutput), s.serves m c 0x0309 ∧
    fld c 16 8 % 64 = 0 ∧ ringCountOk (fld c 24 4) = true ∧ fld c 32 8 % 16 = 0 ∧ (s.sees m c).sessOf (fld c 8 8) = some (3, y) ∧
    (s.sees m c).routeOf y.tenant = some m.val ∧ y.held = some h ∧ h.records.length ≤ fld c 24 4 ∧
    Tb.has (s.sees m c).ss.claims 3 = false ∧ (s.sees m c).spoolOpens 3 y 32 = true :=
  ⟨{ Slice0.up with ss.sessions := [(3, { Slice0.sess with held := some ⟨4, 0, [], none⟩ })], ss.gens := [(3, 0)] }, 0,
    Slice0.cmd [(0, 0x0309), (8, 3), (16, 4096), (24, 1024), (32, 8192)], { Slice0.sess with held := some ⟨4, 0, [], none⟩ },
    ⟨4, 0, [], none⟩, Slice0.serves (by decide +kernel), by decide +kernel⟩

/-- The root key of the tests: tenant 1, digests 0, pages of 16 positions. -/
def Slice0.key : RootKey := ⟨1, 0, 0, 16, false⟩

/-- PURGE of a root. -/
theorem test_witness_purge : ∃ (s : State) (m : Fin 64) (c : Cmd) (b : Bytes) (n : Node), s.serves m c 0x030A ∧
    (s.sees m c).energyOk (.sweep 0) 1 (some (fld c 8 1)) = true ∧ (s.given m c).rd .port0 (fld c 24 8) 128 = some b ∧
    (fld c 8 1 ≤ 63 ∧ fld c 24 8 % 16 = 0 ∧ (s.given m c).flag 0 = true ∧ zeroAt b 98 30 = true ∧
      fieldAt b 96 1 ∈ [16, 32, 64, 128] ∧ fieldAt b 97 1 ≤ 1 ∧ Tb.has (s.sees m c).ten.tenants (fld c 8 1) = true ∧
      (s.sees m c).routeOf (fld c 8 1) = some m.val ∧
      (s.sees m c).purgeTop ⟨fld c 8 1, digestOf (b.take 48), digestOf (sliceAt b 48 48), fieldAt b 96 1, fieldAt b 97 1 = 1⟩
        (some (fld c 12 4, fld c 16 4)) = some n) :=
  ⟨Slice0.withBytes (zeros 96 ++ [16] ++ zeros 31) { Slice0.up with
      kv.nodes := [{ (default : Node) with id := 1, key := Slice0.key, root := true, live := true }] }, 0,
    Slice0.cmd [(0, 0x030A), (2, 1), (8, 1), (12, 1), (24, 4096)], zeros 96 ++ [16] ++ zeros 31,
    { (default : Node) with id := 1, key := Slice0.key, root := true, live := true }, Slice0.serves (by decide +kernel),
    Slice0.energy ⟨.house, 20, 20, estimateUj (.sweep 0) 1 1, 0xFFF, 2⟩ rfl rfl rfl (.tail _ (.head _)) rfl (by decide +kernel) (Nat.le_refl _), by decide +kernel, by decide +kernel⟩


/-! ### Host commands of groups 0x04 to 0x06 -/

/-- What a read of all bytes of `withBytes` gives a command's checks. -/
theorem Slice0.rd {s : State} {bs : Bytes} (m : Fin 64) (c : Cmd) {a n : Nat} (h0 : s.host0 = Memory.writeN [] 4096 bs)
    (hs : s.ats.absent = []) (ha : a = 4096) (hn : n = bs.length) (hz : n ≠ 0) : (s.given m c).rd .port0 a n = some bs := by
  subst ha
  have h1 : (s.fetched m c).host0 = Memory.writeN [] 4096 bs := h0
  have h2 : (s.fetched m c).ats.absent = [] := hs
  have h3 := Slice0.readN [] bs 4096 0 n (by omega)
  rw [Nat.add_zero, List.drop_zero, hn, List.take_length, ← h1, ← hn] at h3
  show (s.fetched m c).reader .port0 4096 n = some bs
  unfold State.reader State.rangeAbsent
  rw [if_neg hz, h2, List.any_nil]
  exact h3

/-- A request of the session at index 3 in a phase. -/
def Slice0.req (p : Phase) : Req := { newReq (Slice0.up.ctx 0 0 0) 0 3 5 [] [] [] none none [] 0 with phase := p }

/-- The device with that request, whose session is BUSY. -/
def Slice0.upR (p : Phase) : State := { Slice0.upM with
  ss.sessions := [(3, { Slice0.sess with state := .busy, hist := [1, 2, 3], reqId := 5 })], ss.gens := [(3, 0)]
  ss.reqs := [(5, Slice0.req p)], img.grammars := [(1023, default)] }

/-- CANCEL of a request. -/
theorem test_witness_cancel : ∃ (s : State) (m : Fin 64) (c : Cmd) (q : Req) (y : Session), s.serves m c 0x0402 ∧
    Tb.get (s.sees m c).ss.reqs (fld c 8 4) = some q ∧ Tb.get (s.sees m c).ss.sessions q.session = some y ∧
    (s.sees m c).routeOf y.tenant = some m.val ∧ y.state = .busy :=
  ⟨Slice0.upR .prefill, 0, Slice0.cmd [(0, 0x0402), (8, 5)], Slice0.req .prefill,
    { Slice0.sess with state := .busy, hist := [1, 2, 3], reqId := 5 }, Slice0.serves (by decide +kernel), by decide +kernel⟩

/-- RESUME without a grammar, and with the last one. -/
theorem test_witness_resume : ∃ (s : State) (m : Fin 64) (c c' : Cmd) (q : Req) (y : Session) (g : Grammar) (mdl : Nat × Model),
    s.serves m c 0x0403 ∧ s.serves m c' 0x0403 ∧ Tb.get (s.sees m c).ss.reqs (fld c 8 4) = some q ∧
    Tb.get (s.sees m c').ss.reqs (fld c' 8 4) = some q ∧
    (Tb.get (s.sees m c).ss.sessions q.session = some y ∧ (s.sees m c).routeOf y.tenant = some m.val ∧ q.phase = .stalled ∧
      y.state = .busy ∧ q.cancel = none ∧ (s.sees m c).holdEnded (fld c 8 4) = false ∧ (s.given m c).flag 0 = true ∧ fld c 12 2 = 0) ∧
    (fld c' 12 2 ≤ 1023 ∧ Tb.get (s.sees m c').ss.sessions q.session = some y ∧ (s.sees m c').routeOf y.tenant = some m.val ∧
      (s.given m c').flag 0 = false ∧ Tb.get (s.sees m c').img.grammars (fld c' 12 2) = some g ∧
      (s.sees m c').modelOf y.model = some mdl ∧ mdl.2.hdr.vocabDigest = g.vocabDigest) :=
  ⟨Slice0.upR .stalled, 0, Slice0.cmd [(0, 0x0403), (2, 1), (8, 5)], Slice0.cmd [(0, 0x0403), (8, 5), (12, 1023)], Slice0.req .stalled,
    { Slice0.sess with state := .busy, hist := [1, 2, 3], reqId := 5 }, default, (7, { (default : Model) with state := .active, tenantMask := 2 }),
    Slice0.serves (by decide +kernel), Slice0.serves (by decide +kernel), by decide +kernel, by decide +kernel, by decide +kernel, by decide +kernel⟩

/-- RETRACT of the whole history. -/
theorem test_witness_retract : ∃ (s : State) (m : Fin 64) (c : Cmd) (y : Session), s.serves m c 0x0404 ∧ fld c 16 4 ≠ 0 ∧
    (s.sees m c).sessOf (fld c 8 8) = some (3, y) ∧ (s.sees m c).routeOf y.tenant = some m.val ∧ y.state = .idle ∧
    fld c 16 4 ≤ y.hist.length ∧ (s.sees m c).spoolOpens 3 y 32 = true :=
  ⟨Slice0.upS .idle, 0, Slice0.cmd [(0, 0x0404), (8, 3), (16, 3)], { Slice0.sess with state := .idle, hist := [1, 2, 3] },
    Slice0.serves (by decide +kernel), by decide +kernel⟩

/-- A store of tenant 1 with one item, or none. -/
def Slice0.store (side : List SideEntry) : Store :=
  { tenant := 1, d := 64, m := 16, metric := 0, shards := 1, codebook := [], seq := side.length, degraded := false
    mains := [⟨0, 0, []⟩], side := side, compact := none }

/-- The device with that store as store 255, and bytes in host memory. -/
def Slice0.upT (side : List SideEntry) (bs : Bytes) : State :=
  Slice0.withBytes bs { Slice0.up with st.stores := [(255, Slice0.store side)] }

/-- STORE_CREATE as a command that is served, and STORE_CREATE with DESTROY. -/
theorem test_witness_storeCreate : (∃ (s : State) (m : Fin 64) (c : Cmd), s.serves m c 0x0501 ∧ (s.given m c).flag 0 = false) ∧
    ∃ (s : State) (m : Fin 64) (c : Cmd) (st : Store), s.serves m c 0x0501 ∧ (s.given m c).flag 0 = true ∧
      ((List.range 55).all fun i => fld c (9 + i) 1 = 0) = true ∧ Tb.get (s.sees m c).st.stores (fld c 8 1) = some st ∧
      (s.sees m c).routeOf st.tenant = some m.val ∧ st.compact = none ∧
      ((s.sees m c).st.queries.any fun q => q.2.store = fld c 8 1) = false :=
  ⟨⟨Slice0.up, 0, Slice0.cmd [(0, 0x0501)], Slice0.serves (by decide +kernel), by decide +kernel⟩,
    ⟨Slice0.upT [] [], 0, Slice0.cmd [(0, 0x0501), (2, 1), (8, 255)], Slice0.store [], Slice0.serves (by decide +kernel), by decide +kernel⟩⟩

/-- INSERT of item 7, DELETE of item 7. -/
theorem test_witness_insertAndDelete :
    (∃ (s : State) (m : Fin 64) (c : Cmd) (effs : List Effect), s.serves m c 0x0502 ∧
      checkInsert (s.sees m c) (s.given m c) = .ok effs) ∧
    ∃ (s : State) (m : Fin 64) (c : Cmd) (effs : List Effect), s.serves m c 0x0503 ∧
      checkDelete (s.sees m c) (s.given m c) = .ok effs := by
  refine ⟨⟨Slice0.upT [] (toLE 8 7 ++ zeros 8 ++ zeros 16), 0, Slice0.cmd [(0, 0x0502), (8, 255), (12, 1), (16, 4096), (24, 32)], ?_⟩,
    ⟨Slice0.upT [⟨7, 1, false, zeros 16⟩] (toLE 8 7), 0, Slice0.cmd [(0, 0x0503), (8, 255), (12, 1), (16, 4096), (24, 8)], ?_⟩⟩
  · obtain ⟨e, h, -⟩ := Slice0.ok (p := fun _ => true) (r := checkInsert ((Slice0.upT [] (toLE 8 7 ++ zeros 8 ++ zeros 16)).sees 0
      (Slice0.cmd [(0, 0x0502), (8, 255), (12, 1), (16, 4096), (24, 32)])) ((Slice0.upT [] (toLE 8 7 ++ zeros 8 ++ zeros 16)).given 0
      (Slice0.cmd [(0, 0x0502), (8, 255), (12, 1), (16, 4096), (24, 32)]))) (by decide +kernel)
    exact ⟨e, Slice0.serves (by decide +kernel), h⟩
  · obtain ⟨e, h, -⟩ := Slice0.ok (p := fun _ => true) (r := checkDelete ((Slice0.upT [⟨7, 1, false, zeros 16⟩] (toLE 8 7)).sees 0
      (Slice0.cmd [(0, 0x0503), (8, 255), (12, 1), (16, 4096), (24, 8)])) ((Slice0.upT [⟨7, 1, false, zeros 16⟩] (toLE 8 7)).given 0
      (Slice0.cmd [(0, 0x0503), (8, 255), (12, 1), (16, 4096), (24, 8)]))) (by decide +kernel)
    exact ⟨e, Slice0.serves (by decide +kernel), h⟩

/-- COMPACT of a store. -/
theorem test_witness_compact : ∃ (s : State) (m : Fin 64) (c : Cmd) (st : Store), s.serves m c 0x0505 ∧
    (s.sees m c).energyOk (.compact 0) 1 (some st.tenant) = true ∧ Tb.get (s.sees m c).st.stores (fld c 8 1) = some st ∧
    (s.sees m c).routeOf st.tenant = some m.val ∧ st.degraded = false ∧ st.compact = none ∧
    ((s.sees m c).storeFits st.tenant st.shards fun r =>
      ({ st with compact := some (st.seq, none, []) } : Store).charge r 0 - st.charge r 0) = true :=
  ⟨Slice0.upT [] [], 0, Slice0.cmd [(0, 0x0505), (8, 255)], Slice0.store [], Slice0.serves (by decide +kernel),
    Slice0.energy ⟨.house, 40, 20, estimateUj (.compact 0) 1 1, 0xFFF, 2⟩ rfl rfl rfl (.tail _ (.tail _ (.head _))) rfl (by decide +kernel)
      (Nat.le_refl _), by decide +kernel⟩

/-- CHECKPOINT that fills its store. -/
theorem test_witness_checkpoint : ∃ (s : State) (m : Fin 64) (c : Cmd) (p : ParkStore), s.serves m c 0x0601 ∧
    (s.sees m c).energyOk (.chkptTile 0) 65536 none = true ∧ fld c 32 8 % 16 = 0 ∧
    reelLenOf (Nat.max (s.sees m c).grp.n 1) 0 ≤ fld c 40 8 ∧ Tb.get (s.sees m c).ten.map.stores (fld c 8 1) = some p ∧
    fld c 16 8 % 65536 = 0 ∧ fld c 24 8 % 65536 = 0 ∧ fld c 24 8 ≠ 0 ∧
    fld c 16 8 + Nat.max (s.sees m c).grp.n 1 * fld c 24 8 ≤ p.len ∧ (s.sees m c).chkpt = none ∧ (s.sees m c).restoring = false ∧
    (s.sees m c).grp.moves = [] ∧ (s.sees m c).grp.shrink = none :=
  ⟨Slice0.up, 0, Slice0.cmd [(0, 0x0601), (24, 1048576), (32, 4096), (40, 528)], ⟨0, 0, 1, 0, 1048576, 2⟩, Slice0.serves (by decide +kernel),
    Slice0.energy ⟨.chkpt, 60, 20, estimateUj (.chkptTile 0) 65536 1, 0xFFF, 2⟩ rfl rfl rfl (.tail _ (.tail _ (.tail _ (.head _)))) rfl
      (by decide +kernel) (Nat.le_refl _), by decide +kernel, by decide +kernel, by decide +kernel, by decide +kernel, by decide +kernel,
    by decide +kernel, by decide +kernel, rfl, rfl, by decide +kernel, by decide +kernel⟩

/-- RESTORE as a command that is served, and VERIFY_REEL of bytes that are no reel. -/
theorem test_witness_restoreAndVerify : (∃ (s : State) (m : Fin 64) (c : Cmd), s.serves m c 0x0602) ∧
    ∃ (s : State) (m : Fin 64) (c : Cmd) (b : Bytes), s.serves m c 0x0603 ∧ fld c 16 8 % 16 = 0 ∧
      (s.given m c).rd .port0 (fld c 16 8) (fld c 24 8) = some b :=
  ⟨⟨Slice0.up, 0, Slice0.cmd [(0, 0x0602)], Slice0.serves (by decide +kernel)⟩,
    ⟨Slice0.withBytes (zeros 16) Slice0.up, 0, Slice0.cmd [(0, 0x0603), (16, 4096), (24, 16)], zeros 16, Slice0.serves (by decide +kernel),
      by decide +kernel⟩⟩

/-! ### Host commands of groups 0x07 to 0x0F -/

/-- The smallest quota of every kind. -/
def Slice0.quota : List (Nat × Nat) := [(16, 1), (20, 1), (24, 1), (28, 1), (32, 1)]

/-- TENANT_CREATE of tenant 63 by mailbox 0, as a grant to mailbox 63 and for mailbox 0. -/
theorem test_witness_tenantCreate : ∃ (s : State) (c c' : Cmd), s.serves 0 c 0x0701 ∧ s.serves 0 c' 0x0701 ∧
    (fld c 8 1 ≤ 63 ∧ Tb.has (s.sees 0 c).ten.tenants (fld c 8 1) = false ∧
      ((s.sees 0 c).coming.any fun e => e.1 = fld c 8 1) = false ∧
      ((s.sees 0 c).ten.tenants.map (·.2.stackMib)).sum + ((s.sees 0 c).coming.map (·.2.stackMib)).sum +
        fieldAt (toLE 32 (fld c 16 32)) 0 4 ≤ 503808 ∧ quotaOk (toLE 32 (fld c 16 32)) = true ∧ (s.given 0 c).flag 0 = true ∧
      1 ≤ fld c 9 1 ∧ fld c 9 1 ≤ 63) ∧
    fld c' 8 1 ≤ 63 ∧ Tb.has (s.sees 0 c').ten.tenants (fld c' 8 1) = false ∧
      ((s.sees 0 c').coming.any fun e => e.1 = fld c' 8 1) = false ∧
      ((s.sees 0 c').ten.tenants.map (·.2.stackMib)).sum + ((s.sees 0 c').coming.map (·.2.stackMib)).sum +
        fieldAt (toLE 32 (fld c' 16 32)) 0 4 ≤ 503808 ∧ quotaOk (toLE 32 (fld c' 16 32)) = true ∧ (s.given 0 c').flag 0 = false ∧
      fld c' 9 1 = 0 :=
  ⟨Slice0.up, Slice0.cmd ([(0, 0x0701), (2, 1), (8, 63), (9, 63)] ++ Slice0.quota), Slice0.cmd ([(0, 0x0701), (8, 63)] ++ Slice0.quota),
    Slice0.serves (by decide +kernel), Slice0.serves (by decide +kernel), by decide +kernel, by decide +kernel⟩

/-- TENANT_CREATE by the mailbox of a grant. -/
theorem test_witness_tenantCreateGranted : ∃ (s : State) (m : Fin 64) (c : Cmd) (g : Grant), s.serves m c 0x0701 ∧ m ≠ 0 ∧
    Tb.get (s.sees m c).ten.grants m.val = some g ∧ fld c 8 1 ≤ 63 ∧ Tb.has (s.sees m c).ten.tenants (fld c 8 1) = false ∧
    ((s.sees m c).coming.any fun e => e.1 = fld c 8 1) = false ∧
    ((s.sees m c).ten.tenants.map (·.2.stackMib)).sum + ((s.sees m c).coming.map (·.2.stackMib)).sum + fieldAt g.quota 0 4 ≤ 503808 ∧
    (s.given m c).flag 0 = false ∧ fld c 9 1 = 0 ∧ fld c 16 32 = 0 :=
  ⟨{ Slice0.up with ten.grants := [(63, ⟨63, toLE 32 1, false⟩)] }, 63, Slice0.cmd [(0, 0x0701), (8, 63)], ⟨63, toLE 32 1, false⟩,
    Slice0.serves (by decide +kernel), by decide +kernel⟩

/-- ATTEST of KIND 0, and of KIND 1 for the session at index 3. -/
theorem test_witness_attest : ∀ k ∈ [0, 1], ∃ (s : State) (m : Fin 64) (c : Cmd) (h : Bytes) (y : Session), s.serves m c 0x0702 ∧
    fld c 8 8 % 16 = 0 ∧ (s.given m c).rd .port0 (fld c 8 8) 64 = some h ∧ 1632 ≤ fld c 48 4 ∧ fieldAt h 0 4 = 0x51525441 ∧
    zeroAt h 5 3 = true ∧ zeroAt h 16 48 = true ∧ fieldAt h 4 1 = k ∧ fieldAt h 8 8 = 3 * k ∧
    (s.sees m c).sessOf 3 = some (3, y) ∧ (s.sees m c).routeOf y.tenant = some m.val := by
  refine fun k hk => ⟨Slice0.withBytes (toLE 4 0x51525441 ++ toLE 4 k ++ toLE 8 (3 * k) ++ zeros 48) (Slice0.upS .idle), 0,
    Slice0.cmd [(0, 0x0702), (8, 4096), (48, 1632)], toLE 4 0x51525441 ++ toLE 4 k ++ toLE 8 (3 * k) ++ zeros 48,
    { Slice0.sess with state := .idle, hist := [1, 2, 3] }, Slice0.serves ?_, ?_⟩
  · revert k; decide +kernel
  · revert k; decide +kernel

/-- KEY_ROTATE of each kind. -/
theorem test_witness_keyRotate : ∀ k ∈ [0, 1, 2, 3], ∃ (s : State) (m : Fin 64) (c : Cmd) (i : Nat), s.serves m c 0x0703 ∧
    (s.sees m c).energyOk (.reencrypt (fld c 8 1) 0) 1 (some (fld c 8 1)) = true ∧ fld c 9 1 = k ∧
    fld c 8 1 ≤ 63 ∧ Tb.has (s.sees m c).ten.tenants (fld c 8 1) = true ∧ (s.sees m c).routeOf (fld c 8 1) = some m.val ∧
    (s.sees m c).tenantGen (fld c 8 1) < 0xFFFFFFFF ∧ (s.sees m c).slotRoom = true ∧
    (s.sees m c).freeSlot = some i ∧ ((s.sees m c).ss.sessions.any fun e => e.2.tenant = fld c 8 1) = false ∧
    ((s.sees m c).kv.pages.any fun e => e.2.tenant = fld c 8 1) = false ∧
    ((s.sees m c).st.stores.any fun e => e.2.tenant = fld c 8 1) = false := by
  refine fun k hk => ⟨{ Slice0.up with sec.slots := [(0, { (default : KeySlot) with kind := .current, tenant := 1 })] }, 0,
    Slice0.cmd [(0, 0x0703), (8, 1), (9, k)], 1, Slice0.serves ?_, ?_, ?_⟩
  · revert k; decide +kernel
  · have h : fld (Slice0.cmd [(0, 0x0703), (8, 1), (9, k)]) 8 1 = 1 := by revert k; decide +kernel
    rw [h]
    exact Slice0.energy ⟨.house, 100, 20, estimateUj (.reencrypt 1 0) 1 1, 0xFFF, 2⟩ rfl rfl rfl
      (.tail _ (.tail _ (.tail _ (.tail _ (.tail _ (.head _)))))) rfl (by decide +kernel) (Nat.le_refl _)
  · revert k; decide +kernel


def Slice0.cSched : Cmd := Slice0.cmd [(0, 0x0801), (16, 4096), (24, 32832)]

def Slice0.upB (n : Nat) : State := Slice0.withBytes (zeros n) Slice0.up

theorem Slice0.rdB (n a : Nat) (m : Fin 64) (c : Cmd) (h : n ≠ 0) (ha : a = 4096) : ((Slice0.upB n).given m c).rd .port0 a n = some (zeros n) :=
  Slice0.rd m c rfl rfl ha (by simp [zeros]) h

theorem Slice0.rdW (bs : Bytes) (s : State) (a n : Nat) (m : Fin 64) (c : Cmd) (hs : s.ats.absent = []) (hn : n = bs.length) (h : n ≠ 0)
    (ha : a = 4096) : ((Slice0.withBytes bs s).given m c).rd .port0 a n = some bs :=
  Slice0.rd m c rfl hs ha hn h

/-- SCHED_LOAD of an image of the right length, and where a table is staged. -/
theorem test_witness_schedLoad : ∃ (s s' : State) (m : Fin 64) (c : Cmd) (b : Bytes), s.serves m c 0x0801 ∧ s'.serves m c 0x0801 ∧
    fld c 16 8 % 16 = 0 ∧ (s.sees m c).tk.staged = none ∧ fld c 24 8 = 32832 ∧
    (s.given m c).rd .port0 (fld c 16 8) 32832 = some b ∧ (s'.sees m c).tk.staged.isSome = true :=
  ⟨Slice0.upB 32832, { Slice0.up with tk.staged := some ⟨default, 0, none⟩ }, 0, Slice0.cSched, zeros 32832,
    Slice0.serves (by decide +kernel), Slice0.serves (by decide +kernel), by decide +kernel, by decide +kernel, by decide +kernel,
    Slice0.rdB 32832 _ _ _ (by decide) (by decide +kernel), by decide +kernel⟩

/-- A gate list of one entry that takes over in tick 16. -/
def Slice0.gates : Bytes := toLE 4 0x45544147 ++ toLE 2 1 ++ toLE 2 1 ++ toLE 6 16 ++ zeros 2 ++ zeros 16 ++ toLE 2 0 ++ [0xFF] ++ zeros 5

/-- GATE_LIST_LOAD on the last port, with the earliest takeover. -/
theorem test_witness_gateListLoad : ∃ (s : State) (m : Fin 64) (c : Cmd) (b : Bytes), s.serves m c 0x0802 ∧ fld c 8 1 ≤ 19 ∧
    fld c 16 8 % 16 = 0 ∧ (s.given m c).rd .port0 (fld c 16 8) (Nat.min (fld c 24 8) 288) = some b ∧
    fld c 24 8 = 32 + 8 * fieldAt b 6 2 ∧ gateFields b = true ∧ (s.sees m c).tk.tick + 16 ≤ (gateListOf b).takeover ∧
    (gateListOf b).takeover ≤ (s.sees m c).tk.tick + 2 ^ 32 ∧
    ((s.sees m c).ports[Fin.ofNat 20 (fld c 8 1)]).stagedGates = none :=
  ⟨Slice0.withBytes Slice0.gates Slice0.up, 0, Slice0.cmd [(0, 0x0802), (8, 19), (16, 4096), (24, 40)], Slice0.gates,
    Slice0.serves (by decide +kernel), by decide +kernel⟩

/-- SHAPER_SET of a tenant and of a link at their limits, ENERGY_SET at its limit. -/
theorem test_witness_shapersAndEnergy : ∃ (s : State) (m : Fin 64) (c c' c'' : Cmd), s.serves m c 0x0803 ∧ s.serves m c' 0x0803 ∧
    s.serves m c'' 0x0804 ∧ (1 ≤ fld c 12 4 ∧ 1 ≤ fld c 16 4 ∧ fld c 8 1 = 0 ∧ fld c 10 1 = 0 ∧ fld c 9 1 ≤ 63 ∧
      fld c 12 4 ≤ 2147483647 ∧ fld c 16 4 ≤ 2147483647 ∧ Tb.has (s.sees m c).ten.tenants (fld c 9 1) = true) ∧
    (1 ≤ fld c' 12 4 ∧ 1 ≤ fld c' 16 4 ∧ fld c' 8 1 = 1 ∧ fld c' 10 1 ≤ 6 ∧ fld c' 9 1 ≤ 19 ∧ fld c' 12 4 ≤ 200000 ∧
      fld c' 16 4 ≤ 4096 ∧ (s.given m c').flag 0 = false) ∧ 1 ≤ fld c'' 8 4 ∧ fld c'' 8 4 ≤ 2400 :=
  ⟨Slice0.up, 0, Slice0.cmd [(0, 0x0803), (9, 1), (12, 2147483647), (16, 1)],
    Slice0.cmd [(0, 0x0803), (8, 1), (9, 19), (10, 6), (12, 200000), (16, 4096)], Slice0.cmd [(0, 0x0804), (8, 2400)],
    Slice0.serves (by decide +kernel), Slice0.serves (by decide +kernel), Slice0.serves (by decide +kernel), by decide +kernel, by decide +kernel,
    by decide +kernel⟩

/-- A trace configuration. -/
def Slice0.trace : Bytes := toLE 4 0x47435254 ++ toLE 2 1 ++ toLE 2 64 ++ [1, 15, 0, 0] ++ toLE 4 0x3FFFFF ++ zeros 48

/-- TRACE_CFG, TRACE_TRIGGER, HANG_DUMP, and COUNTERS_READ of group 2. -/
theorem test_witness_trace : ∃ (s : State) (m : Fin 64) (c c1 c2 c3 : Cmd) (b : Bytes) (n : Nat), s.serves m c 0x0901 ∧
    s.serves m c1 0x0902 ∧ s.serves m c2 0x0903 ∧ s.serves m c3 0x0904 ∧
    (fld c 16 8 % 16 = 0 ∧ fld c 24 8 = 64 ∧ (s.given m c).rd .port0 (fld c 16 8) 64 = some b ∧ traceCfgOk b = true) ∧
    (fld c2 16 8 % 16 = 0 ∧ (s.sees m c2).dbg.dumpCmd = none) ∧ fld c3 16 8 % 16 = 0 ∧
    (s.sees m c3).groupLen (fld c3 8 2) = some n ∧ n ≤ fld c3 24 8 :=
  ⟨Slice0.withBytes Slice0.trace Slice0.up, 0, Slice0.cmd [(0, 0x0901), (16, 4096), (24, 64)], Slice0.cmd [(0, 0x0902), (8, 7)],
    Slice0.cmd [(0, 0x0903), (16, 8192), (24, 4096)], Slice0.cmd [(0, 0x0904), (8, 2), (16, 8192), (24, 656)], Slice0.trace, 656,
    Slice0.serves (by decide +kernel), Slice0.serves (by decide +kernel), Slice0.serves (by decide +kernel), Slice0.serves (by decide +kernel),
    by decide +kernel, by decide +kernel, by decide +kernel⟩

/-- The descriptor of a group of this device alone. -/
def Slice0.desc : Bytes := toLE 4 0x50524754 ++ toLE 2 1 ++ [1, 0] ++ toLE 8 9 ++ toLE 4 1000 ++ zeros 44 ++
  toLE 8 Config.deviceId.toNat ++ [0, 0, 0, 0] ++ List.replicate 20 0xFF ++ zeros 32

/-- GROUP_JOIN of a descriptor of one device. -/
def Slice0.cJoin : Cmd := Slice0.cmd [(0, 0x0A01), (16, 4096), (24, 128)]

theorem Slice0.leNat_toLE (k n : Nat) : leNat (toLE k n) = n % 256 ^ k := by
  induction k generalizing n with
  | zero => simp [toLE, leNat, Nat.mod_one]
  | succ k ih =>
    have h : 256 ^ (k + 1) = 256 * 256 ^ k := by rw [Nat.pow_succ, Nat.mul_comm]
    rw [h, Nat.mod_mul]
    simp only [toLE, leNat, ih, BitVec.toNat_ofNat]

/-- The descriptor names this device as rank 0. -/
theorem Slice0.descOwn0 : Sys2Proof.Machine.descOwn Slice0.desc = some 0 := by
  have h : descN Slice0.desc = 1 := by decide +kernel
  have h2 : descId Slice0.desc 0 = leNat (toLE 8 Config.deviceId.toNat) := rfl
  have h3 : Config.deviceId.toNat % 256 ^ 8 = Config.deviceId.toNat := Nat.mod_eq_of_lt Config.deviceId.isLt
  unfold Sys2Proof.Machine.descOwn
  rw [h, show List.range 1 = [0] from rfl]
  simp only [List.find?_cons, h2, Slice0.leNat_toLE, h3, decide_true]

theorem Slice0.descOwn : (Sys2Proof.Machine.descOwn Slice0.desc).isSome = true := by rw [Slice0.descOwn0]; rfl

theorem Slice0.descFields : descFields Slice0.desc = true := by
  have h : descN Slice0.desc = 1 := by decide +kernel
  unfold Sys2Proof.Machine.descFields
  simp only [h, Bool.and_eq_true]
  refine ⟨⟨⟨⟨⟨⟨⟨⟨⟨⟨⟨⟨?_, ?_⟩, ?_⟩, ?_⟩, ?_⟩, ?_⟩, ?_⟩, ?_⟩, ?_⟩, ?_⟩, ?_⟩, ?_⟩, ?_⟩
  all_goals first | decide +kernel | skip
  all_goals simp [List.range, List.range.loop]

/-- GROUP_JOIN of a group of this device alone. -/
theorem test_witness_groupJoin : ∃ (s : State) (m : Fin 64) (c : Cmd) (d : Bytes), s.serves m c 0x0A01 ∧
    (s.given m c).rd .port0 (fld c 16 8) (Nat.min (fld c 24 8) 4160) = some d ∧ descFields d = true ∧ (descOwn d).isSome = true ∧
    (s.sees m c).joinState d = true ∧ ((s.sees m c).joinPorts d fun p id => p.peerId = id) = true ∧
    ((s.sees m c).joinPorts d fun p _ => 0x22 ≤ p.version) = true ∧
    fld c 16 8 % 16 = 0 ∧ fld c 24 8 = 64 + 64 * descN d ∧ (s.sees m c).grp.join = none ∧ (s.sees m c).joinStaged = false :=
  ⟨Slice0.withBytes Slice0.desc { Slice0.up with ten.tenants := [] }, 0, Slice0.cJoin, Slice0.desc, Slice0.serves (by decide +kernel),
    Slice0.rdW Slice0.desc _ _ _ _ _ rfl (by decide +kernel) (by decide +kernel) (by decide +kernel), Slice0.descFields, Slice0.descOwn, by decide +kernel,
    by decide +kernel, by decide +kernel, by decide +kernel⟩

/-- GROUP_SHRINK of the last member. -/
theorem test_witness_groupShrink : ∃ (s : State) (m : Fin 64) (c : Cmd), s.serves m c 0x0A02 ∧ (s.sees m c).glb.inGroup = true ∧
    1 < (s.sees m c).grp.n ∧ fld c 8 1 < (s.sees m c).grp.n ∧ (s.sees m c).grp.shrink = none ∧ (s.sees m c).grp.shrinkCmd = none :=
  ⟨{ Slice0.up with glb.inGroup := true, grp.n := 4 }, 0, Slice0.cmd [(0, 0x0A02), (8, 3)], Slice0.serves (by decide +kernel), by decide +kernel⟩

/-- The image of a route map of epoch 6 without entries. -/
def Slice0.map6 : Bytes := toLE 4 0x50545552 ++ toLE 2 1 ++ zeros 2 ++ toLE 4 6 ++ zeros 6196

/-- ROUTE_MAP_SET of the next epoch. -/
theorem test_witness_routeMapSet : ∃ (s : State) (m : Fin 64) (c : Cmd) (b : Bytes), s.serves m c 0x0A03 ∧
    (s.given m c).rd .port0 (fld c 16 8) 6208 = some b ∧ fld c 16 8 % 16 = 0 ∧ fld c 24 8 = 6208 ∧ routeMapFields b = true ∧
    (routeMapOf b).epoch = (s.sees m c).ten.map.epoch + 1 ∧ (s.sees m c).ten.next = none ∧ (s.sees m c).draining = false :=
  ⟨Slice0.withBytes Slice0.map6 Slice0.up, 0, Slice0.cmd [(0, 0x0A03), (16, 4096), (24, 6208)], Slice0.map6, Slice0.serves (by decide +kernel),
    Slice0.rdW Slice0.map6 _ _ _ _ _ rfl (by decide +kernel) (by decide +kernel) (by decide +kernel), by decide +kernel, by decide +kernel, by decide +kernel,
    by decide +kernel, by decide +kernel, by decide +kernel⟩

/-- SHUTDOWN outside a group, BIST_RESULTS with room for the record. -/
theorem test_witness_shutdownAndBist : ∃ (s : State) (m : Fin 64) (c c' : Cmd), s.serves m c 0x0F01 ∧ s.serves m c' 0x0F02 ∧
    (s.sees m c).glb.inGroup = false ∧ (s.sees m c).ss.reqs = [] ∧ fld c' 16 8 % 16 = 0 ∧ (s.sees m c').bistBytes.length ≤ fld c' 24 8 :=
  ⟨Slice0.up, 0, Slice0.cmd [(0, 0x0F01)], Slice0.cmd [(0, 0x0F02), (16, 4096), (24, 65536)], Slice0.serves (by decide +kernel),
    Slice0.serves (by decide +kernel), by decide +kernel, by decide +kernel, by decide +kernel, by decide +kernel⟩


/-! ### Direct host mode, registers, resets, boards, boot -/

/-- A model with 100 positions and a vocabulary of 10. -/
def Slice0.model : Model := { (default : Model) with
  state := .active, tenantMask := 2, arch := { (default : Arch) with maxPos := 100, vocab := 10 } }

/-- A device in direct host mode with one work entry waiting. -/
def Slice0.direct : State := { Slice0.upS .idle with
  glb.mode := .direct, dci.enable := true, dci.wqLog2 := 4, dci.cqLog2 := 6, dci.wqTail := 1, img.models := [(7, Slice0.model)] }

/-- A reservation of no pages fits. -/
theorem Slice0.fits {s : State} {i n : Nat} {x : Session} {m : Model} (h1 : s.spoolRoom i x (4096 + 8 * n) = true)
    (h2 : (s.grantsEach x.tenant fun v => v.resCharge m.arch.shape x.psize x.condensed (s.dciPages i n) +
      if v.segmentCharge i ≠ 0 then 4096 + 8 * n else 0) = true)
    (h3 : s.dciPages i n = []) : s.dciFits i x m n = .ok () := by
  have hg : s.granulesFit m.arch.shape x.psize x.condensed (s.dciPages i n) = true := by
    unfold State.granulesFit
    rw [h3]
    simp [State.granulesOf]
  unfold State.dciFits State.reserveOk
  rw [h1, h2, hg]
  rfl

/-- CREATE. -/
theorem test_witness_dciCreate : ∃ (s : State) (e : Cmd) (b : Bytes) (r : Nat × List Effect), (s.dciServes e 1 ∧ s.dci.cause ≠ 1 ∧
      fld e 16 8 % 16 = 0 ∧ zeroAt b 48 16 = true ∧ Tb.has s.ten.tenants (fld e 24 1) = true) ∧
    (s.dciFetched).dciRead (fld e 16 8) 64 = .ok b ∧
    (s.dciFetched).view.createSession (fld e 24 1) (fld e 25 1) (digestOf (b.take 48))
      ((Config.freeValue s.freeCtr).truncate 128) = .ok r := by
  have h : ∃ r, ((Slice0.withBytes (zeros 64) Slice0.direct).dciFetched).view.createSession
      (fld (Slice0.cmd [(0, 1), (16, 4096), (24, 1), (25, 16)]) 24 1) (fld (Slice0.cmd [(0, 1), (16, 4096), (24, 1), (25, 16)]) 25 1)
      (digestOf ((zeros 64).take 48)) ((Config.freeValue (Slice0.withBytes (zeros 64) Slice0.direct).freeCtr).truncate 128) = .ok r ∧ _ :=
    Slice0.ok (p := fun _ => true) (by decide +kernel)
  obtain ⟨r, h, -⟩ := h
  exact ⟨Slice0.withBytes (zeros 64) Slice0.direct, Slice0.cmd [(0, 1), (16, 4096), (24, 1), (25, 16)], zeros 64, r,
    ⟨⟨by decide +kernel, by decide +kernel, by decide +kernel, by decide +kernel⟩, by decide +kernel, by decide +kernel, by decide +kernel,
      by decide +kernel⟩, by decide +kernel, h⟩

/-- INPUT of two tokens, STEP, FLYER and DESTROY. -/
theorem test_witness_dciEntries :
    (∃ (s : State) (e : Cmd) (b : Bytes) (i : Nat) (y : Session) (m : Model), (s.dciServes e 2 ∧ s.dci.cause ≠ 1 ∧ 1 ≤ fld e 24 4 ∧
        fld e 24 4 ≤ 1048576 ∧ fld e 16 8 % 16 = 0) ∧ (s.dciFetched).dciRead (fld e 16 8) (4 * fld e 24 4) = .ok b ∧
      (s.dciFetched).dciSession e = .ok (i, y, m) ∧ (∀ t ∈ words4 (fld e 24 4) b, t < m.arch.vocab) ∧
      y.hist.length + fld e 24 4 ≤ m.arch.maxPos ∧ (s.dciFetched).dciFits i y m (fld e 24 4) = .ok ()) ∧
    (∃ (s : State) (e : Cmd) (i : Nat) (y : Session) (m : Model), (s.dciServes e 3 ∧ s.dci.cause ≠ 1 ∧ (dciParams e).inRange = true) ∧
      (s.dciFetched).dciSession e = .ok (i, y, m) ∧ y.hist.length ≠ 0 ∧ y.hist.length < m.arch.maxPos ∧
      (s.dciFetched).dciFits i y m 1 = .ok ()) ∧
    (∃ (s : State) (e : Cmd) (d : Bytes), s.dciServes e 4 ∧ s.flyerBusy e = false ∧ s.waitFailed 64 = none ∧ s.flyerPage e = none ∧ fld e 16 8 % 16 = 0 ∧
      (s.dciFetched).dciRead (fld e 16 8) 80 = .ok d) ∧
    ∃ (s : State) (e : Cmd) (i : Nat) (y : Session), (s.dciServes e 5 ∧ s.dci.cause ≠ 1) ∧
      (s.dciFetched).view.sessOf (dciHandle e) = some (i, y) ∧ y.state = .idle := by
  refine ⟨⟨Slice0.withBytes (zeros 8) Slice0.direct, Slice0.cmd [(0, 2), (8, 3), (16, 4096), (24, 2)], zeros 8, 3,
      { Slice0.sess with state := .idle, hist := [1, 2, 3] }, Slice0.model, ⟨⟨?_, ?_, ?_, ?_⟩, ?_⟩, ?_, ?_, ?_, ?_, Slice0.fits ?_ ?_ ?_⟩,
    ⟨Slice0.direct, Slice0.cmd [(0, 3), (8, 3)], 3,
      { Slice0.sess with state := .idle, hist := [1, 2, 3] }, Slice0.model, ⟨⟨?_, ?_, ?_, ?_⟩, ?_⟩, ?_, ?_, ?_, Slice0.fits ?_ ?_ ?_⟩,
    ⟨Slice0.withBytes (zeros 80) Slice0.direct, Slice0.cmd [(0, 4), (16, 4096)], zeros 80, ⟨?_, ?_, ?_, ?_⟩, ?_⟩,
    ⟨Slice0.direct, Slice0.cmd [(0, 5), (8, 3)], 3, { Slice0.sess with state := .idle, hist := [1, 2, 3] }, ⟨⟨?_, ?_, ?_, ?_⟩, ?_⟩, ?_⟩⟩
  all_goals decide +kernel

/-- A descriptor that fills 16 bytes of host page 16. -/
def Slice0.fill : Bytes := [2, 0, 0, 1, 0, 0, 0, 0, 0, 0, 0, 0, 1, 0, 0, 0] ++ zeros 8 ++ [0, 0, 16, 0, 0, 0, 0, 0, 16, 0, 0, 0] ++ zeros 44

/-- The device in direct host mode with that descriptor where its page is absent, and what has become of the wait for the page. -/
def Slice0.fills (w : Tbl (HostSpace × Nat × Option Status)) : State :=
  { Slice0.withBytes Slice0.fill Slice0.direct with ats.absent := [(.port0, 16)], ats.waits := w }

/-- A FLYER entry that has to wait for a page, and one whose page request has failed. -/
theorem test_witness_dciFlyerWaits :
    ((Slice0.fills []).canFetchDci = true ∧ (Slice0.fills []).flyerBusy (Slice0.cmd [(0, 4), (16, 4096)]) = false ∧
      (Slice0.fills []).waitFailed 64 = none ∧ (Slice0.fills []).flyerPage (Slice0.cmd [(0, 4), (16, 4096)]) = some (.port0, 16)) ∧
    ((Slice0.fills [(64, .port0, 16, some .eTimeout)]).waitOver 64).dciServes (Slice0.cmd [(0, 4), (16, 4096)]) 4 ∧
    (Slice0.fills [(64, .port0, 16, some .eTimeout)]).flyerBusy (Slice0.cmd [(0, 4), (16, 4096)]) = false ∧
    (Slice0.fills [(64, .port0, 16, some .eTimeout)]).waitFailed 64 = some .eTimeout :=
  ⟨by decide +kernel, ⟨by decide +kernel, by decide +kernel, by decide +kernel, by decide +kernel⟩, by decide +kernel, by decide +kernel⟩

/-- The premises of direct host mode. -/
theorem test_witness_directHostMode : Slice0.up.glb.mode = .nci ∧ Slice0.direct.glb.mode = .direct ∧ Slice0.up.glb.mode ≠ .direct ∧
    (∀ ok, ({ Slice0.up with glb.restarting := true, glb.signatureOk := ok } : State).glb.restarting = true ∧
      ({ Slice0.up with glb.restarting := true, glb.signatureOk := ok } : State).glb.signatureOk = ok) ∧ Slice0.up.serving = true ∧ Slice0.direct.serving = false ∧
    Slice0.up.pointReached (Slice0.up.glb.stewardUs + 100000) = false ∧
    ({ Slice0.up with timeUs := 99500, tk.startUs := 99500 } : State).pointReached (0 + 100000) = true := by
  decide +kernel

/-- The premises on mailboxes and queues, with the bounds of the tails. -/
theorem test_witness_queueRegisters :
    (∃ (s : State) (m m' : Fin 64), s.mmio = true ∧ ((s.mbx[m]).enabled = false ∧ (s.mbx[m]).configOk = true) ∧
      (s.mbx[m']).enabled = false ∧ (s.mbx[m']).configOk = false) ∧
    (∃ (s : State) (m : Fin 64), s.mmio = true ∧ (s.mbx[m]).enable = true ∧ s.glb.inGroup = false) ∧
    (∃ (s : State) (v v' v'' : Word32), s.mmio = true ∧ s.dci.enable = false ∧ v.getLsbD 0 = true ∧ v'.getLsbD 0 = false ∧
      v'' = 16#32) ∧
    ∃ (s : State) (v v' v'' : Word32), s.mmio = true ∧ s.dci.enable = true ∧ s.dci.stopped = false ∧ v.getLsbD 0 = true ∧
      v'.toNat % 65536 < 2 ^ s.dci.wqLog2.toNat ∧ 2 ^ s.dci.wqLog2.toNat ≤ v''.toNat % 65536 ∧ v'.toNat + 1 = v''.toNat :=
  ⟨⟨{ Slice0.up with mbx := (Vector.replicate 64 Mailbox.reset).set 0 { Mailbox.reset with sqLog2 := 6, cqLog2 := 6, sqBase := 4096, cqBase := 8192, shadow := 12288 } }, 0, 1,
      by decide +kernel⟩, ⟨Slice0.up, 63, by decide +kernel⟩, ⟨Slice0.up, 1, 0, 16, by decide +kernel⟩,
    ⟨Slice0.direct, 1, 15, 16, by decide +kernel⟩⟩

/-- The premises on writes: a virtual function, a page of the physical function at its bounds, SRC in direct host mode. -/
theorem test_witness_registerWrites : ∃ (s s' : State) (f : Fin 64) (off off' : BitVec 24) (v : Word32), s.mmio = true ∧ s'.mmio = true ∧ s.bar = true ∧ f ≠ 0 ∧
    0x10000 ≤ off.toNat ∧ off'.toNat < 0x50000 ∧ off'.toNat + 1 = 0x50000 ∧ off.toNat = 0x10000 ∧ s'.glb.mode = .direct ∧
    v.toNat % 4 ≠ 3 ∧ s.glb.mode ≠ .direct :=
  ⟨Slice0.up, Slice0.direct, 63, 0x10000, 0x4FFFF, 2, by decide +kernel⟩

/-- The premises of the resets and of the board's faults. -/
theorem test_witness_resetsAndFaults : Slice0.up.mmio = true ∧ Slice0.up.bar = true ∧ State.reset.bar = false ∧ Slice0.up.glb.inGroup = false ∧
    Slice0.up.glb.mode ≠ .halted := by decide +kernel

/-- The premises of the JTAG commands. -/
theorem test_witness_jtag : (∃ s : State, s.glb.bistFail = true ∧ s.glb.bootStage = 3) ∧ (∃ s : State, s.glb.lifecycle.open_ = true) ∧
    ∃ s : State, s.glb.bistFail = false ∧ s.glb.lifecycle.open_ = false :=
  ⟨⟨{ State.reset with glb.bistFail := true, glb.bootStage := 3 }, by decide +kernel⟩,
    ⟨{ State.reset with glb.lifecycle := .rma }, by decide +kernel⟩, ⟨State.reset, by decide +kernel⟩⟩

/-- The premises of boot, each of its ends among them. -/
theorem test_witness_boot : (State.reset.glb.mode = .boot ∧ State.reset.glb.bootStage = 0) ∧
    ∀ l ∈ [Lifecycle.blank, .scrapped, .field], ∀ ok r, ∃ s : State, s.glb.mode = .boot ∧ s.glb.bootStage = 2 ∧ s.glb.lifecycle = l ∧
      s.glb.signatureOk = ok ∧ (r = true ↔ s.bistStops = true) := by
  refine ⟨by decide +kernel, fun l hl ok r => ⟨{ State.reset with
    glb.bootStage := 2, glb.lifecycle := l, glb.signatureOk := ok, pwr.record := if r then some (2, [⟨19, 1, 0⟩], []) else none }, ?_⟩⟩
  revert l ok r
  decide +kernel


/-! ### Ticks, power, slots, units -/

/-- A member of a group of four. -/
def Slice0.member (r : Nat) : State := { Slice0.up with glb.inGroup := true, glb.rank := r, grp.n := 4, grp.members := [10, 11, 12, 13] }

/-- A descriptor of two members that names this device as rank 1. -/
def Slice0.desc1 : Bytes := zeros 6 ++ [2, 0] ++ zeros 56 ++ toLE 8 (Config.deviceId.toNat + 1) ++ zeros 56 ++ toLE 8 Config.deviceId.toNat ++ zeros 56

theorem Slice0.descOwn1 : Sys2Proof.Machine.descOwn Slice0.desc1 = some 1 := by
  have h : descN Slice0.desc1 = 2 := by decide +kernel
  have h2 : descId Slice0.desc1 0 = leNat (toLE 8 (Config.deviceId.toNat + 1)) := rfl
  have h3 : descId Slice0.desc1 1 = leNat (toLE 8 Config.deviceId.toNat) := rfl
  have h4 : Config.deviceId.toNat < 2 ^ 64 := Config.deviceId.isLt
  have h5 : (Config.deviceId.toNat + 1) % 256 ^ 8 ≠ Config.deviceId.toNat := by omega
  have h6 : Config.deviceId.toNat % 256 ^ 8 = Config.deviceId.toNat := Nat.mod_eq_of_lt h4
  unfold Sys2Proof.Machine.descOwn
  rw [h, show List.range 2 = [0, 1] from rfl]
  simp only [List.find?_cons, h2, h3, Slice0.leNat_toLE, h6, h5, decide_true, decide_false]

/-- A device that measures its pin delay. -/
def Slice0.joining : State := { Slice0.up with grp.join := some Slice0.desc1, grp.joinTick := some 9, tk.pinMark := some 1000 }

/-- The premises on tick inputs, each at its bound. -/
theorem test_witness_tickInputs : (Slice0.member 1).follows = true ∧ Slice0.up.follows = false ∧ (0#48).toNat = (Slice0.member 1).tk.tick ∧
    (1#48).toNat ≠ (Slice0.member 1).tk.tick ∧
    (∃ s : State, s.follows = true ∧ s.tk.src = 0 ∧ s.tk.onMarker = false ∧ s.tk.toMarker = false ∧ 2 ≤ s.edgeless) ∧
    (∃ s : State, s.follows = true ∧ s.tk.src = 0 ∧ s.tk.onMarker = true ∧ 64 ≤ s.tk.goodEdges ∧ s.tk.tick % 64 = 0) ∧
    (∃ s : State, s.follows = true ∧ s.tk.awaited = true ∧ 1 ≤ s.tk.missedBeats) ∧
    (∃ s : State, s.follows = true ∧ s.tk.awaited = true ∧ s.tk.src = 1) ∧ (Slice0.member 1).measures = false ∧
    ∃ (s : State) (us a b : Nat), s.follows = false ∧ s.measures = true ∧ a = Nat.max s.timeUs (s.tk.edgeUs + us) ∧
      s.tk.pinMark = some b ∧ 2 * (a - b + (b - a)) < s.tickUs :=
  ⟨by decide +kernel, by decide +kernel, by decide +kernel, by decide +kernel,
    ⟨{ Slice0.member 3 with tk.missedEdges := 2, tk.awaited := true }, by decide +kernel⟩,
    ⟨{ Slice0.member 3 with tk.onMarker := true, tk.goodEdges := 64, tk.tick := 64 }, by decide +kernel⟩,
    ⟨{ Slice0.member 3 with tk.awaited := true, tk.missedBeats := 1 }, by decide +kernel⟩,
    ⟨{ Slice0.member 3 with tk.awaited := true, tk.src := 1 }, by decide +kernel⟩, by decide +kernel,
    ⟨Slice0.joining, 1001, 1001, 1000, by decide +kernel, by
      show (true && decide ((Sys2Proof.Machine.descOwn Slice0.desc1).getD 0 ≠ 0)) = true
      rw [Slice0.descOwn1]; rfl, by decide +kernel, rfl, by decide +kernel⟩⟩

/-- The device in tick `n`, the whorl before settled. -/
def Slice0.at (n : Nat) : State := { Slice0.up with tk.tick := n, pwr.settled := n / 64 - 1 }

/-- The premises on whorl boundaries, rows and the ledger. -/
theorem test_witness_whorls : (Slice0.at 63).tk.tick % 64 ≠ 0 ∧
    ((Slice0.at 64).tk.tick % 64 = 0 ∧ (Slice0.at 64).ticking = true ∧ (Slice0.at 64).pwr.settled < (Slice0.at 64).tk.tick / 64 ∧
      (Slice0.at 64).tableDue = false ∧ (Slice0.at 64).pwr.chosen = none) ∧
    (Slice0.at 64).row[(4 : Fin 16).val]?.isSome = true ∧ (Slice0.at 64).row[(15 : Fin 16).val]? = none ∧
    ∃ s : State, s.pwr.chosen = some (true, 64) ∧ s.ticking = true ∧ 64 ≤ s.tk.tick :=
  ⟨by decide +kernel, by decide +kernel, by decide +kernel, by decide +kernel, ⟨{ Slice0.at 64 with pwr.chosen := some (true, 64) }, by decide +kernel⟩⟩

/-- The premises on schedule activation, verdicts and their deadlines, each at its bound. -/
theorem test_witness_scheduleActivation :
    (∃ (s : State) (g : StagedTable), s.tk.staged = some g ∧ s.ticking = true ∧ s.tk.tick = g.table.startTick ∧ s.glb.inGroup = true ∧
      g.verdict = some true) ∧
    (∃ (s : State) (g : StagedTable), s.tk.staged = some g ∧ s.tk.tick ≠ g.table.startTick) ∧
    (∃ (s : State) (b : Nat), s.tk.verdictBy = some b ∧ s.ticking = true ∧ s.glb.inGroup = true ∧ s.glb.rank = 0 ∧
      s.tk.verdictSent = false ∧ b ≤ s.tk.tick ∧ (∃ r, r < s.grp.n ∧ Tb.has s.tk.digests r = false) ∧ ∃ e ∈ s.tk.digests, e.2 ≠ (0, 0)) ∧
    Slice0.up.tk.verdictBy = none ∧
    (∃ (s : State) (g : StagedTable), s.tk.staged = some g ∧ s.follows = true ∧ g.verdict = none ∧ g.table.startTick ≤ s.tk.tick + 52) ∧
    ∃ (s : State) (g : StagedTable), s.tk.staged = some g ∧ s.tk.tick + 52 < g.table.startTick :=
  ⟨⟨{ Slice0.member 1 with tk.staged := some ⟨default, 0, some true⟩ }, ⟨default, 0, some true⟩, by decide +kernel⟩,
    ⟨{ Slice0.up with tk.staged := some ⟨{ (default : SchedTable) with startTick := 1 }, 0, none⟩ },
      ⟨{ (default : SchedTable) with startTick := 1 }, 0, none⟩, by decide +kernel⟩,
    ⟨{ Slice0.member 0 with tk.verdictBy := some 0, tk.digests := [(1, (1, 2))] }, 0, by decide +kernel, by decide +kernel, by decide +kernel,
      by decide +kernel, by decide +kernel, by decide +kernel, ⟨3, by decide +kernel⟩, (1, (1, 2)), .head _, by decide⟩, by decide +kernel,
    ⟨{ Slice0.member 3 with tk.staged := some ⟨{ (default : SchedTable) with startTick := 52 }, 0, none⟩ },
      ⟨{ (default : SchedTable) with startTick := 52 }, 0, none⟩, by decide +kernel⟩,
    ⟨{ Slice0.member 3 with tk.staged := some ⟨{ (default : SchedTable) with startTick := 53 }, 0, none⟩ },
      ⟨{ (default : SchedTable) with startTick := 53 }, 0, none⟩, by decide +kernel⟩⟩

/-- A unit of a kind. -/
def Slice0.unit (k : UnitKind) : UnitRec := { (default : UnitRec) with kind := k, cls := k.cls }

/-- The device with a unit that runs in slot 2 as unit 0. -/
def Slice0.run (k : UnitKind) (s : State) : State := { s with work.running := [(2, Slice0.unit k)] }

/-- The start of a slot, the end of one that runs a unit, and a unit abandoned 256 times. -/
theorem test_witness_slots :
    (∃ (s : State) (k : Fin 16) (e : SlotEntry), s.row[k.val]? = some e ∧ s.ticking = true ∧ s.tk.awaited = false ∧ s.boundaryDue = false ∧
      s.tk.windowOpen = false ∧ s.timeUs ≤ s.tk.startUs + e.startUs ∧ s.tk.slots = []) ∧
    (∃ (s : State) (k : Fin 16) (e : SlotEntry), s.row[k.val]? = some e ∧ s.ticking = true ∧ (∃ x ∈ s.tk.slots, x.1 = k.val) ∧
      s.work.running ≠ []) ∧
    ∃ (s : State) (u : Nat) (v : UnitRec), s.work.queue[u]? = some v ∧ 256 ≤ v.abandons :=
  ⟨⟨{ Slice0.at 64 with pwr.settled := 1 }, 4, ⟨.empty, 80, 20, 0, 0, 0⟩, by decide +kernel⟩,
    ⟨Slice0.run (.prune 1) { Slice0.at 1 with tk.table := ⟨0, 500, 0, [[], [⟨.empty, 0, 20, 0, 0, 0⟩]]⟩, tk.slots := [(0, 0)] }, 0,
      ⟨.empty, 0, 20, 0, 0, 0⟩, by decide +kernel⟩,
    ⟨{ Slice0.up with work.queue := [{ Slice0.unit (.prune 1) with abandons := 256 }] }, 0, { Slice0.unit (.prune 1) with abandons := 256 }, by decide +kernel⟩⟩

/-- Units of a request that run: TOKENIZE, PREFIX_LOOKUP, PREFILL_SLICE and DECODE_STEP. -/
theorem test_witness_requestUnits : ∀ k ∈ [UnitKind.tokenize 5, .lookup 3, .prefill 3, .decode 5], ∃ (s : State) (u : Nat) (v : UnitRec),
    s.work.running[u]? = some (2, v) ∧ v.kind = k :=
  fun k _ => ⟨Slice0.run k Slice0.up, 0, Slice0.unit k, rfl, rfl⟩

/-- A request whose next DECODE unit is due, with and without room in its ring, and one whose stall hold ends. -/
theorem test_witness_decodeWaits :
    (∀ n ∈ [0, 1024], ∃ (s : State) (r : Nat) (q : Req), Tb.get s.ss.reqs r = some q ∧ s.ticking = true ∧ s.wantsDecode r q = true ∧
      q.hasRoom = decide (n = 0) ∧ (q.ringWaitUs = some 0 ∨ n = 0) ∧ 0 + 10000000 ≤ s.tk.startUs + s.tickUs) ∧
    ∃ (s : State) (r d : Nat) (q : Req), Tb.get s.view.ss.reqs r = some q ∧ q.stallUntilUs = some d ∧ q.phase = .stalled ∧ q.cancel = none ∧
      s.holdEnded r = false ∧ d ≤ s.tk.startUs + s.tickUs := by
  refine ⟨fun n hn => ⟨{ Slice0.upR .decode with
      ss.reqs := [(5, { Slice0.req .decode with ringCount := 1024, producer := n, ringWaitUs := if n = 0 then none else some 0, maxNew := 9 })]
      tk.startUs := 10000000 }, 5,
      { Slice0.req .decode with ringCount := 1024, producer := n, ringWaitUs := if n = 0 then none else some 0, maxNew := 9 }, ?_⟩,
    ⟨{ Slice0.upR .stalled with ss.reqs := [(5, { Slice0.req .stalled with stallUntilUs := some 500 })] }, 5, 500,
      { Slice0.req .stalled with stallUntilUs := some 500 }, by decide +kernel⟩⟩
  revert n
  decide +kernel

/-- Units of the device's upkeep that run, each with what it works on. -/
theorem test_witness_upkeepUnits : (∀ k ∈ [UnitKind.prune 1, .sweep 1, .reencrypt 1 0, .modelFree 7, .adapterFree 1 1, .bistUpkeep, .searchPass 1 0],
      ∃ (s : State) (u : Nat) (v : UnitRec), s.work.running[u]? = some (2, v) ∧ v.kind = k) ∧
    (∃ (s : State) (u : Nat) (v : UnitRec) (st : Store), s.work.running[u]? = some (2, v) ∧ v.kind = .compact 255 ∧
      Tb.get s.st.stores 255 = some st ∧ st.compact = some (0, some 4, [])) ∧
    ∃ (s : State) (u : Nat) (v : UnitRec) (m : SessMove) (x : Session), s.work.running[u]? = some (2, v) ∧ v.kind = .sessionMove 3 ∧
      Tb.get s.grp.moves 3 = some m ∧ Tb.get s.ss.sessions 3 = some x ∧ s.moveReady 3 m = true :=
  ⟨fun k _ => ⟨Slice0.run k Slice0.up, 0, Slice0.unit k, rfl, rfl⟩,
    ⟨Slice0.run (.compact 255) { Slice0.up with st.stores := [(255, { Slice0.store [] with compact := some (0, some 4, []) })] }, 0,
      Slice0.unit (.compact 255), { Slice0.store [] with compact := some (0, some 4, []) }, by decide +kernel⟩,
    ⟨Slice0.run (.sessionMove 3) { Slice0.upS .idle with grp.moves := [(3, ⟨false, false, false, false, some 0, none, (0, 0)⟩)] }, 0,
      Slice0.unit (.sessionMove 3), ⟨false, false, false, false, some 0, none, (0, 0)⟩,
      { Slice0.sess with state := .idle, hist := [1, 2, 3] }, by decide +kernel⟩⟩


/-! ### Tiles, commit points, background work -/

/-- A tile of a revival that can be read has effects, whatever it holds. -/
theorem Slice0.reviveEffects {s : State} {v i stamp : Nat} {r : Revival} {p : ParkStore} {b : Bytes} {x : Session}
    (h1 : Tb.get s.ss.revivals v = some r) (h2 : s.parkStore r.store stamp = some p)
    (h3 : s.readStore p (r.offset + 65536 * (1 + i)) 65536 = some b) (h4 : Tb.get s.ss.sessions r.session = some x) :
    ∃ effs, s.reviveTileEffects v i stamp = some effs := by
  unfold State.reviveTileEffects
  rw [h1]
  simp only [Option.bind_eq_bind, Option.bind_some, h2, h3, h4]
  repeat' split
  all_goals exact ⟨_, rfl⟩

theorem Slice0.readZeros (n a : Nat) (s : State) (p : ParkStore) {off : Nat} (h : s.host p.space = Memory.writeN [] a (zeros n))
    (ha : p.base + off = a) (hr : s.reaches p.space = true) : s.readStore p off n = some (zeros n) := by
  have h1 := Slice0.readN [] (zeros n) a 0 n (by simp [zeros])
  rw [List.drop_zero, List.take_of_length_le (by simp [zeros]), Nat.add_zero] at h1
  unfold State.readStore State.readHost
  rw [h, ha, if_pos hr]
  exact h1

/-- A copy of the session at index 3 to store 0 with one tile. -/
def Slice0.copy : Copy := { newCopy 3 (.park 0 0 4096 .port0 false) (some 1) true 65536 1 with tiles := [(0, zeros 4)] }

/-- A revival whose tiles start at the second 64 KiB of store 0. -/
def Slice0.revival : Revival :=
  { session := 3, fresh := false, cmd := some 1, header := [], tags := [], key := [], store := 0, offset := 0, recompute := false
    slice := 64, nData := 1, plain := [], resPages := [], before := none }

/-- A checkpoint to store 0 with one tile. -/
def Slice0.chkpt : Checkpoint :=
  { cmd := some 1, accepting := 0, store := 0, offset := 0, limit := 65536, reelAddr := 0, reelLen := 528, step := 1, tiles := [(0, zeros 4)], owners := [none]
    written := 0, shardLen := 0, sessions := 0, digest := 0, reports := [], ends := [], kept := [], handoffs := [], tenants := 2, epoch := 5 }

/-- The device with all three under way, with `n` bytes of store 0 from its offset `n` on. -/
def Slice0.tiles (n : Nat) (k : UnitKind) : State := Slice0.run k { Slice0.upS .parking with
  ss.copies := [(1, Slice0.copy)], ss.revivals := [(1, Slice0.revival)], chkpt := some Slice0.chkpt
  host0 := Memory.writeN [] n (zeros n) }

theorem Slice0.tilesRead (n : Nat) (k : UnitKind) : (Slice0.tiles n k).readStore ⟨0, 0, 1, 0, 1048576, 2⟩ n n = some (zeros n) :=
  Slice0.readZeros n n _ _ rfl (Nat.zero_add n) rfl

/-- Tiles of a park, a revival and a checkpoint that run, and queued ones that have taken too long. -/
theorem test_witness_tileUnits :
    (∃ effs, (Slice0.tiles 65536 (.parkTile 1 0)).parkTileEffects 1 0 0 = some effs) ∧
    (∃ effs, (Slice0.tiles 65536 (.reviveTile 1 0)).reviveTileEffects 1 0 0 = some effs) ∧
    (∃ effs, (Slice0.tiles 65536 (.chkptTile 0)).chkptTileEffects 0 0 = some effs) ∧
    ∀ k ∈ [UnitKind.parkTile 1 0, .reviveTile 1 0, .chkptTile 0], ∃ v : UnitRec, v.key.stamp = 0 ∧ v.kind = k ∧ v.paused = none ∧
      (Slice0.tiles 65536 k).work.running[(0 : Nat)]? = some (2, v) ∧ (Slice0.tiles 65536 k).unitAt 0 = some (some 2, v) ∧
      ∀ p, (Slice0.tiles 65536 k).tilePlace v = some p → (Slice0.tiles 65536 k).absentPage p.1 p.2.1 p.2.2 = none := by
  refine ⟨Option.isSome_iff_exists.mp (by decide +kernel), Slice0.reviveEffects (r := Slice0.revival) (p := ⟨0, 0, 1, 0, 1048576, 2⟩)
    (b := zeros 65536) (x := { Slice0.sess with state := .parking, hist := [1, 2, 3] }) rfl rfl ?_ rfl, Option.isSome_iff_exists.mp (by decide +kernel), fun k hk => ⟨Slice0.unit k, rfl, rfl, rfl, rfl, rfl, fun p _ => rfl⟩⟩
  rw [show Slice0.revival.offset + 65536 * (1 + 0) = 65536 by decide +kernel]
  exact Slice0.tilesRead 65536 (.reviveTile 1 0)

/-- The digest of no bytes (FIPS 180-4). -/
def Slice0.sha0 : Bytes := [0x38, 0xb0, 0x60, 0xa7, 0x51, 0xac, 0x96, 0x38, 0x4c, 0xd9, 0x32, 0x7e, 0xb1, 0xb1, 0xe3, 0x6a, 0x21, 0xfd, 0xb7,
  0x11, 0x14, 0xbe, 0x07, 0x43, 0x4c, 0x0c, 0xc7, 0xbf, 0x63, 0xf6, 0xe1, 0xda, 0x27, 0x4e, 0xde, 0xbf, 0xe7, 0x6f, 0x65, 0xfb, 0xd5, 0x1a,
  0xd2, 0xf1, 0x48, 0x98, 0xb9, 0x5b]

/-- A model whose chunk 0 has no bytes. -/
def Slice0.loading (d : Bytes) : Model := { (default : Model) with state := .loading, head := zeros 512 ++ d, need := [0], cmd := some 1 }

/-- The chunk of that model is read, or fails its digest where the table has another one; in a group too. -/
theorem test_witness_modelChunks : ∀ gr : Bool, ∃ (s : State) (m m' : Model), s.readChunk m 0 = .ok [] ∧ s.readChunk m' 0 = .error .eDigest ∧
    (m.state = .loading ∧ 0 ∈ m.need ∧ m.need.filter (· != 0) = [] ∧ m.group = gr ∧
      s.hostAbsent .port0 (m.addr + chunkOffset m.hdr 0) = false) ∧
    (m'.state = .loading ∧ 0 ∈ m'.need ∧ m'.group = gr ∧ s.hostAbsent .port0 (m'.addr + chunkOffset m'.hdr 0) = false) := by
  refine fun gr => ⟨Slice0.up, { Slice0.loading Slice0.sha0 with group := gr }, { Slice0.loading (zeros 48) with group := gr }, ?_⟩
  revert gr
  decide +kernel

/-- A re-shard tile, a model that is loaded, the exchange of a group's load on its lowest rank and on another, an exchange that waits
and ones that apply now and later. -/
theorem test_witness_modelLoads : (Slice0.unit (.reshard 7 0)).kind = .reshard 7 0 ∧
    (∀ gr : Bool, ∃ (s : State) (m : Model), Tb.get s.img.models 7 = some m ∧ m.state = .loading ∧ m.loaded = true ∧ m.group = gr) ∧
    (∀ r ∈ [0, 1], ∃ (s : State) (d : Digest) (e : Exchange), s.exchangeBy d = some (1, e) ∧ Tb.get s.img.exchanges 1 = some e ∧ s.glb.rank = r) ∧
    (∃ (s : State) (e : Exchange), Tb.get s.img.exchanges 1 = some e ∧ s.glb.rank = 0 ∧ e.applyTick = none ∧ s.pointReached e.waitUs = true) ∧
    ∀ n ∈ [0, 1], ∃ (s : State) (e : Exchange), Tb.get s.img.exchanges 1 = some e ∧ e.applyTick = some n ∧ s.ticking = true ∧
      (n ≤ s.tk.tick ↔ n = 0) := by
  refine ⟨rfl, fun gr => ⟨{ Slice0.up with img.models := [(7, { Slice0.loading [] with loaded := true, group := gr })] },
      { Slice0.loading [] with loaded := true, group := gr }, ?_⟩,
    fun r hr => ⟨{ Slice0.member r with img.exchanges := [(1, ⟨.model 7, 5, none, 0, 500, false, [], none, 0, 0⟩)] }, 5,
      ⟨.model 7, 5, none, 0, 500, false, [], none, 0, 0⟩, ?_⟩,
    ⟨{ Slice0.member 0 with img.exchanges := [(1, ⟨.checkpoint, 0, none, 0, 500, false, [], none, 0, 0⟩)] },
      ⟨.checkpoint, 0, none, 0, 500, false, [], none, 0, 0⟩, by decide +kernel⟩,
    fun n hn => ⟨{ Slice0.member 0 with img.exchanges := [(1, ⟨.checkpoint, 0, none, 0, 500, false, [], some n, 0, 0⟩)] },
      ⟨.checkpoint, 0, none, 0, 500, false, [], some n, 0, 0⟩, ?_⟩⟩
  · revert gr; decide +kernel
  · revert r; decide +kernel
  · revert n; decide +kernel

/-- The window is closed and opens, is open in a group whose coordinator has not decided, and a unit in doubt for 64 ticks. -/
theorem test_witness_commitWindow :
    (Slice0.up.ticking = true ∧ Slice0.up.tk.windowOpen = false ∧ Slice0.up.tk.slots = [] ∧ Slice0.up.tk.awaited = false ∧ Slice0.up.tableDue = false ∧
      Slice0.up.serving = true ∧ Slice0.up.grp.n ≤ 1 ∧ Slice0.up.glb.inGroup = false) ∧
    (∃ (s : State) (k : UnitKey), s.ticking = true ∧ s.tk.windowOpen = true ∧ 1 < s.grp.n ∧ k ∈ s.undecided) ∧
    (∃ s : State, s.ticking = true ∧ s.tk.windowOpen = true ∧ 1 < s.grp.n ∧ s.undecided = []) ∧
    ∃ (s : State) (i : Item) (v : UnitRec) (x : Session), s.work.inDoubt[(0 : Nat)]? = some (0, i) ∧ 0 + 64 ≤ s.tk.tick ∧ i.unit = some v ∧
      i.session = some 3 ∧ Tb.get s.ss.sessions 3 = some x ∧ 1 < x.hist.length :=
  ⟨by decide +kernel,
    ⟨{ Slice0.member 0 with tk.windowOpen := true, work.votes := [(⟨0, 3, 1⟩, 1, true)] }, ⟨0, 3, 1⟩, by decide +kernel⟩,
    ⟨{ Slice0.member 1 with tk.windowOpen := true }, by decide +kernel⟩,
    ⟨{ Slice0.upS .idle with tk.tick := 64, work.inDoubt := [(0, ⟨some (Slice0.unit (.prefill 3)), 2, some 3, []⟩)] },
      ⟨some (Slice0.unit (.prefill 3)), 2, some 3, []⟩, Slice0.unit (.prefill 3), { Slice0.sess with state := .idle, hist := [1, 2, 3] },
      rfl, by decide, rfl, rfl, rfl, by decide⟩⟩

/-- A query of store 255 that ends with the coming commit point. -/
def Slice0.query : Query := { (default : Query) with store := 255, cmd := some 1, deadlineUs := 500 }

/-- Deadlines of queries, purges, dumps, held output, route maps, retirements. -/
theorem test_witness_backgroundEnds :
    (∃ s : State, Tb.get s.st.queries 1 = some Slice0.query ∧ s.ticking = true ∧ Slice0.query.deadlineUs ≤ s.tk.startUs + s.tickUs ∧
      s.work.steward = []) ∧
    (∃ (s : State) (x : Purge), Tb.get s.kv.purges 1 = some x ∧ x.cmd = some 1 ∧ s.ticking = true ∧ x.deadlineUs ≤ s.tk.startUs + s.tickUs) ∧
    (∃ s : State, s.dbg.dumpCmd = some (1, 500, 0) ∧ s.pointReached 500 = true) ∧
    (∃ (s : State) (x : Session) (h : HeldOutput), Tb.get s.ss.sessions 3 = some x ∧ x.held = some h ∧ Tb.has s.ss.claims 3 = false ∧
      s.pointReached h.untilUs = true ∧ s.work.steward = []) ∧
    (∃ (s : State) (m : RouteMap), s.ten.old = some (m, 500, 0) ∧ s.pointReached 500 = true) ∧
    ∃ (s : State) (m : Model), Tb.get s.img.models 7 = some m ∧ m.state = .retiring ∧ s.pointReached m.drainUs = true :=
  ⟨⟨{ Slice0.up with st.queries := [(1, Slice0.query)] }, by decide +kernel⟩,
    ⟨{ Slice0.up with kv.purges := [(1, ⟨1, [], 500, some 1⟩)] }, ⟨1, [], 500, some 1⟩, by decide +kernel⟩,
    ⟨{ Slice0.up with dbg.dumpCmd := some (1, 500, 0) }, by decide +kernel⟩,
    ⟨{ Slice0.up with ss.sessions := [(3, { Slice0.sess with held := some ⟨4, 500, [], none⟩ })] }, { Slice0.sess with held := some ⟨4, 500, [], none⟩ },
      ⟨4, 500, [], none⟩, by decide +kernel⟩,
    ⟨{ Slice0.up with ten.old := some (RouteMap.epoch0, 500, 0) }, RouteMap.epoch0, by decide +kernel⟩,
    ⟨{ Slice0.up with img.models := [(7, { (default : Model) with state := .retiring, drainUs := 500 })] },
      { (default : Model) with state := .retiring, drainUs := 500 }, by decide +kernel⟩⟩

/-- Ends of a checkpoint, with room for its reel and without, of a vault write and of a route map that waits. -/
theorem test_witness_backgroundEnds2 :
    (∀ n ∈ [527, 528], ∃ (s : State) (k : Checkpoint), s.chkpt = some k ∧ k.cmd = some 1 ∧ s.ticking = true ∧ s.work.steward = [] ∧
      (∀ r, r < Nat.max s.grp.n 1 → Tb.has k.reports r = true) ∧
      (k.reelLen < reelLenOf (Nat.max s.grp.n 1) k.handoffs.length ↔ n = 527)) ∧
    (∃ (s : State) (j : VaultJob), s.sec.vaultJobs = [j] ∧ j.finished = false) ∧
    ∃ (s : State) (m : RouteMap), s.ten.next = some (m, 0) ∧ s.ticking = true ∧ 0 ≤ s.tk.tick := by
  refine ⟨fun n hn => ⟨{ Slice0.up with chkpt := some { Slice0.chkpt with reelLen := n, reports := [(0, (0, 0, 0))] } },
      { Slice0.chkpt with reelLen := n, reports := [(0, (0, 0, 0))] }, ?_⟩,
    ⟨{ Slice0.up with sec.vaultJobs := [⟨.dropKept 1, some 1, false⟩] }, ⟨.dropKept 1, some 1, false⟩, by decide +kernel⟩,
    ⟨{ Slice0.up with ten.next := some (RouteMap.epoch0, 0) }, RouteMap.epoch0, by decide +kernel⟩⟩
  revert n
  decide +kernel


/-! ### Handoffs and group messages -/

/-- The device with a handoff 7 of a kind: as its source, or as its destination. -/
def Slice0.src (x : HandoffSrc) : State := { Slice0.upS .offered with ss.srcs := [(7, x)] }

def Slice0.dst (x : HandoffDst) : State := { Slice0.upS .accepting with ss.dsts := [(7, x)] }

/-- The five deadlines of a handoff. -/
theorem test_witness_handoffDeadlines :
    (∃ (s : State) (x : HandoffSrc), Tb.get s.ss.srcs (7#64).toNat = some x ∧ x.deadlineUs = some 500 ∧ x.restored = false ∧ x.reverted = false ∧
      x.aborted = none ∧ s.pointReached 500 = true) ∧
    (∃ (s : State) (x : HandoffDst), Tb.get s.ss.dsts (7#64).toNat = some x ∧ x.deadlineUs = some 500 ∧ x.owned = false ∧ s.pointReached 500 = true) ∧
    (∃ (s : State) (x : HandoffDst), Tb.get s.ss.dsts (7#64).toNat = some x ∧ x.nextQueryUs = some 500 ∧ x.owned = false ∧ x.deadlineUs = none ∧
      s.pointReached 500 = true) ∧
    (∃ (s : State) (x : HandoffSrc), Tb.get s.ss.dsts (7#64).toNat = none ∧ Tb.get s.ss.srcs (7#64).toNat = some x ∧ x.deadlineUs = some 500 ∧
      x.restored = true ∧ x.reverted = false ∧ s.pointReached 500 = true) ∧
    ∃ (s : State) (x : HandoffDst), Tb.get s.ss.dsts (7#64).toNat = some x ∧ x.cmd = some 1 ∧ x.owned = false ∧ x.session.isSome = true ∧
      x.by_ = none ∧ x.aborted = none ∧ s.pointReached x.settleUs = true :=
  ⟨⟨Slice0.src { (default : HandoffSrc) with deadlineUs := some 500 }, { (default : HandoffSrc) with deadlineUs := some 500 }, by decide +kernel⟩,
    ⟨Slice0.dst { (default : HandoffDst) with deadlineUs := some 500 }, { (default : HandoffDst) with deadlineUs := some 500 }, by decide +kernel⟩,
    ⟨Slice0.dst { (default : HandoffDst) with nextQueryUs := some 500 }, { (default : HandoffDst) with nextQueryUs := some 500 }, by decide +kernel⟩,
    ⟨Slice0.src { (default : HandoffSrc) with deadlineUs := some 500, restored := true },
      { (default : HandoffSrc) with deadlineUs := some 500, restored := true }, by decide +kernel⟩,
    ⟨Slice0.dst { (default : HandoffDst) with cmd := some 1, session := some 3, settleUs := 500 },
      { (default : HandoffDst) with cmd := some 1, session := some 3, settleUs := 500 }, by decide +kernel⟩⟩

/-- A message of handoff 7, of a type, with a byte 1. -/
def Slice0.msg (ty b1 : Nat) : BitVec 1024 := BitVec.ofNat 1024 (ty + 256 * b1 + 7 * 256 ^ 8)

/-- Messages to a source and to a destination that know the handoff, and those to a device that knows nothing of it. -/
theorem test_witness_handoffMessages :
    (∀ ty ∈ [1, 5], Slice0.up.ticking = true ∧ fieldAt (msgBytes (Slice0.msg ty 0)) 8 8 = 7 ∧ fieldAt (msgBytes (Slice0.msg ty 0)) 0 1 = ty ∧
      Tb.get Slice0.up.ss.dsts 7 = none) ∧
    (∀ ty ∈ [2, 4], ∃ (s : State) (h : HandoffSrc), s.ticking = true ∧ fieldAt (msgBytes (Slice0.msg ty 0)) 8 8 = 7 ∧
      fieldAt (msgBytes (Slice0.msg ty 0)) 0 1 = ty ∧ Tb.get s.ss.dsts 7 = none ∧ Tb.get s.ss.srcs 7 = some h ∧ h.dst = (9#64).toNat ∧
      h.reverted = false ∧ s.grp.n ≤ 1) ∧
    ∀ ty ∈ [3, 4, 6], ∀ v ∈ [0, 1, 2], ∃ (s : State) (d : HandoffDst), s.ticking = true ∧ fieldAt (msgBytes (Slice0.msg ty v)) 8 8 = 7 ∧
      fieldAt (msgBytes (Slice0.msg ty v)) 0 1 = ty ∧ fieldAt (msgBytes (Slice0.msg ty v)) 1 1 = v ∧ Tb.get s.ss.srcs 7 = none ∧
      Tb.get s.ss.dsts 7 = some d ∧ d.src = (9#64).toNat ∧ d.session.isSome = true ∧ d.owned = false ∧ d.ask = none := by
  refine ⟨by decide +kernel, fun ty h => ⟨Slice0.src { (default : HandoffSrc) with dst := 9 }, { (default : HandoffSrc) with dst := 9 }, ?_⟩,
    fun ty h v h2 => ⟨Slice0.dst { (default : HandoffDst) with src := 9, session := some 3 }, { (default : HandoffDst) with src := 9, session := some 3 }, ?_⟩⟩
  · revert ty; decide +kernel
  · revert ty v; decide +kernel

/-- A tile of a handoff that nothing is known of yet. -/
theorem test_witness_hankTile : ∃ (s : State) (h : Word64) (data : Bytes), s.ticking = true ∧ data.length = 65536 ∧
    Tb.get s.ss.dsts h.toNat = none :=
  ⟨Slice0.up, 7, List.replicate 65536 0, by decide +kernel, List.length_replicate, by decide +kernel⟩

/-- The senders of unit messages: to the coordinator, from it, from the mirrored member and from the buddy. -/
theorem test_witness_unitMessages : ((Slice0.member 0).fromMember 3 = true ∧ (Slice0.member 0).glb.rank = (Slice0.member 0).coordinator ⟨0, 3, 1⟩) ∧
    ((Slice0.member 1).fromMember 0 = true ∧ (0 : Fin 64).val = (Slice0.member 1).coordinator ⟨0, 3, 1⟩ ∧ (Slice0.member 1).decisionOf ⟨0, 3, 1⟩ = none) ∧
    (∀ c : Bool, ∃ s : State, s.fromMember 3 = true ∧ s.glb.rank = s.coordinator ⟨0, 3, 1⟩ ∧ s.decisionOf ⟨0, 3, 1⟩ = some c) ∧
    ((Slice0.member 0).fromMember 3 = true ∧ ((3 : Fin 64).val + 1) % (Slice0.member 0).grp.n = (Slice0.member 0).glb.rank) ∧
    ((Slice0.member 3).fromMember 0 = true ∧ (0 : Fin 64).val = ((Slice0.member 3).glb.rank + 1) % (Slice0.member 3).grp.n) ∧
    Slice0.up.fromMember 0 = false ∧ (Slice0.member 0).decisionOf ⟨0, 3, 1⟩ = none := by
  refine ⟨by decide +kernel, by decide +kernel, fun c => ⟨{ Slice0.member 0 with work.decisions := [⟨0, ⟨0, 3, 1⟩, c⟩] }, ?_⟩, by decide +kernel,
    by decide +kernel, by decide +kernel⟩
  revert c
  decide +kernel

/-- SESSION_DESTROY of the session at index 3. -/
def Slice0.cDestroy : Cmd := Slice0.cmd [(0, 0x0302), (8, 3)]

theorem Slice0.destroyCheck : checkOf (Cmd.op Slice0.cDestroy) = some checkSessionDestroy := by
  rw [show Cmd.op Slice0.cDestroy = 0x0302 by decide +kernel]
  rfl

/-- FORWARD of a command on sessions that passes its checks, and of one that fails them, and of one of another group. -/
theorem test_witness_committedMessages :
    (∃ (c : Cmd) (effs : List Effect), (Slice0.member 1).fromMember 3 = true ∧ memberOp c = true ∧ checkOf (Cmd.op c) = some checkSessionDestroy ∧
      Cmd.op c ≠ 0x0402 ∧ Cmd.op c ≠ 0x0903 ∧
      checkSessionDestroy ({ Slice0.member 1 with ss.sessions := [(3, Slice0.sess)] } : State).view
        (({ Slice0.member 1 with ss.sessions := [(3, Slice0.sess)] } : State).forwardCtx 3 c []) = .ok effs) ∧
    (∃ (c : Cmd), memberOp c = true ∧ checkOf (Cmd.op c) = some checkSessionDestroy ∧
      Slice0.okB (checkSessionDestroy (Slice0.member 1).view ((Slice0.member 1).forwardCtx 3 c [])) (fun _ => true) = false) ∧
    (∃ c : Cmd, memberOp c = false) ∧ ((Slice0.member 0).fromMember 3 = true ∧ (Slice0.member 0).glb.rank = 0) ∧
    ((Slice0.member 3).inTicks = true ∧ (Slice0.member 3).glb.rank ≠ 0) ∧
    (∃ (s : State) (d : Digest) (e : Exchange), s.exchangeBy d = some (1, e) ∧ s.glb.rank = 0 ∧ e.what ≠ .checkpoint ∧
      ∀ c b, e.what ≠ .forward 0x0602 c b) ∧
    ∃ (s : State) (g : StagedTable), s.tk.staged = some g := by
  refine ⟨?_, ⟨Slice0.cDestroy, by decide +kernel, Slice0.destroyCheck, by decide +kernel⟩, ⟨Slice0.cmd [(0, 0x0102)], by decide +kernel⟩,
    by decide +kernel, by decide +kernel,
    ⟨{ Slice0.member 0 with img.exchanges := [(1, ⟨.model 7, 5, none, 0, 500, false, [], none, 0, 0⟩)] }, 5,
      ⟨.model 7, 5, none, 0, 500, false, [], none, 0, 0⟩, by decide +kernel, by decide +kernel, by decide +kernel, fun _ _ h => nomatch h⟩,
    ⟨{ Slice0.member 1 with tk.staged := some ⟨default, 0, none⟩ }, ⟨default, 0, none⟩, rfl⟩⟩
  obtain ⟨e, h, -⟩ := Slice0.ok (p := fun _ => true) (r := checkSessionDestroy ({ Slice0.member 1 with ss.sessions := [(3, Slice0.sess)] } : State).view
        (({ Slice0.member 1 with ss.sessions := [(3, Slice0.sess)] } : State).forwardCtx 3 Slice0.cDestroy [])) (by decide +kernel)
  exact ⟨Slice0.cDestroy, e, by decide +kernel, by decide +kernel, Slice0.destroyCheck, by decide +kernel, by decide +kernel, h⟩

/-- Silent members: too many, one with this device the lowest survivor, and one where it is not. -/
theorem test_witness_memberLost :
    (∃ s : State, s.inTicks = true ∧ 3 < s.grp.n ∧ s.silent 3 = true ∧ s.grp.shrink = none ∧
      quorum s.grp.n ((List.range s.grp.n).filter fun r => !s.silent r) = false) ∧
    (∃ s : State, s.inTicks = true ∧ 0 < s.grp.n ∧ s.silent 0 = true ∧ s.grp.shrink = none ∧
      quorum s.grp.n ((List.range s.grp.n).filter fun r => !s.silent r) = true ∧
      ((List.range s.grp.n).filter fun r => !s.silent r).head? = some s.glb.rank) ∧
    ∃ s : State, s.inTicks = true ∧ 3 < s.grp.n ∧ s.silent 3 = true ∧ s.grp.shrink = none ∧
      quorum s.grp.n ((List.range s.grp.n).filter fun r => !s.silent r) = true ∧
      ((List.range s.grp.n).filter fun r => !s.silent r).head? ≠ some s.glb.rank :=
  ⟨⟨{ Slice0.member 1 with grp.missed := [(0, 4), (2, 4), (3, 4)] }, by decide +kernel⟩,
    ⟨{ Slice0.member 1 with grp.missed := [(0, 4)] }, by decide +kernel⟩, ⟨{ Slice0.member 1 with grp.missed := [(3, 4)] }, by decide +kernel⟩⟩

/-- A width change whose commit point has gone by, and the end of a shrink's 60 s. -/
theorem test_witness_widthChange :
    (∃ s : State, s.grp.shrink = some (7#64, 4) ∧ s.inTicks = true ∧ 4 < s.tk.tick ∧
      ((List.range s.grp.n).filter (7#64).getLsbD).idxOf? s.glb.rank = some 1 ∧ s.keptRank (7#64) = some 3) ∧
    (∃ s : State, s.grp.shrink = some (14#64, 14) ∧ s.inTicks = true ∧ 14 < s.tk.tick ∧ s.keptRank (14#64) ≠ some s.glb.rank ∧
      s.decidesDrop (14#64) 14 = true) ∧
    ∃ s : State, s.grp.shrinkUntilUs ≠ 0 ∧ s.pointReached s.grp.shrinkUntilUs = true ∧ s.grp.leaving = true :=
  ⟨⟨{ Slice0.member 1 with grp.shrink := some (7#64, 4), tk.tick := 5 }, by decide +kernel⟩,
    ⟨{ Slice0.member 1 with grp.shrink := some (14#64, 14), tk.tick := 15 }, by decide +kernel⟩,
    ⟨{ Slice0.member 1 with grp.shrinkUntilUs := 500, grp.leaving := true }, by decide +kernel⟩⟩

/-- A join of this device alone: acknowledgements, its start and its end. -/
theorem test_witness_joining : Sys2Proof.Machine.descOwn Slice0.desc = some 0 ∧ (0 : Fin 64).val < descN Slice0.desc ∧ descMode Slice0.desc = 0 ∧
    (∃ s : State, s.grp.join = some Slice0.desc ∧ s.grp.joinTick = none ∧ (0 : Fin 64).val ∉ s.grp.joinAcks) ∧
    (∃ s : State, s.grp.join = some Slice0.desc ∧ s.grp.joinTick = none ∧ (0 : Fin 64).val ∈ s.grp.joinAcks) ∧
    (∃ s : State, s.grp.join = some Slice0.desc ∧ s.grp.joinTick = some (9#48).toNat ∧ s.tk.tick = (9#48).toNat) ∧
    ∃ s : State, s.grp.join.isSome = true ∧ s.pointReached s.grp.joinUntilUs = true :=
  ⟨Slice0.descOwn0, by decide +kernel, by decide +kernel, ⟨{ Slice0.up with grp.join := some Slice0.desc }, rfl, rfl, by decide +kernel⟩,
    ⟨{ Slice0.up with grp.join := some Slice0.desc, grp.joinAcks := [0] }, rfl, rfl, by decide +kernel⟩,
    ⟨{ Slice0.up with grp.join := some Slice0.desc, grp.joinTick := some 9, tk.tick := 9 }, rfl, rfl, rfl⟩,
    ⟨{ Slice0.up with grp.join := some Slice0.desc }, rfl, by decide +kernel⟩⟩

/-! ### HELLO, ports, flits -/

/-- A port in a state, on port 19. -/
def Slice0.port (x : Port) : State := { Slice0.up with ports := (Vector.replicate 20 Port.reset).set 19 x }

/-- A HELLO of a version range, group protocol 1.0, kind, phase and context. -/
def Slice0.hello (lo hi kind phase ctx : Nat) : Bytes :=
  toLE 8 77 ++ toLE 1 lo ++ toLE 1 hi ++ toLE 2 0x0100 ++ toLE 1 kind ++ toLE 1 phase ++ zeros 2 ++ toLE 8 ctx ++ zeros 1768

/-- HELLO over a link with and without a common version, short and with phase 1; in a join and for a transport key. -/
theorem test_witness_hello :
    (∃ (s : State) (b b' : Bytes), (s.ports[(19 : Fin 20)]).state = .keying ∧ 12 ≤ b.length ∧ helloVersion b = none ∧ 12 ≤ b'.length ∧
      helloVersion b' = some 0x22 ∧ fieldAt b' 0 8 ≠ 0 ∧ b'.length < 1792) ∧
    (∃ (s : State) (v : HelloVia) (b : Bytes), 1792 ≤ b.length ∧ fieldAt b 12 1 = v.kind ∧ fieldAt b 16 8 = s.helloContext v ∧
      fieldAt b 13 1 = 1 ∧ v = .link 19 ∧ (s.ports[(19 : Fin 20)]).state = .keying ∧ (helloVersion b).isSome = true ∧ fieldAt b 0 8 ≠ 0) ∧
    (∃ (s : State) (v : HelloVia) (b : Bytes), 1792 ≤ b.length ∧ fieldAt b 12 1 = v.kind ∧ fieldAt b 16 8 = s.helloContext v ∧
      fieldAt b 13 1 = 1 ∧ v = .member 0 ∧ s.grp.join.isSome = true ∧ helloVersion b = some 0x22 ∧ fieldAt b 10 2 = 0x0100) ∧
    ∃ (s : State) (b : Bytes), s.grp.join.isSome = true ∧ 12 ≤ b.length ∧ helloVersion b ≠ some 0x22 ∧ fieldAt b 10 2 ≠ 0x0100 :=
  ⟨⟨Slice0.port { Port.reset with state := .keying }, Slice0.hello 0x30 0x3F 0 0 0, (Slice0.hello 0x22 0x30 0 0 0).take 16, by decide +kernel⟩,
    ⟨Slice0.port { Port.reset with state := .keying }, .link 19, Slice0.hello 0x20 0x22 1 1 0, by decide +kernel, by decide +kernel,
      by decide +kernel, by decide +kernel, rfl, by decide +kernel, by decide +kernel, by decide +kernel⟩,
    ⟨{ Slice0.up with grp.join := some (zeros 128) }, .member 0, Slice0.hello 0x20 0x22 2 1 0, by decide +kernel, by decide +kernel,
      by decide +kernel, by decide +kernel, rfl, by decide +kernel, by decide +kernel, by decide +kernel⟩,
    ⟨{ Slice0.up with grp.join := some (zeros 128) }, zeros 12, by decide +kernel⟩⟩

/-- An exchange whose phase 1 has come. -/
def Slice0.exchange : KeyExchange := ⟨1, zeros 32, 77, zeros 32, zeros 97, true, false⟩

/-- CONTEXT of a HELLO in these tests. -/
def Slice0.context : HelloVia → Nat
  | .transport h => h.toNat
  | _ => 0

/-- A report with another MAGIC is accepted nowhere (R324). -/
theorem Slice0.not_accepted (s : State) (v : HelloVia) (x : KeyExchange) (r : Bytes) (h : fieldAt r 0 4 ≠ 0x54535441) :
    s.acceptsReport v x r = false := by
  unfold State.acceptsReport
  simp [h]

/-- Phase 2 with a report that is not accepted, in a join and for a transport key. -/
theorem test_witness_hello2 : ∀ v ∈ [HelloVia.member 0, .transport 7], ∃ (s : State) (b : Bytes), (1792 ≤ b.length ∧ fieldAt b 12 1 = v.kind ∧
    fieldAt b 16 8 = s.helloContext v ∧ fieldAt b 13 1 = 2 ∧ s.exchangeOf v = some Slice0.exchange ∧ Slice0.exchange.gotPhase1 = true ∧
    Slice0.exchange.done = false ∧ s.grp.join.isSome = true ∧ helloVersion b = some 0x22 ∧ fieldAt b 10 2 = 0x0100 ∧ fieldAt b 0 8 = Slice0.exchange.peerId) ∧
    s.acceptsReport v Slice0.exchange (sliceAt b 160 1632) = false := by
  intro v hv
  refine ⟨{ Slice0.up with grp.join := some (zeros 128), sec.exchanges := [(v, Slice0.exchange)] },
    Slice0.hello 0x20 0x22 v.kind 2 (Slice0.context v), ?_, Slice0.not_accepted _ _ _ _ ?_⟩ <;> revert v <;> decide +kernel

/-- Training, retraining, failure, key phases, gates. -/
theorem test_witness_ports :
    (((Slice0.port { Port.reset with state := .training }).ports[(19 : Fin 20)]).state = .training ∧ lanesUsed 0 = 0 ∧ lanesUsed 0xFF ≠ 0) ∧
    (∀ n ∈ [0, 1], ∃ s : State, s.ticking = true ∧ (s.ports[(19 : Fin 20)]).state = .down ∧
      (s.ports[(19 : Fin 20)]).downUs + 1000000 = s.tk.startUs + s.tickUs + n) ∧
    (State.reset.ticking = false ∧ (State.reset.ports[(19 : Fin 20)]).state = .down) ∧
    (∃ s : State, (s.ports[(19 : Fin 20)]).live = true ∧ 3 ≤ (s.ports[(19 : Fin 20)]).tagFails) ∧
    (∃ s : State, (s.ports[(19 : Fin 20)]).live = true ∧ ∃ f ∈ (s.ports[(19 : Fin 20)]).retryBuf, 16 ≤ f.resent) ∧
    (∃ s : State, (s.ports[(19 : Fin 20)]).up = true) ∧ (Slice0.up.ports[(19 : Fin 20)]).txq = [] ∧
    (∃ (s : State) (g : GateList), (s.ports[(19 : Fin 20)]).stagedGates = some g ∧ s.ticking = true ∧ g.takeover ≤ s.tk.tick) ∧
    ∃ (s : State) (e : Nat × BitVec 8), (s.ports[(19 : Fin 20)]).gates.entries[(1 : Fin 32).val]? = some e ∧ s.ticking = true ∧ e.1 < s.tickUs ∧
      s.timeUs ≤ s.tk.startUs + e.1 :=
  ⟨by decide +kernel, fun n hn => ⟨{ Slice0.port { Port.reset with downUs := Slice0.up.tickUs + n } with tk.startUs := 1000000 }, by revert n; decide +kernel⟩,
    by decide +kernel, ⟨Slice0.port { Port.reset with state := .up8, tagFails := 3 }, by decide +kernel⟩,
    ⟨Slice0.port { Port.reset with state := .up4, retryBuf := [⟨0, [], 16, default⟩] }, by decide +kernel⟩,
    ⟨Slice0.port { Port.reset with state := .up4 }, by decide +kernel⟩, by decide +kernel,
    ⟨Slice0.port { Port.reset with stagedGates := some ⟨0, [(0, 0xFF)]⟩ }, ⟨0, [(0, 0xFF)]⟩, by decide +kernel⟩,
    ⟨Slice0.port { Port.reset with gates := ⟨0, [(0, 0xFF), (499, 0x80)]⟩ }, (499, 0x80), by decide +kernel⟩⟩

theorem Slice0.leNat_lt : ∀ bs : Bytes, leNat bs < 256 ^ bs.length
  | [] => by decide
  | b :: bs => by
    have h := Slice0.leNat_lt bs
    have h2 := b.isLt
    show b.toNat + 256 * leNat bs < 256 ^ (bs.length + 1)
    rw [Nat.pow_succ]
    omega

theorem Slice0.toLE_leNat : ∀ bs : Bytes, toLE bs.length (leNat bs) = bs
  | [] => rfl
  | b :: bs => by
    show BitVec.ofNat 8 (b.toNat + 256 * leNat bs) :: toLE bs.length ((b.toNat + 256 * leNat bs) / 256) = b :: bs
    have h := b.isLt
    rw [show (b.toNat + 256 * leNat bs) / 256 = leNat bs by omega, Slice0.toLE_leNat bs]
    congr 1
    apply BitVec.eq_of_toNat_eq
    rw [BitVec.toNat_ofNat]
    omega

/-- The tag of a flit of SEQ 0 whose other bytes are 0, under the key of KEYING. -/
def Slice0.tag : Bytes := Aes.gcmTag (zeros 32) (zeros 4 ++ toLE 8 0) (zeros 16) (zeros 224)

/-- That flit. -/
def Slice0.flit : BitVec 2048 := BitVec.ofNat 2048 (leNat (zeros 240 ++ Slice0.tag))

theorem Slice0.tagLen : Slice0.tag.length = 16 := by decide +kernel

theorem Slice0.flit_bytes : toLE 256 Slice0.flit.toNat = zeros 240 ++ Slice0.tag := by
  have h : (zeros 240 ++ Slice0.tag).length = 256 := by rw [List.length_append, Slice0.tagLen]; rfl
  have h2 := Slice0.leNat_lt (zeros 240 ++ Slice0.tag)
  have h3 := Slice0.toLE_leNat (zeros 240 ++ Slice0.tag)
  rw [h] at h2 h3
  unfold Slice0.flit
  rw [BitVec.toNat_ofNat, Nat.mod_eq_of_lt (by rw [show 2048 = 8 * 256 from rfl, Nat.pow_mul]; exact h2)]
  exact h3

theorem Slice0.flit_opens (x : Port) (h : x.state = .keying) : (x.openFlit 0 (toLE 256 Slice0.flit.toNat)).isSome = true := by
  have h2 : ∀ t : Bytes, (zeros 240 ++ t).take 16 = zeros 16 := fun _ => rfl
  have h3 : ∀ t : Bytes, sliceAt (zeros 240 ++ t) 16 224 = zeros 224 := fun _ => rfl
  have h4 : ∀ t : Bytes, sliceAt (zeros 240 ++ t) 240 16 = t.take 16 := fun _ => rfl
  rw [Slice0.flit_bytes]
  unfold Port.openFlit Aes.gcmDecrypt
  rw [h, h2, h3, h4, List.take_of_length_le (Nat.le_of_eq Slice0.tagLen)]
  exact congrArg Option.isSome (if_pos rfl)

theorem Slice0.flit_field (o k : Nat) (h : o + k ≤ 240) : fieldAt (toLE 256 Slice0.flit.toNat) o k = leNat (zeros k) := by
  rw [Slice0.flit_bytes]
  unfold fieldAt zeros
  rw [List.drop_append_of_le_length (by rw [List.length_replicate]; omega), List.drop_replicate,
    List.take_append_of_le_length (by rw [List.length_replicate]; omega), List.take_replicate]
  congr 2
  omega

/-- A port in KEYING that awaits a SEQ. -/
def Slice0.keying (n : Nat) : State := Slice0.port { Port.reset with state := .keying, rxSeq := n }

/-- A flit that is the next one, and one that repeats the last SEQ; a port with a flit that waits for its acknowledgement. -/
theorem test_witness_flits : (∀ n ∈ [0, 1], ∃ (s : State) (flit : BitVec 2048), (s.ports[(19 : Fin 20)]).live = true ∧
      (s.ports[(19 : Fin 20)]).tagFails < 3 ∧ (fieldAt (toLE 256 flit.toNat) 2 2 + n) % 65536 = (s.ports[(19 : Fin 20)]).rxSeq % 65536 ∧
      (n = 1 → seqLe ((s.ports[(19 : Fin 20)]).rxSeq % 65536) (fieldAt (toLE 256 flit.toNat) 2 2) = false) ∧
      fieldAt (toLE 256 flit.toNat) 0 1 = 0 ∧
      ((s.ports[(19 : Fin 20)]).openFlit ((s.ports[(19 : Fin 20)]).rxSeq - n) (toLE 256 flit.toNat)).isSome = true ∧
      (s.ports[(19 : Fin 20)]).txq = [] ∧ s.glb.inGroup = false) ∧
    ∃ s : State, (s.ports[(19 : Fin 20)]).live = true ∧ (s.ports[(19 : Fin 20)]).retryBuf ≠ [] := by
  refine ⟨fun n hn => ⟨Slice0.keying n, Slice0.flit, ?_⟩,
    ⟨Slice0.port { Port.reset with state := .up8, retryBuf := [⟨0, [], 0, default⟩] }, by decide +kernel⟩⟩
  have h : ((Slice0.keying n).ports[(19 : Fin 20)]).rxSeq - n = 0 := by revert n; decide +kernel
  rw [Slice0.flit_field 2 2 (by decide), Slice0.flit_field 0 1 (by decide), h]
  refine ⟨?_, ?_, ?_, ?_, rfl, Slice0.flit_opens _ ?_, ?_, ?_⟩ <;> clear h <;> revert n <;> decide +kernel

/-- The premises on echoes: the 64th sample empties the list. -/
theorem test_witness_echo : ∃ s : State, (s.ports[(19 : Fin 20)]).live = true ∧ (s.ports[(19 : Fin 20)]).up = true ∧
    ((s.ports[(19 : Fin 20)]).sample 9).echoes = [] :=
  ⟨Slice0.port { Port.reset with state := .up8, echoes := List.replicate 63 8 }, by decide +kernel⟩

/-- A hank whose descriptor and spool sections are empty. -/
def Slice0.emptyHank : Revival := { Slice0.revival with
  header := zeros 37 ++ [2] ++ zeros 218 ++ [1] ++ zeros 31 ++ [2] ++ zeros 31 }
/-- The objects that effects of host commands find at the commit point. -/
theorem test_witness_atCommit : ∃ (t : State) (mdl : Model) (a : AdapterVer) (y : Session) (d : HandoffDst) (h : HandoffSrc) (q : Req) (x : Store)
    (v : Tenant), Tb.get t.img.models 7 = some mdl ∧ a ∈ t.img.adapters ∧ some a.ver = Tb.get t.img.adapterCurrent a.id ∧
    Tb.get t.ss.sessions 3 = some y ∧ Tb.get t.ss.dsts 7 = some d ∧ d.session = some 3 ∧ Slice0.emptyHank.read 128 1 ≠ none ∧
    Tb.get t.ss.srcs 7 = some h ∧ Tb.get t.ss.reqs 5 = some q ∧ Tb.get t.st.stores 255 = some x ∧ Slice0.query.origin = none ∧
    Tb.get t.ten.tenants 1 = some v ∧ t.dbg.capture = 1 :=
  ⟨{ Slice0.upR .stalled with
      img.models := [(7, default)], img.adapters := [{ (default : AdapterVer) with id := 2, ver := 3 }], img.adapterCurrent := [(2, 3)]
      ss.dsts := [(7, { (default : HandoffDst) with session := some 3 })], ss.srcs := [(7, default)]
      st.stores := [(255, Slice0.store [])], dbg.capture := 1 },
    default, { (default : AdapterVer) with id := 2, ver := 3 }, _, { (default : HandoffDst) with session := some 3 }, default, _,
    Slice0.store [], _, rfl, .head _, rfl, rfl, rfl, rfl, by decide +kernel, rfl, rfl, rfl, rfl, rfl, rfl⟩


/-! ### The block as a whole, translations, watchdogs, effects -/

/-- An event whose condition does not hold. -/
theorem Slice0.idle : exec .pinLoss State.reset = .next State.reset := rfl

/-- The premises of the statements on all commands: queues, a step, commands of each kind, and a commit point that comes. -/
theorem test_witness_block : ({ State.reset with pending := [.pinLoss] } : State).pending = .pinLoss :: [] ∧ State.reset.pending = [] ∧
    (State.reset.memoryOk = true ∧ step State.reset = .next State.reset) ∧
    (Instr.pinLoss.powers = false ∧ Instr.pinLoss.setsTick = false ∧ (∀ x, Instr.pinLoss ≠ .lcAdvance x) ∧
      ∃ t, exec .pinLoss State.reset = .next t) ∧
    (({ Slice0.up with tk.windowOpen := true } : State).ticking = true ∧ ({ Slice0.up with tk.windowOpen := true } : State).tk.windowOpen = true) ∧
    State.reset.ticking = false :=
  ⟨rfl, rfl, ⟨by decide +kernel, rfl⟩, ⟨rfl, rfl, fun _ h => Instr.noConfusion h, _, Slice0.idle⟩, by decide +kernel, by decide +kernel⟩

/-- A host command: its mailbox is not served, its slot or the image that it loads is on an absent page, and it is answered. -/
theorem test_witness_hostCommands :
    (Instr.openChannel 0 (Slice0.cmd [(0, 0x0102)])).hostCall = some (0, Slice0.cmd [(0, 0x0102)], 0x0102) ∧
    State.reset.canFetch 0 1 = false ∧
    (∃ (s : State) (c : Cmd), s.canFetch 0 (owedBy (Cmd.op c)) = true ∧ s.hostAbsent .port0 (s.slotAddr 0) = true) ∧
    (∃ (s : State) (c : Cmd), s.canFetch 0 (owedBy (Cmd.op c)) = true ∧ s.hostAbsent .port0 (s.slotAddr 0) = false ∧
      s.loadPause 0 c = some 16) ∧
    (∃ (s : State) (c : Cmd), s.canFetch 0 (owedBy (Cmd.op c)) = true ∧ s.hostAbsent .port0 (s.slotAddr 0) = false ∧
      s.loadPause 0 c = none) ∧
    ∃ t, State.reset.grp.n ≤ 1 ∧ State.reset.glb.inGroup = false ∧ exec (.openChannel 0 (Slice0.cmd [(0, 0x0102)])) State.reset = .next t :=
  ⟨by decide +kernel, by decide +kernel,
    ⟨{ Slice0.up with ats.absent := [(.port0, 0)] }, Slice0.cmd [(0, 0x0102)], by decide +kernel⟩,
    ⟨{ Slice0.up with ats.absent := [(.port0, 16)] }, Slice0.cmd [(0, 0x0205), (16, 0x100000), (24, 64)], by decide +kernel⟩,
    ⟨Slice0.up, Slice0.cmd [(0, 0x0102)], by decide +kernel⟩, _, by decide +kernel, by decide +kernel, rfl⟩

/-- SUBMIT and QUERY of a store as commands that are served. -/
theorem test_witness_submitAndQuery : (∃ (s : State) (m : Fin 64) (c : Cmd), s.serves m c 0x0401) ∧
    ∃ (s : State) (m : Fin 64) (c : Cmd), s.serves m c 0x0504 :=
  ⟨⟨Slice0.up, 0, Slice0.cmd [(0, 0x0401)], Slice0.serves (by decide +kernel)⟩,
    ⟨Slice0.up, 0, Slice0.cmd [(0, 0x0504)], Slice0.serves (by decide +kernel)⟩⟩

/-- A page request that is open, at the end of its 100 ms, and a window in which a delayed ring can be written. -/
theorem test_witness_translations :
    (∃ s : State, (∃ r ∈ s.ats.requests, r.1 = HostSpace.port0 ∧ r.2.1 = 16) ∧
      ∀ r ∈ s.ats.requests, r.1 = HostSpace.port0 → r.2.1 = 16 → s.pointReached (r.2.2 + 100000) = true) ∧
    ∃ s : State, s.tk.windowOpen = true ∧ s.ats.absent.contains (HostSpace.port0, 16) = false := by
  refine ⟨⟨{ Slice0.up with timeUs := 99500, tk.startUs := 99500, ats.requests := [(.port0, 16, 0)] }, ⟨_, .head _, rfl, rfl⟩, ?_⟩,
    ⟨{ Slice0.up with tk.windowOpen := true }, by decide +kernel⟩⟩
  intro r hr _ _
  cases hr with
  | head => decide +kernel
  | tail _ h => cases h

/-- A mailbox whose watchdog has run out, a self-test that runs with the record of one before, a RESTORE with one and with two records to
place, of which the reel holds none. -/
theorem test_witness_watchdogs :
    (∃ (s : State) (m : Fin 64), (s.mbx[m]).wdogFrom = some 0 ∧ (s.mbx[m]).enabled = true ∧ (s.mbx[m]).wdogEn = true ∧
      (s.mbx[m]).sqHead ≠ (s.mbx[m]).sqTail ∧ s.pointReached (0 + 1000 * (s.mbx[m]).wdogMs) = true) ∧
    Slice0.up.ticking = true ∧ (∃ s : State, s.pwr.shut = 2 ∧ s.pwr.record = some (0, [], [])) ∧
    ∀ l ∈ [[3], [3, 4]], ∃ (s : State) (k : Restore), s.restore = some k ∧ k.todo = l ∧ 3 ∈ k.todo ∧ 3 ∉ s.recordsStaged ∧
      s.restoreEntry k 3 = none := by
  refine ⟨⟨{ Slice0.up with
      mbx := Vector.replicate 64 { Mailbox.reset with
        enable := true, enabled := true, sqLog2 := 4, cqLog2 := 6, sqTail := 1, chan := .opened, nci := 0x13
        wdogEn := true, wdogFrom := some 0, wdogMs := 1 }
      timeUs := 500, tk.startUs := 500 }, 63, by decide +kernel⟩, by decide +kernel,
    ⟨{ Slice0.up with pwr.shut := 2, pwr.record := some (0, [], []) }, by decide +kernel⟩,
    fun l hl => ⟨{ Slice0.up with restore := some ⟨none, [], 1, [], false, l, 0, []⟩ }, ⟨none, [], 1, [], false, l, 0, []⟩, ?_⟩⟩
  revert l
  decide +kernel

/-- A commit point with room for an item and one without; a store, a session and a command for effects to act on. -/
theorem test_witness_commitEffects :
    (∃ (a : Committing) (i : Item), a.s.ticking = true ∧ a.fits i = true) ∧ (∃ (a : Committing) (i : Item), a.s.ticking = true ∧
      a.full = false ∧ 65536 < a.seq + a.s.eventCount i ∧ a.fits i = false) ∧
    (∃ (s : State) (k : Nat) (x : Store), Tb.get s.st.stores k = some x) ∧ (∃ (s : State) (x : Session), Tb.get s.ss.sessions 3 = some x) ∧
    ∃ (s : State) (c : PendCmd), Tb.get s.cmds 1 = some c :=
  ⟨⟨⟨Slice0.up, 65535, false, [], [], false⟩, ⟨none, 16, none, [.event 0xE002 []]⟩, by decide +kernel⟩,
    ⟨⟨Slice0.up, 65536, false, [], [], false⟩, ⟨none, 16, none, [.event 0xE002 []]⟩, by decide +kernel⟩,
    ⟨{ Slice0.up with st.stores := [(255, Slice0.store [])] }, 255, _, rfl⟩, ⟨Slice0.upS .idle, _, rfl⟩,
    ⟨{ Slice0.up with cmds := [(1, ⟨0, 0, 7, 0x0102⟩)] }, _, rfl⟩⟩

end
end

/-! PROOFS. Serving a host command, the reset values, and the register space. -/
section
namespace Sys2Proof.Machine

/-! ### Small rules about the shared updates -/

/-- Two updates of one mailbox are one. -/
theorem State.updMbx_updMbx (s : State) (m : Fin 64) (f g : Mailbox → Mailbox) :
    (s.updMbx m f).updMbx m g = s.updMbx m fun b => g (f b) := by
  simp [State.updMbx]

/-- Setting one mailbox leaves the others. -/
theorem mbx_set_getElem_ne (v : Vector Mailbox 64) {m k : Fin 64} (b : Mailbox) (h : k ≠ m) : (v.set m b)[k] = v[k] :=
  Vector.getElem_set_ne m.isLt k.isLt fun e => h (Fin.ext e.symm)

@[simp] theorem State.hostWrites_timeUs (s : State) (hw : List (Nat × Bytes)) : (s.hostWrites hw).timeUs = s.timeUs := by
  obtain ⟨h, e⟩ := s.hostWrites_frame hw
  rw [e]

@[simp] theorem State.hostWrites_dci (s : State) (hw : List (Nat × Bytes)) : (s.hostWrites hw).dci = s.dci := by
  obtain ⟨h, e⟩ := s.hostWrites_frame hw
  rw [e]

/-- Waiting for a page writes the wait, and a page request with its count where none is under way (R216, R217). -/
theorem State.waitOn_frame (s : State) (w : Nat) (sp : HostSpace) (p : Nat) : ∃ r c x, s.waitOn w sp p = { s with
    ats.requests := r, ats.waits := x, dbg.memory := c } := by
  have hask : ∃ r c, s.askPage sp p = { s with ats.requests := r, dbg.memory := c } := by
    unfold State.askPage
    split <;> exact ⟨_, _, rfl⟩
  obtain ⟨r, c, e⟩ := hask
  unfold State.waitOn
  rw [e]
  repeat' split
  all_goals exact ⟨_, _, _, rfl⟩

/-! ### What serving a host command can do -/

/-- Serving a host command does nothing, fails the fetch, waits for a page of a load's image, rejects the command, or accepts it. -/
theorem exec_hostCall_cases {i : Instr} {m : Fin 64} {c : Cmd} {op : Nat} {s t : State} (hi : i.hostCall = some (m, c, op))
    (h : exec i s = .next t) :
    t = s ∨ t = s.fetchFailed m ∨ (∃ p, s.loadPause m c = some p ∧ t = s.waitOn m.val .port0 p) ∨
      (∃ st res, t = s.rejects m c st res) ∨ ∃ effs, t = nowOf op (s.takes m c effs) (s.given m c) := by
  obtain ⟨k, own, hk, -, he⟩ := exec_hostCall i m c op hi
  rw [he] at h
  cases hf : s.canFetch m (owedBy (Cmd.op c)) with
  | false =>
    rw [State.hostCommand_idle s m c op hf] at h
    exact .inl (Host.Outcome.next.inj h).symm
  | true =>
    cases ha : s.hostAbsent .port0 (s.slotAddr m) with
    | true =>
      rw [State.hostCommand_fetchFailed s m c op hf ha] at h
      exact .inr (.inl (Host.Outcome.next.inj h).symm)
    | false =>
      cases hp : s.loadPause m c with
      | some p =>
        rw [State.hostCommand_pause s m c op p hf ha hp] at h
        exact .inr (.inr (.inl ⟨p, rfl, (Host.Outcome.next.inj h).symm⟩))
      | none =>
        rw [State.hostCommand_answer s m c op k hk hf ha hp] at h
        replace h := (Host.Outcome.next.inj h).symm
        split at h
        · exact .inr (.inr (.inr (.inl ⟨_, _, h⟩)))
        · exact .inr (.inr (.inr (.inl ⟨_, _, h⟩)))
        · exact .inr (.inr (.inr (.inr ⟨_, h⟩)))

/-- What an acceptance changes at once: nothing, but for CANCEL and HANG_DUMP. -/
theorem nowOf_of_ne {op : Nat} (h : op ≠ 0x0402) (h' : op ≠ 0x0903) (s : State) (x : Ctx) : nowOf op s x = s := by
  rw [nowOf, if_neg h, if_neg h']

/-- Outside a group a rejected load ends its wait for a page and tells nobody (R92, R217). -/
theorem State.loadRejected_alone (s : State) (x : Ctx) (st : Status) (h : s.glb.inGroup = false) :
    s.loadRejected x st = if loadOp (Cmd.op x.c) = true then s.waitOver x.m else s := by
  cases hl : loadOp (Cmd.op x.c) <;> simp [State.loadRejected, hl, h]

/-- Outside a group an acceptance is the command's effects staged (R247). -/
theorem State.takes_alone (s : State) (m : Fin 64) (c : Cmd) (effs : List Effect) (h : s.grp.n ≤ 1) :
    s.takes m c effs = ({ (s.fetched m c).count 5 (2 * m.val + if (s.given m c).failedIn effs then 1 else 0) 1 with
      freeCtr := s.freeCtr + 1 } : State).stage (.accepted s.nextCmd m.val c :: effs) (effectSession effs) :=
  if_pos h

/-! ### What serving a host command outside a group leaves unchanged -/

/-- The fields that serving a host command outside a group may write. -/
def HostFields (s t : State) : Prop :=
  t = { s with mbx := t.mbx, served := t.served, cmds := t.cmds, nextCmd := t.nextCmd, freeCtr := t.freeCtr
               work.steward := t.work.steward, dbg := { s.dbg with mailbox := t.dbg.mailbox, memory := t.dbg.memory }
               ats := { s.ats with waits := t.ats.waits, requests := t.ats.requests } }

/-- What is staged of a host command: nothing, its completion alone, or its acceptance with its effects. -/
def HostStaged (s : State) (m : Fin 64) (c : Cmd) (t : State) : Prop :=
  t.work.steward = s.work.steward ∨
    (∃ st res, t.work.steward = s.work.steward ++ [⟨none, 16, none, [.complete s.nextCmd st res]⟩]) ∨
    ∃ o effs, t.work.steward = s.work.steward ++ [⟨none, 16, o, .accepted s.nextCmd m.val c :: effs⟩]

/-- The frame of a host command that is served outside a group (R3, R217, R246, R247, R255). -/
def HostFrame (s : State) (m : Fin 64) (c : Cmd) (t : State) : Prop :=
  HostFields s t ∧ (loadOp (Cmd.op c) = false → t.ats = s.ats ∧ t.dbg.memory = s.dbg.memory) ∧
    (∀ k : Fin 64, k ≠ m → t.mbx[k] = s.mbx[k]) ∧ HostStaged s m c t

theorem HostFrame.refl (s : State) (m : Fin 64) (c : Cmd) : HostFrame s m c s :=
  ⟨rfl, fun _ => ⟨rfl, rfl⟩, fun _ _ => rfl, .inl rfl⟩

theorem State.fetchFailed_hostFrame (s : State) (m : Fin 64) (c : Cmd) : HostFrame s m c (s.fetchFailed m) :=
  ⟨rfl, fun _ => ⟨rfl, rfl⟩, fun _ hk => mbx_set_getElem_ne s.mbx _ hk, .inl rfl⟩

/-- Only a load waits for a page. -/
theorem State.waitOn_hostFrame (s : State) (m : Fin 64) (c : Cmd) (w p : Nat) (hl : loadOp (Cmd.op c) = true) :
    HostFrame s m c (s.waitOn w .port0 p) := by
  obtain ⟨r, d, x, e⟩ := s.waitOn_frame w .port0 p
  rw [e]
  exact ⟨rfl, fun hn => absurd hl (by simp [hn]), fun _ _ => rfl, .inl rfl⟩

theorem State.fetched_getElem_ne (s : State) {m k : Fin 64} (c : Cmd) (h : k ≠ m) : (s.fetched m c).mbx[k] = s.mbx[k] :=
  mbx_set_getElem_ne s.mbx _ h

theorem State.reject_hostFrame (s : State) (m : Fin 64) (c : Cmd) (st : Status) (res : Bytes) :
    HostFrame s m c ((s.fetched m c).reject m s.nextCmd (Cmd.op c) st res) :=
  ⟨rfl, fun _ => ⟨rfl, rfl⟩, fun _ hk => (mbx_set_getElem_ne (s.fetched m c).mbx _ hk).trans (s.fetched_getElem_ne c hk),
    .inr (.inl ⟨st, res, rfl⟩)⟩

/-- The end of a load's wait stays within its frame. -/
theorem HostFrame.waitOver {s t : State} {m : Fin 64} {c : Cmd} (h : HostFrame s m c t) (hl : loadOp (Cmd.op c) = true) (w : Nat) :
    HostFrame s m c (t.waitOver w) := by
  obtain ⟨hs, -, hm, hst⟩ := h
  refine ⟨?_, fun hn => absurd hl (by simp [hn]), hm, hst⟩
  unfold HostFields at hs ⊢
  rw [hs]
  rfl

theorem State.rejects_hostFrame (s : State) (m : Fin 64) (c : Cmd) (st : Status) (res : Bytes) (h : s.glb.inGroup = false) :
    HostFrame s m c (s.rejects m c st res) := by
  have hg : ((s.fetched m c).reject m s.nextCmd (Cmd.op c) st res).glb.inGroup = false := h
  rw [State.rejects, State.loadRejected_alone _ _ _ hg]
  split
  · next hl => exact (s.reject_hostFrame m c st res).waitOver hl m.val
  · exact s.reject_hostFrame m c st res

theorem State.takes_hostFrame (s : State) (m : Fin 64) (c : Cmd) (effs : List Effect) (h : s.grp.n ≤ 1) :
    HostFrame s m c (s.takes m c effs) := by
  rw [s.takes_alone m c effs h]
  exact ⟨rfl, fun _ => ⟨rfl, rfl⟩, fun _ hk => s.fetched_getElem_ne c hk, .inr (.inr ⟨_, _, rfl⟩)⟩

end Sys2Proof.Machine

open Sys2Proof Sys2Proof.Machine

/-- Settles O11: each thing that serving a host command can do stays within its frame. -/
theorem hostCommandFrame : Obligations.HostCommandFrame := by
  intro i m c op s t hi hcancel hdump hn hg he
  show HostFrame s m c t
  rcases exec_hostCall_cases hi he with rfl | rfl | ⟨p, hp, rfl⟩ | ⟨st, res, rfl⟩ | ⟨effs, rfl⟩
  · exact .refl _ m c
  · exact s.fetchFailed_hostFrame m c
  · refine s.waitOn_hostFrame m c m.val p ?_
    by_contra hl
    rw [s.loadPause_none m c (by simpa using hl)] at hp
    cases hp
  · exact s.rejects_hostFrame m c st res hg
  · rw [nowOf_of_ne hcancel hdump]
    exact s.takes_hostFrame m c effs hn

/-! ### Reset -/

namespace Sys2Proof.Machine

@[simp] theorem reset_mbx_getElem (m : Fin 64) : State.reset.mbx[m] = Mailbox.reset := Vector.getElem_replicate ..
@[simp] theorem reset_ports_getElem (p : Fin 20) : State.reset.ports[p] = Port.reset := Vector.getElem_replicate ..

end Sys2Proof.Machine

/-- Settles O2: every mailbox and every port is its reset value, and the other registers are read off the reset state. -/
theorem resetRegisters : Obligations.ResetRegisters := by
  unfold Obligations.ResetRegisters
  dsimp only
  simp only [reset_mbx_getElem, reset_ports_getElem]
  exact ⟨rfl, rfl, rfl, rfl, rfl, rfl, rfl, rfl, rfl, rfl, rfl, rfl, rfl, fun _ => ⟨rfl, rfl, rfl, rfl, rfl, rfl, rfl, rfl, rfl⟩,
    fun _ => rfl, rfl, rfl, rfl, rfl, rfl, rfl, rfl, rfl, rfl, rfl⟩

/-! ### The registers of mailboxes and of the direct host queue -/

namespace Sys2Proof.Machine

/-- A write to a register that answers takes effect. -/
theorem ite_not_of_true {α : Type} {b : Bool} (h : b = true) {x y : α} : (if !b then x else y) = y :=
  if_neg (by rw [h]; exact Bool.false_ne_true)

/-- Updates that agree on the mailbox are one update. -/
theorem State.updMbx_congr {s : State} {m : Fin 64} {f g : Mailbox → Mailbox} (h : f s.mbx[m] = g s.mbx[m]) :
    s.updMbx m f = s.updMbx m g := by
  rw [State.updMbx, h, State.updMbx]

/-- An error bit that rises raises vector 1, and nothing else (R240). -/
theorem Mailbox.raise_eq (b : Mailbox) (was : Bool) : b.raise was = { b with irq1 := if was then b.irq1 else b.irq1 + 1 } := by
  cases was <;> rfl

/-- A new period of a watchdog that has not fired changes its start alone (R246). -/
theorem Mailbox.rearm_of_not_fired {b : Mailbox} (now : Nat) (h : b.wdogFired = false) :
    b.rearm now = { b with wdogFrom := if b.enabled && b.sqHead != b.sqTail then some now else none } := by
  rw [Mailbox.rearm, ← h]

/-- ENABLE = 1 starts the mailbox afresh, or raises CFG_ERR (R244). -/
theorem exec_mbxEnable {s : State} {m : Fin 64} (hs : s.mmio = true) (hm : (s.mbx[m]).enabled = false) :
    exec (.mbxEnable m) s = .next (s.updMbx m fun b =>
      if b.configOk then b.fresh else { b.raise b.cfgErr with enable := true, cfgErr := true }) :=
  if_neg (by rw [hs, hm]; exact Bool.false_ne_true)

/-- ENABLE = 0 stops the mailbox (R241). -/
theorem exec_mbxDisable {s : State} {m : Fin 64} (hs : s.mmio = true) (hm : (s.mbx[m]).enable = true) :
    exec (.mbxDisable m) s = .next ((s.stopMailbox m).updMbx m fun b => { b with enable := false }) :=
  if_neg (by rw [hs, hm]; exact Bool.false_ne_true)

/-- Outside a group a stopped mailbox fetches no more, owes nothing, and its page wait is over; what stops of its requests is in the
request table and the staged list (R241). -/
theorem State.stopMailbox_alone (s : State) (m : Fin 64) (h : s.glb.inGroup = false) :
    ∃ r w, s.stopMailbox m = ({ s with ss.reqs := r, work.steward := w, ats.waits := Tb.del s.ats.waits m.val } : State).updMbx m fun b =>
      { b with enabled := false, sqHead := b.sqTail, debts := 0, gen := b.gen + 1, delayed := [], wdogFrom := none, wdogFired := false
               resetSeen := true } := by
  obtain ⟨r, w, e⟩ := s.cancelFor_frame m h
  rw [State.stopMailbox, e]
  exact ⟨r, w, rfl⟩

/-- The direct host queue after a write of DCI_CTRL (R267): sizes stored, the queue started, left running or ended. -/
def Dci.control (d : Dci) (v : Word32) : Dci :=
  let d := { d with wqLog2 := v.extractLsb' 4 4, cqLog2 := v.extractLsb' 8 5 }
  if v.getLsbD 0 && !d.enable then
    { d with enable := true, wqTail := 0, cqHead := 0, wqHead := 0, cqTail := 0, delayed := [], stopped := !d.configOk
             wqErr := d.wqErr || !d.configOk }
  else if v.getLsbD 0 then d else { d with enable := false, wqHead := d.wqTail }

theorem exec_dciEnableWrite {s : State} (v : Word32) (hs : s.bar = true) :
    exec (.dciEnableWrite v) s = .next { s with dci := s.dci.control v } :=
  ite_not_of_true hs

theorem Dci.control_start {d : Dci} {v : Word32} (hv : v.getLsbD 0 = true) (hd : d.enable = false) :
    d.control v = (let e : Dci := { d with wqLog2 := v.extractLsb' 4 4, cqLog2 := v.extractLsb' 8 5 }
      { e with enable := true, wqTail := 0, cqHead := 0, wqHead := 0, cqTail := 0, delayed := [], stopped := !e.configOk
               wqErr := e.wqErr || !e.configOk }) := by
  rw [Dci.control, hv, hd]
  rfl

theorem Dci.control_running {d : Dci} {v : Word32} (hv : v.getLsbD 0 = true) (hd : d.enable = true) :
    d.control v = { d with wqLog2 := v.extractLsb' 4 4, cqLog2 := v.extractLsb' 8 5 } := by
  rw [Dci.control, hv, hd]
  rfl

theorem Dci.control_end {d : Dci} {v : Word32} (hv : v.getLsbD 0 = false) :
    d.control v = { d with wqLog2 := v.extractLsb' 4 4, cqLog2 := v.extractLsb' 8 5, enable := false, wqHead := d.wqTail } := by
  rw [Dci.control, hv]
  rfl

end Sys2Proof.Machine

/-- Settles O28: each write reaches its register where it answers, and then, register by register, is the update stated. -/
theorem queueRegisters : Obligations.QueueRegisters := by
  refine ⟨⟨fun s m hs hm => ⟨fun hc => ?_, fun hc => ?_⟩, fun s m hs hm hg => ?_, fun s m v hw hs => ?_, fun s m v hw hs => ?_,
    fun s m v hs => ?_⟩, fun s v hs hv hd => ⟨_, rfl, ?_⟩, fun s v hs hv hd => ?_, fun s v hs hv => ?_,
    fun s v hw hs => ⟨fun hv => ?_, fun hv => ?_⟩, fun s v hs => ?_⟩
  -- MBX_ENABLE with a configuration that can be served, and with one that cannot
  · rw [exec_mbxEnable hs hm]
    exact congrArg _ (State.updMbx_congr (if_pos hc))
  · rw [exec_mbxEnable hs hm]
    refine congrArg _ (State.updMbx_congr ?_)
    rw [hc, Mailbox.raise_eq]
    rfl
  -- MBX_DISABLE
  · obtain ⟨r, w, e⟩ := s.stopMailbox_alone m hg
    refine ⟨_, exec_mbxDisable hs hm, ?_⟩
    rw [e, State.updMbx_updMbx]
    exact ⟨rfl, rfl⟩
  -- SQ_TAIL: a new period begins only where nothing waited and the watchdog has not fired
  · refine (ite_not_of_true hs).trans (congrArg _ (State.updMbx_congr ?_))
    rw [s.hostWrites_timeUs, Mailbox.raise_eq]
    refine ite_congr (by rw [Bool.and_eq_true, decide_eq_true_eq, Bool.not_eq_true']) (fun h => ?_) fun _ => rfl
    split
    · exact Mailbox.rearm_of_not_fired _ h.2
    · exact Mailbox.rearm_of_not_fired _ h.2
  -- CQ_HEAD
  · refine (ite_not_of_true hs).trans (congrArg _ (State.updMbx_congr ?_))
    exact if_congr (by rw [Bool.or_eq_true, Bool.not_eq_true']) rfl rfl
  -- WDOG_EN
  · refine (ite_not_of_true hs).trans (congrArg _ (State.updMbx_congr ?_))
    exact if_congr (by rw [Bool.and_eq_true, Bool.not_eq_true']) rfl rfl
  -- DCI_CTRL
  · rw [exec_dciEnableWrite v hs, Dci.control_start hv hd]
  · rw [exec_dciEnableWrite v hs, Dci.control_running hv hd]
  · rw [exec_dciEnableWrite v hs, Dci.control_end hv]
  -- DCI_WQ_TAIL below the ring's size, and at or above it
  · refine (ite_not_of_true hs).trans ?_
    simp [hv]
  · refine (ite_not_of_true hs).trans ?_
    simp [hv]
  -- DCI_CQ_HEAD
  · show execDciCqHeadWrite v s = _
    simp only [execDciCqHeadWrite, hs, Bool.true_and, Bool.or_eq_true, Bool.not_eq_true']
    split <;> rfl

/-! ### Writes of the register space, and the tick registers -/

namespace Sys2Proof.Machine

theorem decide_ne_eq_bne (a b : Nat) : decide (a ≠ b) = (a != b) := by
  rw [Bool.eq_iff_iff, decide_eq_true_eq, bne_iff_ne]

/-- Every register answers only where BAR0 does. -/
theorem bar_of_mmio {s : State} (h : s.mmio = true) : s.bar = true := (Bool.and_eq_true_iff.mp h).1

/-- A virtual function writes its own mailbox page alone (R239). -/
theorem exec_registerWrite_vf {s : State} {f : Fin 64} (off : BitVec 24) (v : Word32) (hs : s.mmio = true) (hf : f ≠ 0) :
    exec (.registerWrite f off v) s
      = .next (if off.toNat < 0x1000 then s.updMbx f fun b => b.writeReg off.toNat v else s) := by
  show execRegisterWrite f off v s = _
  simp [execRegisterWrite, bar_of_mmio hs, hs, hf]

/-- The physical function writes every mailbox page (R239). -/
theorem exec_registerWrite_page {s : State} {off : BitVec 24} (v : Word32) (hs : s.mmio = true) (hlo : 0x10000 ≤ off.toNat)
    (hhi : off.toNat < 0x50000) : exec (.registerWrite 0 off v) s
      = .next (s.updMbx (mboxFin ((off.toNat - 0x10000) / 0x1000)) fun b => b.writeReg (off.toNat % 0x1000) v) := by
  show execRegisterWrite 0 off v s = _
  simp [execRegisterWrite, bar_of_mmio hs, hs, hlo, hhi]

/-- Outside the mailbox pages a write of the physical function is one of its own blocks (R239). -/
theorem exec_registerWrite_pf {s : State} {off : BitVec 24} (v : Word32) (hs : s.bar = true) (h : 0x50000 ≤ off.toNat) :
    exec (.registerWrite 0 off v) s = .next (s.writePf off.toNat v) := by
  show execRegisterWrite 0 off v s = _
  have hpage : ¬ off.toNat < 0x50000 := Nat.not_lt.mpr h
  simp [execRegisterWrite, hs, hpage]

/-- A write of the physical function to its own blocks leaves all but four of them (R8, R239). -/
theorem State.writePf_frame (s : State) (off : Nat) (v : Word32) :
    ∃ d k g p, s.writePf off v = { s with dci := d, tk := k, dbg := g, pwr := p } := by
  unfold State.writePf
  repeat' split
  all_goals exact ⟨_, _, _, _, rfl⟩

/-- A register write leaves all but the mailboxes and four blocks (R8, R239). -/
theorem exec_registerWrite_frame {s t : State} {f : Fin 64} {off : BitVec 24} {v : Word32}
    (h : exec (.registerWrite f off v) s = .next t) :
    t = { s with mbx := t.mbx, dci := t.dci, tk := t.tk, dbg := t.dbg, pwr := t.pwr } := by
  change execRegisterWrite f off v s = .next t at h
  unfold execRegisterWrite at h
  dsimp only at h
  split at h
  · cases h; rfl
  · split at h
    · split at h <;> · cases h; rfl
    · split at h
      · cases h; rfl
      · obtain ⟨d, k, g, p, e⟩ := s.writePf_frame off.toNat v
        rw [e] at h
        cases h; rfl

end Sys2Proof.Machine

/-- Settles O29: the three reaches of a register write, its frame, and the tick registers one by one. -/
theorem registerWrites : Obligations.RegisterWrites := by
  refine ⟨⟨fun s f off v hs hf => exec_registerWrite_vf off v hs hf, fun s off v hs hlo hhi => exec_registerWrite_page v hs hlo hhi,
    fun s v hs => ?_, fun s v hs => ?_, fun b v => rfl, fun s off v hs hlo hhi => ?_, fun s t f off v h => exec_registerWrite_frame h⟩,
    fun s v => ⟨fun hd hs => ?_, fun hd => ?_⟩, fun s hs => ite_not_of_true hs, fun s hs => ite_not_of_true hs,
    fun s hs => ite_not_of_true hs⟩
  -- TICK_STATUS, the power status and the DCI_ block
  · rw [exec_registerWrite_pf v (bar_of_mmio hs) (by decide), State.writePf, hs]
    rfl
  · rw [exec_registerWrite_pf v (bar_of_mmio hs) (by decide), State.writePf, hs]
    rfl
  · rw [exec_registerWrite_pf v hs (by omega), State.writePf, if_pos ⟨hlo, hhi⟩]
  -- TICK_CTRL in direct host mode, and in any other
  · show execTickCtrlWrite v s = _
    simp only [execTickCtrlWrite, decide_ne_eq_bne]
    exact if_neg (by simp [hd, hs])
  · exact if_pos (by simp [hd])
end

/-! PROOFS. What moves the tick number. -/
section
namespace Sys2Proof.Machine
/-- Every command but those that take the power away and LC_ADVANCE keeps what `K` names, where `K` names no tick for a command that
sets it. -/
theorem exec_outKeeps {K : Kept} {i : Instr} {s : State} (hp : i.powers = false) (hl : ∀ x, i ≠ .lcAdvance x)
    (ht : i.setsTick = true → K.tick = none) (hk : Keeps K s) : OutKeeps K (exec i s) := by
  match i with
  | .negotiate m c => exact execNegotiate_keeps m c s hk
  | .openChannel m c => exact execOpenChannel_keeps m c s hk
  | .closeChannel m c => exact execCloseChannel_keeps m c s hk
  | .query m c => exact execQuery_keeps m c s hk
  | .loadModel m c => exact execLoadModel_keeps m c s hk
  | .evictModel m c => exact execEvictModel_keeps m c s hk
  | .loadAdapter m c => exact execLoadAdapter_keeps m c s hk
  | .retireAdapter m c => exact execRetireAdapter_keeps m c s hk
  | .loadGrammar m c => exact execLoadGrammar_keeps m c s hk
  | .loadVocab m c => exact execLoadVocab_keeps m c s hk
  | .sessionCreate m c => exact execSessionCreate_keeps m c s hk
  | .sessionDestroy m c => exact execSessionDestroy_keeps m c s hk
  | .park m c => exact execPark_keeps m c s hk
  | .revive m c => exact execRevive_keeps m c s hk
  | .handoffOffer m c => exact execHandoffOffer_keeps m c s hk
  | .handoffCommit m c => exact execHandoffCommit_keeps m c s hk
  | .queryOwner m c => exact execQueryOwner_keeps m c s hk
  | .adopt m c => exact execAdopt_keeps m c s hk
  | .claim m c => exact execClaim_keeps m c s hk
  | .purge m c => exact execPurge_keeps m c s hk
  | .submit m c => exact execSubmit_keeps m c s hk
  | .cancel m c => exact execCancel_keeps m c s hk
  | .resume m c => exact execResume_keeps m c s hk
  | .retract m c => exact execRetract_keeps m c s hk
  | .storeCreate m c => exact execStoreCreate_keeps m c s hk
  | .insert m c => exact execInsert_keeps m c s hk
  | .delete m c => exact execDelete_keeps m c s hk
  | .storeQuery m c => exact execStoreQuery_keeps m c s hk
  | .compact m c => exact execCompact_keeps m c s hk
  | .checkpoint m c => exact execCheckpoint_keeps m c s hk
  | .restore m c => exact execRestore_keeps m c s hk
  | .verifyReel m c => exact execVerifyReel_keeps m c s hk
  | .tenantCreate m c => exact execTenantCreate_keeps m c s hk
  | .attest m c => exact execAttest_keeps m c s hk
  | .keyRotate m c => exact execKeyRotate_keeps m c s hk
  | .schedLoad m c => exact execSchedLoad_keeps m c s hk
  | .gateListLoad m c => exact execGateListLoad_keeps m c s hk
  | .shaperSet m c => exact execShaperSet_keeps m c s hk
  | .energySet m c => exact execEnergySet_keeps m c s hk
  | .traceCfg m c => exact execTraceCfg_keeps m c s hk
  | .traceTrigger m c => exact execTraceTrigger_keeps m c s hk
  | .hangDump m c => exact execHangDump_keeps m c s hk
  | .countersRead m c => exact execCountersRead_keeps m c s hk
  | .groupJoin m c => exact execGroupJoin_keeps m c s hk
  | .groupShrink m c => exact execGroupShrink_keeps m c s hk
  | .routeMapSet m c => exact execRouteMapSet_keeps m c s hk
  | .shutdown m c => exact execShutdown_keeps m c s hk
  | .bistResults m c => exact execBistResults_keeps m c s hk
  | .dciCreate e => exact execDciCreate_keeps e s hk
  | .dciInput e => exact execDciInput_keeps e s hk
  | .dciStep e => exact execDciStep_keeps e s hk
  | .dciFlyer e => exact execDciFlyer_keeps e s hk
  | .dciDestroy e => exact execDciDestroy_keeps e s hk
  | .dciReqSet => exact execDciReqSet_keeps s hk
  | .dciReqClear => exact execDciReqClear_keeps s hk
  | .warmReset => exact execWarmReset_keeps (ht rfl) s hk
  | .mbxEnable m => exact execMbxEnable_keeps m s hk
  | .mbxDisable m => exact execMbxDisable_keeps m s hk
  | .sqTailWrite m v hw => exact execSqTailWrite_keeps m v hw s hk
  | .cqHeadWrite m v hw => exact execCqHeadWrite_keeps m v hw s hk
  | .tickCtrlWrite v => exact execTickCtrlWrite_keeps v s hk
  | .tickNowLoRead => exact execTickNowLoRead_keeps s hk
  | .satClear r => exact execSatClear_keeps r s hk
  | .dciEnableWrite v => exact execDciEnableWrite_keeps v s hk
  | .dciWqTailWrite v hw => exact execDciWqTailWrite_keeps v hw s hk
  | .dciCqHeadWrite v => exact execDciCqHeadWrite_keeps v s hk
  | .registerWrite f off v => exact execRegisterWrite_keeps f off v s hk
  | .lcChallenge => exact execLcChallenge_keeps s hk
  | .lcAdvance token => exact absurd rfl (hl _)
  | .bistRead => exact execBistRead_keeps s hk
  | .rawTestEngine => exact execRawTestEngine_keeps s hk
  | .coldReset => exact nomatch hp
  | .boot straps signatureOk => exact execBoot_keeps straps signatureOk s hk
  | .oscWaitDone => exact execOscWaitDone_keeps s hk
  | .bootComplete => exact execBootComplete_keeps (ht rfl) s hk
  | .railFault => exact nomatch hp
  | .thermalTrip => exact nomatch hp
  | .xtalLoss => exact execXtalLoss_keeps s hk
  | .hostClockLoss => exact execHostClockLoss_keeps s hk
  | .twineClockLoss k => exact execTwineClockLoss_keeps k s hk
  | .pciePerst p => exact execPciePerst_keeps p s hk
  | .functionLevelReset f => exact execFunctionLevelReset_keeps f s hk
  | .commitPoint => exact execCommitPoint_keeps (ht rfl) s hk
  | .tickInEdge sinceUs => exact execTickInEdge_keeps sinceUs s hk
  | .tickMarker port tick root => exact execTickMarker_keeps port tick root s hk
  | .pinLoss => exact execPinLoss_keeps s hk
  | .pinRestore => exact execPinRestore_keeps s hk
  | .tickFault marker => exact execTickFault_keeps marker s hk
  | .whorlBoundary measuredUj => exact execWhorlBoundary_keeps measuredUj s hk
  | .operatingPointStep ok => exact execOperatingPointStep_keeps ok s hk
  | .peakTrip => exact execPeakTrip_keeps s hk
  | .schedActivate => exact execSchedActivate_keeps s hk
  | .verdictDeadline => exact execVerdictDeadline_keeps s hk
  | .verdictWaitExpiry => exact execVerdictWaitExpiry_keeps s hk
  | .slotStart k => exact execSlotStart_keeps k s hk
  | .slotEnd k => exact execSlotEnd_keeps k s hk
  | .unitEnded u => exact execUnitEnded_keeps u s hk
  | .commitWindowOpen hw => exact execCommitWindowOpen_keeps hw s hk
  | .coordinatorDeadline => exact execCoordinatorDeadline_keeps s hk
  | .mirrorAckDeadline => exact execMirrorAckDeadline_keeps s hk
  | .inDoubtExpiry u => exact execInDoubtExpiry_keeps u s hk
  | .tokenize u => exact execTokenize_keeps u s hk
  | .prefixLookup u => exact execPrefixLookup_keeps u s hk
  | .prefillSlice u => exact execPrefillSlice_keeps u s hk
  | .decodeStep u => exact execDecodeStep_keeps u s hk
  | .decodeUnitCreate r => exact execDecodeUnitCreate_keeps r s hk
  | .ringRoomTimeout r => exact execRingRoomTimeout_keeps r s hk
  | .stallHoldExpiry r => exact execStallHoldExpiry_keeps r s hk
  | .parkTile u => exact execParkTile_keeps u s hk
  | .parkTileTimeout u => exact execParkTileTimeout_keeps u s hk
  | .reviveTile u => exact execReviveTile_keeps u s hk
  | .reviveTileTimeout u => exact execReviveTileTimeout_keeps u s hk
  | .searchPass u => exact execSearchPass_keeps u s hk
  | .storeQueryDeadline q => exact execStoreQueryDeadline_keeps q s hk
  | .chkptTile u => exact execChkptTile_keeps u s hk
  | .chkptTileTimeout u => exact execChkptTileTimeout_keeps u s hk
  | .reelWrite => exact execReelWrite_keeps s hk
  | .compactBuild u => exact execCompactBuild_keeps u s hk
  | .prune u => exact execPrune_keeps u s hk
  | .purgeSweep u => exact execPurgeSweep_keeps u s hk
  | .purgeTimeout p => exact execPurgeTimeout_keeps p s hk
  | .reencryptionSweep u => exact execReencryptionSweep_keeps u s hk
  | .modelShardFree u => exact execModelShardFree_keeps u s hk
  | .evictDrainDeadline slot => exact execEvictDrainDeadline_keeps slot s hk
  | .adapterFree u => exact execAdapterFree_keeps u s hk
  | .modelChunkRead slot chunk => exact execModelChunkRead_keeps slot chunk s hk
  | .modelChunkTimeout slot chunk => exact execModelChunkTimeout_keeps slot chunk s hk
  | .modelActivate slot => exact execModelActivate_keeps slot s hk
  | .groupWaitTimeout x => exact execGroupWaitTimeout_keeps x s hk
  | .groupApply x => exact execGroupApply_keeps x s hk
  | .vaultWriteDone => exact execVaultWriteDone_keeps s hk
  | .releaseKeyExpiry id => exact execReleaseKeyExpiry_keeps id s hk
  | .routeMapActivate => exact execRouteMapActivate_keeps s hk
  | .epochDrainDeadline => exact execEpochDrainDeadline_keeps s hk
  | .holdTimeout idx => exact execHoldTimeout_keeps idx s hk
  | .handoffOfferDeadline h => exact execHandoffOfferDeadline_keeps h s hk
  | .handoffAcceptDeadline h => exact execHandoffAcceptDeadline_keeps h s hk
  | .ownerQueryRetry h => exact execOwnerQueryRetry_keeps h s hk
  | .handoffSettleTimeout h => exact execHandoffSettleTimeout_keeps h s hk
  | .offer src msg => exact execOffer_keeps src msg s hk
  | .accept src msg => exact execAccept_keeps src msg s hk
  | .handoffMsgCommit src msg => exact execHandoffMsgCommit_keeps src msg s hk
  | .handoffMsgAbort src msg => exact execHandoffMsgAbort_keeps src msg s hk
  | .queryOwnerMsg src msg => exact execQueryOwnerMsg_keeps src msg s hk
  | .ownerReply src msg => exact execOwnerReply_keeps src msg s hk
  | .hankTile src h tile data => exact execHankTile_keeps src h tile data s hk
  | .ready rank key => exact execReady_keeps rank key s hk
  | .notReady rank key => exact execNotReady_keeps rank key s hk
  | .commit rank key => exact execCommit_keeps rank key s hk
  | .abandon rank key => exact execAbandon_keeps rank key s hk
  | .decisionQuery rank key => exact execDecisionQuery_keeps rank key s hk
  | .tableDigest rank id digest => exact execTableDigest_keeps rank id digest s hk
  | .tableVerdict go => exact execTableVerdict_keeps go s hk
  | .loaded rank digest lastVersion => exact execLoaded_keeps rank digest lastVersion s hk
  | .failed rank digest status => exact execFailed_keeps rank digest status s hk
  | .activate digest tick version => exact execActivate_keeps digest tick version s hk
  | .abort digest => exact execAbort_keeps digest s hk
  | .forward rank c body => exact execForward_keeps rank c body s hk
  | .mirror rank key entries => exact execMirror_keeps rank key entries s hk
  | .mirrorAck rank key => exact execMirrorAck_keeps rank key s hk
  | .act rank body => exact execAct_keeps rank body s hk
  | .move rank item => exact execMove_keeps rank item s hk
  | .topk rank stamp query hits => exact execTopk_keeps rank stamp query hits s hk
  | .traceMsg rank body => exact execTraceMsg_keeps rank body s hk
  | .status rank tick counts => exact execStatus_keeps rank tick counts s hk
  | .memberLost rank => exact execMemberLost_keeps rank s hk
  | .shrink survivors tick => exact execShrink_keeps survivors tick s hk
  | .widthChange => exact execWidthChange_keeps s hk
  | .sessionMove u => exact execSessionMove_keeps u s hk
  | .reshardTile u => exact execReshardTile_keeps u s hk
  | .shrinkTimeout => exact execShrinkTimeout_keeps s hk
  | .joinAck rank status => exact execJoinAck_keeps rank status s hk
  | .joinPropose joinTick table => exact execJoinPropose_keeps joinTick table s hk
  | .joinGo tick copy => exact execJoinGo_keeps (ht rfl) tick copy s hk
  | .joinTimeout => exact execJoinTimeout_keeps s hk
  | .hello via body => exact execHello_keeps via body s hk
  | .linkTrained port lanes => exact execLinkTrained_keeps port lanes s hk
  | .portRetrain port => exact execPortRetrain_keeps port s hk
  | .portDown port => exact execPortDown_keeps port s hk
  | .retry port seq => exact execRetry_keeps port seq s hk
  | .linkRetryTimeout port => exact execLinkRetryTimeout_keeps port s hk
  | .echo port ns => exact execEcho_keeps port ns s hk
  | .echoReply port ns nowNs => exact execEchoReply_keeps port ns nowNs s hk
  | .keyPhaseSwitch port => exact execKeyPhaseSwitch_keeps port s hk
  | .linkShaperRefill port => exact execLinkShaperRefill_keeps port s hk
  | .gateTakeover port => exact execGateTakeover_keeps port s hk
  | .gateEntrySwitch port entry => exact execGateEntrySwitch_keeps port entry s hk
  | .atsResponse space page frame => exact execAtsResponse_keeps space page frame s hk
  | .pageResponse space page ok => exact execPageResponse_keeps space page ok s hk
  | .pageRequestTimeout space page => exact execPageRequestTimeout_keeps space page s hk
  | .atsInvalidation space page => exact execAtsInvalidation_keeps space page s hk
  | .delayedRingWrite space page => exact execDelayedRingWrite_keeps space page s hk
  | .mailboxWatchdog m => exact execMailboxWatchdog_keeps m s hk
  | .stewardWatchdog => exact execStewardWatchdog_keeps s hk
  | .tickWatchdog => exact execTickWatchdog_keeps s hk
  | .hangDumpTimeout => exact execHangDumpTimeout_keeps s hk
  | .bistRunDone run => exact execBistRunDone_keeps run s hk
  | .flit port flit fecOk => exact execFlit_keeps port flit fecOk s hk
  | .stewardRestart => exact execStewardRestart_keeps s hk
  | .restoreRecord idx ok => exact execRestoreRecord_keeps idx ok s hk
  | .bistResultUpkeep u => exact execBistResultUpkeep_keeps u s hk
  | .wdogEnWrite m v => exact execWdogEnWrite_keeps m v s hk

/-- The tick and nothing else of a state, as what a command is held against. -/
def State.tickKept (s : State) : Kept := ⟨s.pending, 0, s.glb.lifecycle, some s.tk.tick, false⟩

theorem State.keeps_tickKept (s : State) : Keeps s.tickKept s :=
  ⟨fun h => (nomatch h), BitVec.and_zero, rfl, rfl, fun _ e => Option.some.inj e⟩

theorem Keeps.tick_eq {K : Kept} {t : State} {n : Nat} (h : Keeps K t) (hn : K.tick = some n) : t.tk.tick = n :=
  h.2.2.2.2 n hn

theorem execCommitPoint_of_due {s : State} (h : s.ticking = true) (hw : s.tk.windowOpen = true) :
    exec .commitPoint s = .next s.commitPoint := by
  show execCommitPoint s = _
  simp [execCommitPoint, h, hw]

theorem execCommitPoint_of_not_due {s : State} (h : s.ticking = false ∨ s.tk.windowOpen = false) : exec .commitPoint s = .next s := by
  show execCommitPoint s = _
  rcases h with h | h <;> simp [execCommitPoint, h]

theorem powers_of_setsTick {i : Instr} (h : i.setsTick = false) : i.powers = false := by
  unfold Instr.powers
  split
  · cases h
  · cases h
  · cases h
  · rfl
end Sys2Proof.Machine
open Sys2Proof Sys2Proof.Machine
/-- Settles O7: the commit point is the one command that counts a tick, and every command that sets no tick keeps it. -/
theorem tickAdvancesAtCommit : Obligations.TickAdvancesAtCommit := by
  refine ⟨fun s ht hw => ⟨_, execCommitPoint_of_due ht hw, ?_⟩, fun s => execCommitPoint_of_not_due, fun i s t hi h => ?_⟩
  · exact (State.commitPoint_keeps s s.keeps_tickKept).tick_eq rfl
  · exact (exec_outKeeps (powers_of_setsTick hi) (fun x e => by rw [e] at hi; cases hi) (fun e => by rw [e] at hi; cases hi)
      s.keeps_tickKept t h).tick_eq rfl
end

/-! PROOFS. Slots and units. -/
section
namespace Sys2Proof.Machine

/-! ### Admission draws from a slot and from the tick's allowance (R38) -/

/-- A slot's entry after `n` µJ are drawn from slot `k`. -/
def drawFrom (k n : Nat) (x : Nat × Nat) : Nat × Nat := if x.1 = k then (x.1, x.2 - n) else x

/-- The energy left in a running slot. -/
def State.slotLeft (s : State) (k : Nat) : Nat := ((s.tk.slots.find? fun x => x.1 = k).map (·.2)).getD 0

/-- The estimates of units, summed. -/
def sumEst (us : List UnitRec) : Nat := (us.map (·.est)).sum

/-- The units `us` have started in slot `k`: they run, and their estimates are drawn. -/
def Started (k : Nat) (us : List UnitRec) (s t : State) : Prop := ∃ queue a b ts st d, t = { s with
  work := { s.work with running := s.work.running ++ us.map (fun u => (k, u)), queue := queue, storeCredits := a, tenantTiles := b }
  tk := { s.tk with slots := s.tk.slots.map (drawFrom k (sumEst us)), allowLeft := s.tk.allowLeft - sumEst us }
  ten := ts, st := st, dbg := d }

theorem drawFrom_zero (k : Nat) : drawFrom k 0 = id := by
  funext x
  simp [drawFrom]

theorem drawFrom_comp (k a b : Nat) : drawFrom k b ∘ drawFrom k a = drawFrom k (a + b) := by
  funext x
  by_cases h : x.1 = k <;> simp [drawFrom, h, Nat.sub_sub]

theorem drawFrom_fst (k n : Nat) (x : Nat × Nat) : (drawFrom k n x).1 = x.1 := by
  unfold drawFrom
  split <;> rfl

theorem sumEst_append (us vs : List UnitRec) : sumEst (us ++ vs) = sumEst us + sumEst vs := by
  simp [sumEst]

theorem sumEst_cons (u : UnitRec) (us : List UnitRec) : sumEst (u :: us) = u.est + sumEst us := by
  simp [sumEst]

theorem Started.nil (k : Nat) (s : State) : Started k [] s s := by
  refine ⟨s.work.queue, s.work.storeCredits, s.work.tenantTiles, s.ten, s.st, s.dbg, ?_⟩
  simp [sumEst, drawFrom_zero]

theorem Started.append {k : Nat} {us vs : List UnitRec} {a b c : State} (h : Started k us a b) (h' : Started k vs b c) :
    Started k (us ++ vs) a c := by
  obtain ⟨_, _, _, _, _, _, rfl⟩ := h
  obtain ⟨queue, x, y, ts, st, d, rfl⟩ := h'
  refine ⟨queue, x, y, ts, st, d, ?_⟩
  simp [sumEst_append, ← drawFrom_comp, Nat.sub_sub]

theorem Started.slotLeft {k : Nat} {us : List UnitRec} {s t : State} (h : Started k us s t) :
    t.slotLeft k = s.slotLeft k - sumEst us := by
  obtain ⟨_, _, _, _, _, _, rfl⟩ := h
  have hp : (fun x : Nat × Nat => decide (x.1 = k)) ∘ drawFrom k (sumEst us) = fun x => decide (x.1 = k) := by
    funext x
    simp [drawFrom_fst]
  simp only [State.slotLeft, List.find?_map, hp]
  cases hf : s.tk.slots.find? (fun x => decide (x.1 = k)) with
  | none => simp
  | some x =>
    have hx : x.1 = k := by simpa using List.find?_some hf
    simp [drawFrom, hx]

theorem Started.allowLeft {k : Nat} {us : List UnitRec} {s t : State} (h : Started k us s t) :
    t.tk.allowLeft = s.tk.allowLeft - sumEst us := by
  obtain ⟨_, _, _, _, _, _, rfl⟩ := h
  rfl

/-- What is written after the draw, of tenants, scan groups, credits and the debug block, starts no unit. -/
theorem Started.after {k : Nat} {us : List UnitRec} {s t : State} (h : Started k us s t) (a b : Tbl Nat) (ts : TenantSt) (st : StoreSt)
    (d : DbgSt) : Started k us s { t with work.storeCredits := a, work.tenantTiles := b, ten := ts, st := st, dbg := d } := by
  obtain ⟨queue, _, _, _, _, _, rfl⟩ := h
  exact ⟨queue, a, b, ts, st, d, rfl⟩

theorem Started.formGroup {k : Nat} {us : List UnitRec} {s t : State} (h : Started k us s t) (kind : UnitKind) :
    Started k us s (match kind with | .searchPass g 0 => t.formGroup g | _ => t) := by
  split
  · next g =>
    obtain ⟨q, r, e⟩ := t.formGroup_frame g
    rw [e]
    exact h.after t.work.storeCredits t.work.tenantTiles t.ten { t.st with queries := q, groups := r } t.dbg
  · exact h

theorem Started.decodeSeen {k : Nat} {us : List UnitRec} {s t : State} (h : Started k us s t) (c : SlotClass) (o : Option Nat) :
    Started k us s (match c, o with
      | .decode, some i => { t with ten.tenants := Tb.upd t.ten.tenants i fun x => { x with decodeSeen := true } }
      | _, _ => t) := by
  split
  · exact h.after t.work.storeCredits t.work.tenantTiles _ t.st t.dbg
  · exact h

theorem Started.recorded {k : Nat} {us : List UnitRec} {s t : State} (h : Started k us s t) (u : UnitRec) (i : Nat) (b : Bytes) :
    Started k us s (((t.takeCredits u).count 1 i 1).traceRec 0x0010 17 b) := by
  obtain ⟨x, y, e⟩ := t.takeCredits_frame u
  rw [e]
  obtain ⟨d, e⟩ := State.count_frame { t with work.storeCredits := x, work.tenantTiles := y } 1 i 1
  rw [e]
  obtain ⟨d, e⟩ := State.traceRec_frame { t with work.storeCredits := x, work.tenantTiles := y, dbg := d } 0x0010 17 b
  rw [e]
  exact h.after x y t.ten t.st d

/-- A unit's start draws its own estimate. -/
theorem State.startUnit_started (s : State) (k : Nat) (u : UnitRec) :
    Started k [{ u with lastSlot := k, tags := s.sramTags u }] s (s.startUnit k u) :=
  Started.recorded (Started.formGroup (Started.decodeSeen
    ⟨_, s.work.storeCredits, s.work.tenantTiles, s.ten, s.st, s.dbg, rfl⟩ _ _) _) _ _ _

/-- A queued unit as it starts: with the estimate of its present size, and its tags. -/
def StartOf (n k : Nat) (v u : UnitRec) : Prop :=
  u = { v with size := u.size, est := estimateUj v.kind u.size n, lastSlot := k, tags := u.tags }

theorem State.sized_startOf (s : State) (k : Nat) (v : UnitRec) (tags : List Nat) :
    StartOf s.grp.n k v { s.sized v with lastSlot := k, tags := tags } := by
  unfold StartOf State.sized
  rfl

/-- What admission starts comes from the list that it goes through, and neither the slot nor the tick gives more than it has. -/
theorem State.admitLoop_started (e : SlotEntry) (k : Nat) (l : List UnitRec) (s : State) : ∃ us,
    Started k us s (s.admitLoop e k l) ∧ (∀ u ∈ us, ∃ v ∈ l, StartOf s.grp.n k v u) ∧
    sumEst us ≤ s.slotLeft k ∧ sumEst us ≤ s.tk.allowLeft := by
  induction l generalizing s with
  | nil => exact ⟨[], Started.nil k s, fun u h => (nomatch h), Nat.zero_le _, Nat.zero_le _⟩
  | cons v l ih =>
    unfold State.admitLoop
    dsimp only
    split
    · next h =>
      have h1 := s.startUnit_started k (s.sized v)
      obtain ⟨us, h2, hus, hslot, hallow⟩ := ih (s.startUnit k (s.sized v))
      simp only [Bool.and_eq_true, decide_eq_true_eq] at h
      obtain ⟨⟨-, hl⟩, ha⟩ := h
      have hleft := h1.slotLeft
      have hgrp : (s.startUnit k (s.sized v)).grp = s.grp := by
        obtain ⟨_, _, _, _, _, _, e⟩ := h1
        rw [e]
      have htick := h1.allowLeft
      rw [sumEst_cons] at hleft htick
      dsimp only at hleft htick
      change _ ≤ s.slotLeft k at hl
      rw [hgrp] at hus
      refine ⟨_, h1.append h2, fun u hu => ?_, ?_⟩
      · rcases List.mem_cons.mp hu with rfl | hu
        · exact ⟨v, List.mem_cons_self, s.sized_startOf k v _⟩
        · obtain ⟨w, hw, h⟩ := hus u hu
          exact ⟨w, List.mem_cons_of_mem _ hw, h⟩
      · rw [List.singleton_append, sumEst_cons]
        dsimp only
        have h0 : sumEst [] = 0 := rfl
        omega
    · obtain ⟨us, h1, hus, h⟩ := ih s
      refine ⟨us, h1, fun u hu => ?_, h⟩
      obtain ⟨w, hw, h⟩ := hus u hu
      exact ⟨w, List.mem_cons_of_mem _ hw, h⟩

/-- Admission into a slot of the row. -/
theorem State.admission_started (s : State) (k : Nat) (e : SlotEntry) (hr : s.row[k]? = some e) : ∃ us,
    Started k us s (s.admission k) ∧ (∀ u ∈ us, ∃ v ∈ s.work.queue, v.cls = e.cls ∧ StartOf s.grp.n k v u) ∧
    sumEst us ≤ s.slotLeft k ∧ sumEst us ≤ s.tk.allowLeft := by
  unfold State.admission
  rw [hr]
  dsimp only
  split
  · exact ⟨[], Started.nil k s, fun u h => (nomatch h), Nat.zero_le _, Nat.zero_le _⟩
  · obtain ⟨us, h, hus, hle⟩ := s.admitLoop_started e k (s.work.queue.filter fun u => u.cls = e.cls)
    refine ⟨us, h, fun u hu => ?_, hle⟩
    obtain ⟨v, hv, hu⟩ := hus u hu
    rw [List.mem_filter, decide_eq_true_eq] at hv
    exact ⟨v, hv.1, hv.2, hu⟩

/-- A slot that has just begun has its whole budget, and the other slots theirs. -/
theorem slots_begun {l : List (Nat × Nat)} {k : Nat} (h : ∀ x ∈ l, x.1 ≠ k) (w n : Nat) :
    ((l ++ [(k, w)]).find? fun x => x.1 = k) = some (k, w) ∧
    (l ++ [(k, w)]).map (drawFrom k n) = l ++ [(k, w - n)] := by
  constructor
  · rw [List.find?_append, List.find?_eq_none.mpr (by simpa using h)]
    simp
  · rw [List.map_append, List.map_congr_left (g := id) fun x hx => by simp [drawFrom, h x hx]]
    simp [drawFrom]

/-- The state in which a slot's admission takes place: its offset has come, and its budget is whole. -/
def State.slotBegun (s : State) (k : Fin 16) (e : SlotEntry) : State :=
  { s.atTime (s.tk.startUs + e.startUs) with tk.slots := s.tk.slots ++ [(k.val, e.energyUj)] }

theorem withRefused_of_dbg {s t : State} {d : DbgSt} (h : t = { s with dbg := d }) (r : Bool) :
    { t with tk.refused := r } = { s with dbg := d, tk.refused := r } := by
  rw [h]

/-- A slot that may begin begins with its admission; what it leaves waiting is counted (R37, R348, R380). -/
theorem execSlotStart_admission {s : State} {k : Fin 16} {e : SlotEntry} (hr : s.row[k.val]? = some e) (ht : s.ticking = true)
    (ha : s.tk.awaited = false) (hb : s.boundaryDue = false) (hw : s.tk.windowOpen = false)
    (hu : s.timeUs ≤ s.tk.startUs + e.startUs) (hs : ∀ x ∈ s.tk.slots, x.1 ≠ k.val) : ∃ d r, exec (.slotStart k) s = .next
      { (s.slotBegun k e).admission k.val with dbg := d, tk.refused := r } := by
  have hn : s.tk.slots.any (fun x => x.1 = k.val) = false := by simpa using hs
  show ∃ d r, execSlotStart k s = _
  unfold execSlotStart
  simp only [hr, ht, ha, hb, hw, hn, Nat.not_lt.mpr hu, Bool.not_true, Bool.or_self, decide_false, Bool.false_eq_true, if_false]
  generalize hleft : (List.filter _ _) = left
  have hcount : ∀ t : State, ∃ d, (if left.isEmpty then t else t.count 1 (4 * (e.cls.code - 1) + 3) left.length) = { t with dbg := d } := by
    intro t
    split
    · exact ⟨_, rfl⟩
    · exact State.count_frame t _ _ _
  obtain ⟨d, e'⟩ := hcount ((s.slotBegun k e).admission k.val)
  exact ⟨d, _, congrArg Host.Outcome.next (withRefused_of_dbg e' _)⟩
end Sys2Proof.Machine
open Sys2Proof Sys2Proof.Machine

/-- Settles O38: a slot's start is its admission, whose units come from the queue and draw what they are estimated at. -/
theorem slotStart : Obligations.SlotStart := by
  intro s k e hr ht ha hb hw hu hs
  obtain ⟨d, r, he⟩ := execSlotStart_admission hr ht ha hb hw hu hs
  obtain ⟨us, ⟨queue, x, y, ts, st, d', h⟩, hus, hslot, hallow⟩ := (s.slotBegun k e).admission_started k.val e hr
  obtain ⟨hfind, hmap⟩ := slots_begun hs e.energyUj (sumEst us)
  have hbudget : (s.slotBegun k e).slotLeft k.val = e.energyUj := by
    show ((List.find? _ (s.tk.slots ++ [(k.val, e.energyUj)])).map _).getD 0 = _
    rw [hfind]
    rfl
  rw [hbudget] at hslot
  rw [h] at he
  refine ⟨_, us, he, rfl, hus, Nat.sub_add_cancel hallow, hmap, hslot, ?_⟩
  simp only [State.slotBegun, State.atTime, Nat.max_eq_right hu]
end

/-! PROOFS. Slots and units. -/
section
namespace Sys2Proof.Machine

/-! ### Units of requests that run -/

/-- Only the free counter and the debug block differ. -/
def Noted (s t : State) : Prop := ∃ f d, t = { s with freeCtr := f, dbg := d }

theorem State.noteKeyMiss_noted (s : State) (i : Nat) : Noted s (s.noteKeyMiss i) := by
  unfold State.noteKeyMiss
  split
  · obtain ⟨d, e⟩ := s.traceRec_frame 0x8007 16 _
    exact ⟨s.freeCtr, d, e⟩
  · exact ⟨s.freeCtr, s.dbg, rfl⟩

theorem State.drawCount_noted (s : State) (g i j a b : Nat) : Noted s ((s.drawFree.2.count g i a).count g j b) := by
  obtain ⟨d, e⟩ := State.count_frame s.drawFree.2 g i a
  rw [e]
  obtain ⟨d', e⟩ := State.count_frame { s.drawFree.2 with dbg := d } g j b
  rw [e]
  exact ⟨_, _, rfl⟩

/-- The running unit in place `u` finishes where it has effects to give, and is abandoned where it has none (R40, R45). -/
theorem State.runUnit_ends {s x : State} {u k : Nat} {v : UnitRec} {f : UnitKind → Option (Option (List Effect))} {o : Option (List Effect)}
    (hr : s.work.running[u]? = some (k, v)) (hf : f v.kind = some o) (hx : Noted s x) :
    (∀ effs, o = some effs → s.finishes k v effs (x.runUnit u f)) ∧ (o = none → s.abandons k v (x.runUnit u f)) := by
  obtain ⟨fc, d, rfl⟩ := hx
  have hat : State.runningAt { s with freeCtr := fc, dbg := d } u = some (k, v) := hr
  refine ⟨?_, ?_⟩
  · rintro effs rfl
    rw [State.runUnit, hat]
    dsimp only
    rw [hf]
    exact State.finish_spec { s with freeCtr := fc, dbg := d } k v effs
  · rintro rfl
    rw [State.runUnit, hat]
    dsimp only
    rw [hf]
    exact State.abandonUnit_spec { s with freeCtr := fc, dbg := d } k v

theorem State.tokenizeEffects_noted {s t : State} (h : Noted s t) (r : Nat) : t.tokenizeEffects r = s.tokenizeEffects r := by
  obtain ⟨f, d, rfl⟩ := h
  rfl

theorem State.runningAt_kind {s : State} {u k : Nat} {v : UnitRec} (h : s.work.running[u]? = some (k, v)) :
    ((s.runningAt u).map fun (e : Nat × UnitRec) => e.2.kind) = some v.kind := by
  rw [State.runningAt, h]
  rfl

/-- TOKENIZE of a running unit, after the draws of its cache counts. -/
theorem execTokenize_runs {s : State} {u k r : Nat} {v : UnitRec} (h : s.work.running[u]? = some (k, v)) (hk : v.kind = .tokenize r) :
    ∃ x f, exec (.tokenize u) s = .next (x.runUnit u f) ∧ Noted s x ∧ f v.kind = some (s.tokenizeEffects r) := by
  have hx := s.drawCount_noted 4 0 1 (s.drawFree.1.toNat % 2 ^ 32) (s.drawFree.1.toNat / 2 ^ 32 % 2 ^ 32)
  rw [show exec (.tokenize u) s = execTokenize u s from rfl, execTokenize, State.runningAt_kind h, hk]
  exact ⟨_, _, rfl, hx, congrArg some (State.tokenizeEffects_noted hx r)⟩

theorem execPrefixLookup_runs {s : State} {u i : Nat} {v : UnitRec} (hk : v.kind = .lookup i) :
    ∃ f, exec (.prefixLookup u) s = .next (s.runUnit u f) ∧ f v.kind = some (s.lookupEffects i) :=
  ⟨_, rfl, by rw [hk]⟩

theorem execPrefillSlice_runs {s : State} {u k i : Nat} {v : UnitRec} (h : s.work.running[u]? = some (k, v)) (hk : v.kind = .prefill i) :
    ∃ f, exec (.prefillSlice u) s = .next ((s.noteKeyMiss u).runUnit u f) ∧ f v.kind = some (s.prefillEffects i) := by
  rw [show exec (.prefillSlice u) s = execPrefillSlice u s from rfl, execPrefillSlice, State.runningAt_kind h, hk]
  exact ⟨_, rfl, rfl⟩

theorem execDecodeStep_runs {s : State} {u k r : Nat} {v : UnitRec} (h : s.work.running[u]? = some (k, v)) (hk : v.kind = .decode r) :
    ∃ f, exec (.decodeStep u) s = .next ((s.noteKeyMiss u).runUnit u f) ∧ f v.kind = some (s.decodeEffects r) := by
  rw [show exec (.decodeStep u) s = execDecodeStep u s from rfl, execDecodeStep, State.runningAt_kind h, hk]
  exact ⟨_, rfl, rfl⟩

/-- What a running unit does at its end, as the statements say it. -/
theorem ends_of_runUnit {s x : State} {i : Instr} {u k : Nat} {v : UnitRec} {f : UnitKind → Option (Option (List Effect))}
    {o : Option (List Effect)} (hr : s.work.running[u]? = some (k, v)) (hf : f v.kind = some o) (hx : Noted s x)
    (he : exec i s = .next (x.runUnit u f)) :
    (∀ effs, o = some effs → ∃ t, exec i s = .next t ∧ s.finishes k v effs t) ∧
    (o = none → ∃ t, exec i s = .next t ∧ s.abandons k v t) := by
  obtain ⟨h1, h2⟩ := State.runUnit_ends hr hf hx
  exact ⟨fun effs h => ⟨_, he, h1 effs h⟩, fun h => ⟨_, he, h2 h⟩⟩
end Sys2Proof.Machine
open Sys2Proof Sys2Proof.Machine

/-- Settles O40: each of the four runs its unit on a state that differs from the present one in notes alone. -/
theorem requestUnits : Obligations.RequestUnits := by
  refine ⟨fun s u k r v h hk => ?_, fun s u k i v h hk => ?_, fun s u k i v h hk => ?_, fun s u k r v h hk => ?_⟩
  · obtain ⟨x, f, he, hx, hf⟩ := execTokenize_runs h hk
    exact ends_of_runUnit h hf hx he
  · obtain ⟨f, he, hf⟩ := execPrefixLookup_runs (s := s) (u := u) hk
    exact ends_of_runUnit h hf ⟨s.freeCtr, s.dbg, rfl⟩ he
  · obtain ⟨f, he, hf⟩ := execPrefillSlice_runs h hk
    exact ends_of_runUnit h hf (s.noteKeyMiss_noted u) he
  · obtain ⟨f, he, hf⟩ := execDecodeStep_runs h hk
    exact ends_of_runUnit h hf (s.noteKeyMiss_noted u) he
end

/-! PROOFS. Decisions and messages among members. -/
section
namespace Sys2Proof.Machine

/-! ### Decisions on group units (R48, R49) -/

/-- What sending writes is what `sentAs` leaves to it. -/
theorem Sent.eq_sentAs {s t : State} (h : Sent s t) : t = s.sentAs t := by
  obtain ⟨_, _, _, _, _, _, rfl⟩ := h
  rfl

theorem Sent.work_eq {s t : State} (h : Sent s t) : t.work = s.work := by rw [h.eq_sentAs]; rfl

/-- Decisions added to those kept. -/
def State.keepAll (s : State) (ds : List Decision) : State := { s with work.decisions := s.work.decisions ++ ds }

theorem State.keepAll_nil (s : State) : s.keepAll [] = s := by
  rw [State.keepAll, List.append_nil]

/-- A decision of the coordinator is kept, and beyond that only messages go out. -/
theorem State.settleVote_sent (s : State) (key : UnitKey) (c : Bool) : Sent (s.keepAll [⟨s.tk.tick, key, c⟩]) (s.settleVote key c) :=
  foldl_holds (Sent (s.keepAll [⟨s.tk.tick, key, c⟩])) _ (fun t _ h => h.trans (State.sendMsg_frame t _ _ _)) _ _ (Sent.refl _)

theorem State.keepAll_sent {s t : State} (h : Sent s t) (ds : List Decision) : Sent (s.keepAll ds) (t.keepAll ds) := by
  obtain ⟨p, d, f, o, q, n, rfl⟩ := h
  exact ⟨p, d, f, o, q, n, rfl⟩

theorem State.decisionOf_congr {s t : State} (h : t.work.decisions = s.work.decisions) (key : UnitKey) :
    t.decisionOf key = s.decisionOf key := by
  rw [State.decisionOf, State.decisionOf, h]

/-- A unit that was undecided goes by the first decision added on it. -/
theorem State.decisionOf_keepAll {s : State} {key : UnitKey} (h : s.decisionOf key = none) (ds : List Decision) :
    (s.keepAll ds).decisionOf key = (ds.find? fun d => d.key = key).map (·.commit) := by
  have hn : s.work.decisions.find? (fun d => d.key = key) = none := Option.map_eq_none_iff.mp h
  rw [State.decisionOf, State.keepAll, List.find?_append, hn, Option.none_or]

theorem State.decisionOf_settleVote {s : State} {key : UnitKey} (h : s.decisionOf key = none) (c : Bool) :
    (s.settleVote key c).decisionOf key = some c := by
  rw [State.decisionOf_congr (congrArg WorkSt.decisions (s.settleVote_sent key c).work_eq), State.decisionOf_keepAll h]
  simp

/-! ### Messages on group units (R48, R49, R287, R293, R295) -/

/-- The coordinator's decision on a unit after a report, by the reports that it holds. -/
def State.talliedAs (s : State) (key : UnitKey) (votes : List (UnitKey × Nat × Bool)) : Option Bool :=
  if (s.decisionOf key).isSome then s.decisionOf key
  else if votes.any (fun v => decide (v.1 = key) && !v.2.2) then some false
  else if (s.participants key).all (fun r => votes.any fun v => decide (v.1 = key) && decide (v.2.1 = r)) then some true
  else none

/-- Counting the reports decides as the reports say, and changes nothing but the decisions kept and what sending changes. -/
theorem State.tally_spec (s : State) (key : UnitKey) : (s.tally key).decisionOf key = s.talliedAs key s.work.votes ∧
    ∃ ds, Sent (s.keepAll ds) (s.tally key) := by
  unfold State.tally State.talliedAs
  dsimp only
  simp only [List.any_filter]
  cases hd : s.decisionOf key with
  | some c => exact ⟨hd, [], by rw [s.keepAll_nil]; exact Sent.refl s⟩
  | none =>
    simp only [Option.isSome_none, Bool.false_eq_true, if_false]
    split
    · exact ⟨State.decisionOf_settleVote hd false, _, s.settleVote_sent key false⟩
    · split
      · exact ⟨State.decisionOf_settleVote hd true, _, s.settleVote_sent key true⟩
      · exact ⟨hd, [], by rw [s.keepAll_nil]; exact Sent.refl s⟩

theorem State.vote_spec (s : State) (rank : Nat) (key : UnitKey) (ok : Bool) :
    (s.vote rank key ok).work.votes = s.work.votes ++ [(key, rank, ok)] ∧
    (s.vote rank key ok).decisionOf key = s.talliedAs key (s.work.votes ++ [(key, rank, ok)]) ∧
    s.vote rank key ok = { s.sentAs (s.vote rank key ok) with
      work := { s.work with votes := (s.vote rank key ok).work.votes, decisions := (s.vote rank key ok).work.decisions } } := by
  obtain ⟨h, ds, hs⟩ := State.tally_spec { s with work.votes := s.work.votes ++ [(key, rank, ok)] } key
  refine ⟨?_, h, ?_⟩
  · exact congrArg WorkSt.votes hs.work_eq
  · obtain ⟨p, d, f, o, q, n, e⟩ := hs
    unfold State.vote
    rw [e]
    rfl

theorem execReady_of {s : State} {rank : Fin 64} {key : UnitKey} (h : s.fromMember rank = true) (hc : s.glb.rank = s.coordinator key) :
    exec (.ready rank key) s = .next (s.vote rank.val key true) :=
  if_pos (by rw [h, Bool.true_and, decide_eq_true_eq]; exact hc)

theorem execNotReady_of {s : State} {rank : Fin 64} {key : UnitKey} (h : s.fromMember rank = true) (hc : s.glb.rank = s.coordinator key) :
    exec (.notReady rank key) s = .next (s.vote rank.val key false) :=
  if_pos (by rw [h, Bool.true_and, decide_eq_true_eq]; exact hc)

/-- A decision is heard of a member that is the unit's coordinator, where none is kept. -/
theorem State.hearDecision_of {s : State} {rank : Fin 64} {key : UnitKey} (h : s.fromMember rank = true)
    (hc : rank.val = s.coordinator key) (hd : s.decisionOf key = none) (c : Bool) :
    s.hearDecision rank key c = s.keepAll [⟨s.tk.tick, key, c⟩] :=
  if_pos (by rw [h, hd, decide_eq_true hc]; rfl)

theorem State.hearDecision_none {s : State} {rank : Fin 64} {key : UnitKey}
    (h : s.fromMember rank = false ∨ rank.val ≠ s.coordinator key ∨ (s.decisionOf key).isSome = true) (c : Bool) :
    s.hearDecision rank key c = s := by
  refine if_neg ?_
  rcases h with h | h | h
  · simp [h]
  · simp [h]
  · simp [Option.isSome_iff_ne_none.mp h]

theorem execDecisionQuery_of {s : State} {rank : Fin 64} {key : UnitKey} {c : Bool} (h : s.fromMember rank = true)
    (hc : s.glb.rank = s.coordinator key) (hd : s.decisionOf key = some c) :
    exec (.decisionQuery rank key) s = .next (s.sendMsg (.rank rank.val) 0 (if c then .commit key else .abandon key)) := by
  show execDecisionQuery rank key s = _
  simp [execDecisionQuery, h, ← hc, hd]

theorem execDecisionQuery_none {s : State} {rank : Fin 64} {key : UnitKey}
    (h : s.fromMember rank = false ∨ s.glb.rank ≠ s.coordinator key ∨ s.decisionOf key = none) :
    exec (.decisionQuery rank key) s = .next s := by
  show execDecisionQuery rank key s = _
  unfold execDecisionQuery
  rcases h with h | h | h
  · simp [h]
  · simp [h]
  · split
    · rfl
    · rw [h]

/-- Entries staged for the buddy: sending the acknowledgement leaves them. -/
theorem execMirror_of {s : State} {rank : Fin 64} (h : s.fromMember rank = true) (hr : (rank.val + 1) % s.grp.n = s.glb.rank)
    (key : UnitKey) (es : List MirrorEntry) : ∃ t, exec (.mirror rank key es) s = .next t ∧
      Sent { s with grp.mirrorStaged := s.grp.mirrorStaged ++ es.map fun e => (key, e) } t :=
  ⟨_, if_neg (by simp [h, hr]), State.sendMsg_frame _ _ _ _⟩
end Sys2Proof.Machine
open Sys2Proof Sys2Proof.Machine

/-- Settles O50: each message where it is for this device, then each where it is not. -/
theorem unitMessages : Obligations.UnitMessages := by
  refine ⟨fun s rank key h hc ok => ?_, fun s rank key h hc hd => ?_, fun s rank key c h hc hd => execDecisionQuery_of h hc hd,
    fun s rank key es h hr => ?_, fun s rank key h hr => ?_, fun s rank tick counts h => ?_, fun s rank key => ⟨fun h => ?_, fun h => ?_,
    fun h => ?_, fun h es => ?_, fun h => ?_, fun h tick counts => ?_⟩⟩
  -- READY and NOT_READY
  · obtain ⟨hv, hd, hf⟩ := s.vote_spec rank.val key ok
    refine ⟨_, ?_, hv, ?_, hf⟩
    · rw [execReady_of h hc, execNotReady_of h hc]
      cases ok <;> rfl
    · rw [hd, hv]
      rfl
  -- COMMIT and ABANDON
  · exact ⟨congrArg _ (State.hearDecision_of h hc hd true), congrArg _ (State.hearDecision_of h hc hd false)⟩
  -- MIRROR
  · obtain ⟨t, he, p, d, f, o, q, n, rfl⟩ := execMirror_of h hr key es
    exact ⟨_, he, rfl, rfl⟩
  -- MIRROR_ACK
  · exact if_pos (by simp [h, hr])
  -- STATUS
  · exact if_neg (by simp [h])
  -- messages that have no effect
  · have hno : ¬ (s.fromMember rank && decide (s.glb.rank = s.coordinator key)) = true := by
      rcases h with h | h <;> simp [h]
    exact ⟨if_neg hno, if_neg hno, execDecisionQuery_none (h.imp_right .inl)⟩
  · exact execDecisionQuery_none (.inr (.inr h))
  · exact ⟨congrArg _ (State.hearDecision_none h true), congrArg _ (State.hearDecision_none h false)⟩
  · exact if_pos (by rcases h with h | h <;> simp [h])
  · exact if_neg (by rcases h with h | h <;> simp [h])
  · exact if_pos (by simp [h])
end

/-! PROOFS. The commit window. -/
section
namespace Sys2Proof.Machine

/-! ### The commit window (R48, R49, R262, R293) -/

/-- Reading the consumers of the rings writes the request table and the debug block alone. -/
theorem State.readConsumers_frame (s : State) : ∃ r d, s.readConsumers = { s with ss.reqs := r, dbg := d } := by
  unfold State.readConsumers
  refine foldl_holds (fun t => ∃ r d, t = { s with ss.reqs := r, dbg := d }) _ ?_ _ _ ⟨_, _, rfl⟩
  rintro t e ⟨r, d, rfl⟩
  dsimp only
  split
  · exact ⟨_, _, rfl⟩
  · split
    · exact ⟨_, _, rfl⟩
    · split
      · obtain ⟨d', h⟩ := State.traceRec_frame
          (State.updReq { s with ss.reqs := r, dbg := d } e.1 fun q => { q with consumer := (q.producer + 2 ^ 32 - q.ringCount) % 2 ^ 32 })
          0x8003 17 (toLE 4 e.1)
        exact ⟨_, d', h⟩
      · exact ⟨_, _, rfl⟩

theorem foldl_fixed {α : Type} {f : State → α → State} {s : State} {l : List α} (h : ∀ a, f s a = s) : l.foldl f s = s :=
  foldl_holds (· = s) f (fun t a e => by rw [e]; exact h a) l s rfl

/-- Outside a group no unit is reported, and none lacks an acknowledgement. -/
theorem State.reportUnits_alone {s : State} (h : s.grp.n ≤ 1) : s.reportUnits = s := by
  have hready : ∀ k, s.sendReady k = s := fun k => if_pos h
  have hnot : ∀ k, s.sendNotReady k = s := fun k => if_pos (by simp [h])
  have hacked : ∀ i, s.unacked i = false := fun i => by
    unfold State.unacked
    split
    · rfl
    · simp [Nat.not_lt.mpr h]
  unfold State.reportUnits
  dsimp only
  rw [foldl_fixed (s := s) (l := s.work.done) fun i => by
    split
    · rfl
    · rw [hacked, if_neg Bool.false_ne_true, hready, ite_self]]
  exact foldl_fixed fun i => by
    split
    · rw [hready, hnot, ite_self]
    · rfl

theorem State.sendMirrors_alone {s : State} (h : s.grp.n ≤ 1) : s.sendMirrors = s := if_pos h

theorem State.sendStatus_alone {s : State} (h : s.glb.inGroup = false) : s.sendStatus = s := if_pos (by simp [h])

/-- The state in which the commit window's work begins. -/
def State.windowAt (s : State) (hw : List (Nat × Bytes)) : State := (s.hostWrites hw).atTime (s.tk.startUs + s.tickUs - 8)

theorem State.windowAt_eq (s : State) (hw : List (Nat × Bytes)) : s.windowAt hw =
    { s with host0 := (s.hostWrites hw).host0, timeUs := Nat.max s.timeUs (s.tk.startUs + s.tickUs - 8) } := by
  obtain ⟨m, e⟩ := s.hostWrites_frame hw
  rw [State.windowAt, e]
  rfl

theorem execCommitWindowOpen_of {s : State} (ht : s.ticking = true) (hw : s.tk.windowOpen = false) (hs : s.tk.slots = [])
    (ha : s.tk.awaited = false) (hd : s.tableDue = false) (w : List (Nat × Bytes)) : exec (.commitWindowOpen w) s = .next
      { (s.windowAt w).readConsumers.reportUnits.sendMirrors.sendStatus with
        tk.windowOpen := true, glb.stewardUs := if (s.windowAt w).serving then (s.windowAt w).timeUs else (s.windowAt w).glb.stewardUs } :=
  if_neg (by simp [ht, hw, hs, ha, hd])

/-! ### Deadlines of the coordinator and of the mirrors -/

/-- Each of a list of units decided ABANDON; beyond that only messages go out. -/
theorem State.abandonVotes_sent (l : List UnitKey) (s : State) :
    Sent (s.keepAll (l.map fun k => ⟨s.tk.tick, k, false⟩)) (l.foldl (fun s k => s.settleVote k false) s) := by
  induction l generalizing s with
  | nil => rw [List.map_nil, s.keepAll_nil]; exact Sent.refl s
  | cons k l ih =>
    have hk := s.settleVote_sent k false
    have htick : (s.settleVote k false).tk.tick = s.tk.tick := by rw [hk.eq_sentAs]; rfl
    have h := (State.keepAll_sent hk (l.map fun k => ⟨s.tk.tick, k, false⟩)).trans (htick ▸ ih (s.settleVote k false))
    rwa [State.keepAll, State.keepAll, List.append_assoc] at h

theorem State.decisionOf_abandoned {s : State} {key : UnitKey} {l : List UnitKey} (h : s.decisionOf key = none) (hk : key ∈ l) (n : Nat) :
    (s.keepAll (l.map fun k => ⟨n, k, false⟩)).decisionOf key = some false := by
  rw [State.decisionOf_keepAll h, List.find?_map]
  cases hf : l.find? ((fun d : Decision => decide (d.key = key)) ∘ fun k => ⟨n, k, false⟩) with
  | none =>
    have := List.find?_eq_none.mp hf key hk
    simp at this
  | some k => rfl

theorem State.undecided_mem {s : State} {k : UnitKey} (h : k ∈ s.undecided) : s.decisionOf k = none ∧ s.glb.rank = s.coordinator k := by
  have := (List.mem_filter.mp h).2
  rw [Bool.and_eq_true, decide_eq_true_eq, Option.isNone_iff_eq_none] at this
  exact this

/-- The coordinator's deadline: what it has not decided is abandoned, in a group. -/
theorem State.cutUndecided_sent (s : State) :
    Sent (s.keepAll (if s.grp.n ≤ 1 then [] else s.undecided.map fun k => ⟨s.tk.tick, k, false⟩)) s.cutUndecided := by
  unfold State.cutUndecided
  split
  · rw [s.keepAll_nil]; exact Sent.refl s
  · exact State.abandonVotes_sent s.undecided s

theorem execCoordinatorDeadline_of {s : State} (ht : s.ticking = true) (hw : s.tk.windowOpen = true) :
    exec .coordinatorDeadline s = .next (s.atTime (s.tk.startUs + s.tickUs - 5)).cutUndecided :=
  if_neg (by simp [ht, hw])

theorem execMirrorAckDeadline_of {s : State} (ht : s.ticking = true) (hw : s.tk.windowOpen = true) :
    exec .mirrorAckDeadline s = .next (s.atTime (s.tk.startUs + s.tickUs - 2)).cutUnacked :=
  if_neg (by simp [ht, hw])

/-- The mirrors' deadline: in a group commands leave the staged list to be checked again. -/
theorem State.cutUnacked_frame (s : State) : ∃ w a, s.cutUnacked = { s with work.steward := w, work.again := a } ∧
    (s.grp.n ≤ 1 → w = s.work.steward ∧ a = s.work.again) ∧ ∀ i ∈ w, i ∈ s.work.steward := by
  unfold State.cutUnacked
  split
  · exact ⟨_, _, rfl, fun _ => ⟨rfl, rfl⟩, fun _ h => h⟩
  · next h => exact ⟨_, _, rfl, fun h' => absurd h' h, fun _ hi => (List.mem_filter.mp hi).1⟩

/-! ### A unit in doubt is given up (R49) -/

/-- Giving up a session's KV writes pages and the session alone, which stays in the table. -/
theorem State.releaseKv_frame (s : State) (j : Nat) : ∃ p x, s.releaseKv j = { s with kv.pages := p, ss.sessions := x } ∧
    (Tb.get x j).isSome = (Tb.get s.ss.sessions j).isSome := by
  unfold State.releaseKv
  split
  · exact ⟨_, _, rfl, rfl⟩
  · have h : ∀ l : List (Nat × Nat), ∃ p, l.foldl (fun s e => s.unrefPage e.2) s = { s with kv.pages := p } := fun l =>
      foldl_holds (fun t => ∃ p, t = { s with kv.pages := p }) _ (by rintro t a ⟨p, rfl⟩; exact ⟨_, rfl⟩) l s ⟨_, rfl⟩
    obtain ⟨p, e⟩ := h _
    dsimp only
    rw [e]
    refine ⟨_, _, rfl, ?_⟩
    rw [Tb.get_upd, if_pos rfl, Option.isSome_map]

/-- A rebuild started for a session of the table is in the table of rebuilds; the staged list, the units in doubt and the tick stay. -/
theorem State.startRebuild_spec {s : State} {j : Nat} (h : (Tb.get s.ss.sessions j).isSome) (rb : Rebuild) (stamp : Nat) :
    Tb.has (s.startRebuild j rb stamp).ss.rebuilds j = true ∧ (s.startRebuild j rb stamp).work.inDoubt = s.work.inDoubt ∧
    (s.startRebuild j rb stamp).work.steward = s.work.steward ∧ (s.startRebuild j rb stamp).tk = s.tk := by
  obtain ⟨x, hx⟩ := Option.isSome_iff_exists.mp h
  unfold State.startRebuild
  rw [hx]
  refine ⟨?_, rfl, rfl, rfl⟩
  show (Tb.get (Tb.set s.ss.rebuilds j _) j).isSome = true
  rw [Tb.get_set_same]
  rfl

/-- A unit in doubt for 64 ticks whose session has KV to make again. -/
theorem execInDoubtExpiry_of {s : State} {u n j : Nat} {i : Item} {v : UnitRec} {x : Session} (hu : s.work.inDoubt[u]? = some (n, i))
    (hn : n + 64 ≤ s.tk.tick) (hv : i.unit = some v) (hj : i.session = some j) (hx : Tb.get s.ss.sessions j = some x)
    (hl : 1 < x.hist.length) : exec (.inDoubtExpiry u) s = .next
      (((((State.releaseKv { s with work.inDoubt := s.work.inDoubt.filter (· != (n, i)), tk := s.tk.abandonOne } j).updSess j fun x =>
        { x with guesses := [], residuals := [] }).updReq x.reqId fun q => { q with firstStep := true }).startRebuild j
        ⟨x.hist.length - 1, 64, 64, x.formats, none, none, [], [], false, 0⟩ (stampOf s.tk.tick 0xFFFF)).stage
          [.spool j 0x0D 0 (toLE 4 x.hist.length)] (some j)) := by
  have hs : (i.session.bind fun j => (Tb.get s.ss.sessions j).map fun x => (j, x)) = some (j, x) := by
    rw [hj, Option.bind_some, hx, Option.map_some]
  show execInDoubtExpiry u s = _
  unfold execInDoubtExpiry
  rw [hu]
  dsimp only
  rw [if_neg (Nat.not_lt.mpr hn), hv, hs]
  dsimp only
  rw [if_neg (Nat.not_le.mpr hl)]
  obtain ⟨p, y, e, -⟩ := State.releaseKv_frame { s with work.inDoubt := s.work.inDoubt.filter (· != (n, i)), tk := s.tk.abandonOne } j
  rw [e]
  rfl
end Sys2Proof.Machine

open Sys2Proof Sys2Proof.Machine

/-- Settles O45: the window's work is none outside a group, the deadlines are their two cuts, and the expiry rebuilds. -/
theorem commitWindow : Obligations.CommitWindow := by
  refine ⟨fun s hw ht ho hs ha hd => ⟨_, execCommitWindowOpen_of ht ho hs ha hd hw, rfl, fun hv => ?_, fun hn hg => ?_⟩,
    fun s ht hw => ⟨_, execCoordinatorDeadline_of ht hw, ?_, fun hn k hk => ?_, fun h => ?_⟩,
    fun s ht hw => ⟨_, execMirrorAckDeadline_of ht hw, ?_⟩, fun s u n j i v x hu hn hv hj hx hl => ⟨_, execInDoubtExpiry_of hu hn hv hj hx hl, ?_⟩⟩
  -- the window opens
  · rw [s.windowAt_eq]
    exact if_pos hv
  · rw [s.windowAt_eq]
    obtain ⟨r, d, e⟩ := State.readConsumers_frame
      { s with host0 := (s.hostWrites hw).host0, timeUs := Nat.max s.timeUs (s.tk.startUs + s.tickUs - 8) }
    rw [e, State.reportUnits_alone (by exact hn), State.sendMirrors_alone (by exact hn), State.sendStatus_alone (by exact hg)]
  -- the coordinator's deadline
  · have h := (s.atTime (s.tk.startUs + s.tickUs - 5)).cutUndecided_sent
    obtain ⟨p, d, f, o, q, n, e⟩ := h
    rw [e]
    rfl
  · obtain ⟨hd, hc⟩ := State.undecided_mem hk
    have h := (s.atTime (s.tk.startUs + s.tickUs - 5)).cutUndecided_sent
    rw [if_neg (show ¬ (s.atTime (s.tk.startUs + s.tickUs - 5)).grp.n ≤ 1 from Nat.not_le.mpr hn)] at h
    refine ⟨hc, ?_⟩
    rw [State.decisionOf_congr (congrArg WorkSt.decisions h.work_eq)]
    exact State.decisionOf_abandoned (s := s.atTime (s.tk.startUs + s.tickUs - 5)) hd hk s.tk.tick
  · have hnil : (if s.grp.n ≤ 1 then [] else s.undecided.map fun k => (⟨s.tk.tick, k, false⟩ : Decision)) = [] := by
      rcases h with h | h
      · exact if_pos h
      · rw [h, List.map_nil, ite_self]
    have h' := (s.atTime (s.tk.startUs + s.tickUs - 5)).cutUndecided_sent
    rw [h'.work_eq]
    exact (congrArg (s.work.decisions ++ ·) hnil).trans (List.append_nil _)
  -- the mirrors' deadline
  · obtain ⟨w, a, e, h1, h2⟩ := (s.atTime (s.tk.startUs + s.tickUs - 2)).cutUnacked_frame
    rw [e]
    exact ⟨rfl, h1, h2⟩
  -- a unit in doubt
  · obtain ⟨p, y, e, hy⟩ := State.releaseKv_frame { s with work.inDoubt := s.work.inDoubt.filter (· != (n, i)), tk := s.tk.abandonOne } j
    rw [e]
    have hin : (Tb.get (Tb.upd y j fun x => { x with guesses := [], residuals := [] }) j).isSome := by
      rw [Tb.get_upd, if_pos rfl, Option.isSome_map, hy]
      exact Option.isSome_iff_exists.mpr ⟨x, hx⟩
    obtain ⟨h1, h2, h3, h4⟩ := State.startRebuild_spec
      (s := (State.updSess { s with work.inDoubt := s.work.inDoubt.filter (· != (n, i)), tk := s.tk.abandonOne, kv.pages := p, ss.sessions := y }
        j fun x => { x with guesses := [], residuals := [] }).updReq x.reqId fun q => { q with firstStep := true })
      hin ⟨x.hist.length - 1, 64, 64, x.formats, none, none, [], [], false, 0⟩ (stampOf s.tk.tick 0xFFFF)
    refine ⟨?_, ?_, h1, ?_⟩
    · rw [State.stage_inDoubt, h2]
      intro h
      simpa using (List.mem_filter.mp h).2
    · rw [State.stage_tk, h4]
      rfl
    · rw [State.stage_steward, h3]
      rfl
end

/-! PROOFS. Lost members and the width change. -/
section
namespace Sys2Proof.Machine

/-! ### Leaving a group (R29, R295) -/

/-- A width change rewrites the stores and stages the ends of their queries, and no more. -/
theorem State.reshardStores_frame (s : State) (surv : Word64) (n : Nat) : ∃ x w, s.reshardStores surv n =
    { s with st.stores := x, work.steward := w } := by
  unfold State.reshardStores
  refine foldl_holds (fun t => ∃ x w, t = { s with st.stores := x, work.steward := w }) _ ?_ _ _ ⟨_, _, rfl⟩
  rintro _ a ⟨x, w, rfl⟩
  dsimp only
  split
  · exact ⟨_, _, rfl⟩
  · exact foldl_holds (fun t => ∃ x w, t = { s with st.stores := x, work.steward := w }) _
      (by rintro _ _ ⟨x, w, rfl⟩; exact ⟨_, _, rfl⟩) _ _ ⟨_, _, rfl⟩

/-- What leaving a group gives: no group, no work, nothing staged but the GROUP event, and the state held. -/
theorem State.leaveGroup_spec (s : State) : s.leaveGroup.glb.inGroup = false ∧ s.leaveGroup.glb.rank = 0 ∧ s.leaveGroup.grp.n = 1 ∧
    s.leaveGroup.tk.noUnits = true ∧ s.leaveGroup.work.queue = [] ∧ s.leaveGroup.work.running = [] ∧ s.leaveGroup.work.done = [] ∧
    s.leaveGroup.ss = s.ss ∧ s.leaveGroup.grp.held = true ∧ s.leaveGroup.work.steward = [⟨none, 16, none, [s.leaveGroup.groupEvent]⟩] ∧
    s.leaveGroup = { s with tk := s.leaveGroup.tk, glb := s.leaveGroup.glb, grp := s.leaveGroup.grp, ports := s.leaveGroup.ports
                            work := s.leaveGroup.work, st := s.leaveGroup.st, inbox := [] } := by
  unfold State.leaveGroup State.standAlone
  obtain ⟨x, w, e⟩ := State.reshardStores_frame s.dropWork (BitVec.ofNat 64 (2 ^ s.dropWork.glb.rank)) s.dropWork.grp.n
  rw [e]
  exact ⟨rfl, rfl, rfl, rfl, rfl, rfl, rfl, rfl, rfl, rfl, rfl⟩

/-! ### A lost member (R295, R296) -/

theorem execMemberLost_of {s : State} {rank : Fin 64} (ht : s.inTicks = true) (hr : rank.val < s.grp.n) (hs : s.silent rank.val = true)
    (hn : s.grp.shrink = none) : exec (.memberLost rank) s = .next
      (if !quorum s.grp.n ((List.range s.grp.n).filter fun r => !s.silent r) then s.leaveGroup
      else if ((List.range s.grp.n).filter fun r => !s.silent r).head? ≠ some s.glb.rank then s
      else ({ s with grp.shrink := some (rankMask ((List.range s.grp.n).filter fun r => !s.silent r), s.tk.tick + 2) } : State).stage
        (((List.range s.grp.n).filter (· ≠ s.glb.rank)).map fun r =>
          .send (.rank r) (.shrink (rankMask ((List.range s.grp.n).filter fun r => !s.silent r)) (s.tk.tick + 2)))) := by
  show execMemberLost rank s = _
  unfold execMemberLost
  rw [if_neg (by simp [ht, hs, hn, Nat.not_le.mpr hr])]
  simp only [apply_ite Host.Outcome.next]

/-! ### The width change (R35, R296) -/

/-- The state before a width change differs from the present one by what the change gives up and by the decider's move. -/
def Prepared (s z : State) : Prop :=
  z.glb = s.glb ∧ z.tk.tick = s.tk.tick ∧ z.grp.n = s.grp.n ∧ z.grp.members = s.grp.members

theorem Prepared.moveDecider {s z : State} (h : Prepared s z) (surv : Word64) (c : Nat) : Prepared s (z.moveDecider surv c) := by
  unfold State.moveDecider
  dsimp only
  split
  · exact h
  · split <;> exact h

/-- A survivor's rank after the change is its new one. -/
theorem rankAfter_survivor {surv : Word64} {n r k : Nat} (h : newRank surv n r = some k) (kept : Option Nat) :
    (rankAfter surv n kept r).getD r = k := by
  rw [rankAfter, h, Option.getD_some]

theorem execWidthChange_of {s : State} {surv : Word64} {c : Nat} (h : s.grp.shrink = some (surv, c)) (ht : s.inTicks = true)
    (hc : c < s.tk.tick) : ∃ z, Prepared s z ∧ exec .widthChange s = .next (if s.decidesDrop surv c
      then (z.widthChange surv false (s.keptRank surv)).sendVerdict false else z.widthChange surv false (s.keptRank surv)) := by
  show ∃ z, _ ∧ execWidthChange s = _
  unfold execWidthChange
  rw [h]
  dsimp only
  rw [if_neg (by simp [ht, hc])]
  generalize hl : ((List.range s.grp.n).any fun r => !surv.getLsbD r && s.keptRank surv != some r) = lost
  have h1 : ∃ w, (if lost && s.chkpt.isSome then s.stage (s.chkptFailEffects .eInternal) else s) = { s with work.steward := w } := by
    split <;> exact ⟨_, rfl⟩
  obtain ⟨w, e⟩ := h1
  rw [e]
  cases hr : s.restore with
  | none =>
    refine ⟨_, ?_, rfl⟩
    exact Prepared.moveDecider ⟨rfl, rfl, rfl, rfl⟩ surv c
  | some k =>
    cases lost
    all_goals
      refine ⟨_, ?_, rfl⟩
      exact Prepared.moveDecider ⟨rfl, rfl, rfl, rfl⟩ surv c

/-- The verdict DROP sent: it is staged last, and it is taken here. -/
theorem State.sendVerdict_drop (s : State) : ∃ k, (s.sendVerdict false) = { s with
    tk := k, work.steward := s.work.steward ++ [⟨none, 16, none, s.verdictSends false⟩] } ∧
    k = { s.tk with verdictBy := none, digests := [], verdictSent := true, staged := none, schedMismatch := true
                    rose := s.tk.rose || !s.tk.schedMismatch } := by
  unfold State.sendVerdict State.decideTable State.takeVerdict
  dsimp only
  split <;> exact ⟨_, rfl, rfl⟩

theorem State.groupEvent_congr {s t : State} (h1 : t.glb = s.glb) (h2 : t.grp = s.grp) (h3 : t.tk.tick = s.tk.tick) :
    t.groupEvent = s.groupEvent := by
  rw [State.groupEvent, State.groupEvent, h1, h2, h3]

/-! ### The 60 s of a removed device (R300) -/

theorem State.loseRemoved_frame (s : State) : ∃ m, s.loseRemoved = { s with grp.moves := m } ∧ (s.grp.leaving = true → m = []) := by
  unfold State.loseRemoved
  split
  · exact ⟨_, rfl, fun _ => rfl⟩
  · next h => exact ⟨_, rfl, fun h' => absurd h' h⟩

/-- The state in which the 60 s have ended: their command is forgotten, and what is left on the removed device is lost. -/
def State.shrinkLate (s : State) : State := { s with grp.shrinkCmd := none, grp.shrinkUntilUs := 0 }.loseRemoved

theorem State.loseRemoved_late (s : State) : ∃ m, s.shrinkLate = { s with grp.shrinkCmd := none, grp.shrinkUntilUs := 0, grp.moves := m } ∧
    (s.grp.leaving = true → m = []) := State.loseRemoved_frame _

section
variable {s : State} (hu : s.grp.shrinkUntilUs ≠ 0) (hp : s.pointReached s.grp.shrinkUntilUs = true)
include hu hp

theorem execShrinkTimeout_none (hc : s.grp.shrinkCmd = none) : exec .shrinkTimeout s = .next s.shrinkLate := by
  refine (if_neg (by simp [hu, hp])).trans ?_
  simp only [hc]
  rfl

theorem execShrinkTimeout_some {x : Nat × Nat × Nat} (hc : s.grp.shrinkCmd = some x) :
    exec .shrinkTimeout s = .next (s.shrinkLate.stage [.complete x.1 .eTimeout []]) := by
  refine (if_neg (by simp [hu, hp])).trans ?_
  simp only [hc]
  rfl
end
end Sys2Proof.Machine

open Sys2Proof Sys2Proof.Machine

/-- Settles O52: the cases of a lost member, the announcement taken, the width change with the decider's DROP, and the 60 s. -/
theorem members : Obligations.Members := by
  refine ⟨fun s rank ht hr hs hn => ⟨fun hq => ?_, fun hq hh => ?_, fun hq hh => ?_⟩, fun s m c ht => if_pos ht,
    fun s surv c h ht hc => ?_, fun s hu hp => ?_⟩
  -- too few survivors, the lowest survivor, another survivor
  · obtain ⟨h1, h2, h3, h4, h5, h6, -, h7, h8, h9, -⟩ := s.leaveGroup_spec
    refine ⟨s.leaveGroup, ?_, h1, h2, h3, h4, h5, h6, h7, h8, h9⟩
    rw [execMemberLost_of ht hr hs hn, hq]
    rfl
  · rw [execMemberLost_of ht hr hs hn, hq, if_neg (by simp), if_neg (by simpa using hh)]
  · rw [execMemberLost_of ht hr hs hn, hq, if_neg (by simp), if_pos hh]
  -- the width change
  · obtain ⟨z, ⟨hg, hk, hn, hm⟩, he⟩ := execWidthChange_of h ht hc
    obtain ⟨pg, pt, pn, pm, -, ps, pmiss, -, pev⟩ := State.widthChange_place z surv false (s.keptRank surv)
    rw [hg, hn] at pg
    rw [hn] at pn pm
    rw [hm] at pm
    rw [hg] at pev
    have hin : (z.widthChange surv false (s.keptRank surv)).glb.inGroup = true := by
      rw [pg]
      exact (Bool.and_eq_true_iff.mp ht).2
    have hrank : ∀ k, newRank surv s.grp.n s.glb.rank = some k → (z.widthChange surv false (s.keptRank surv)).glb.rank = k := by
      intro k hk
      rw [pg]
      exact rankAfter_survivor hk _
    generalize z.widthChange surv false (s.keptRank surv) = y at he pg pt pn pm ps pmiss pev hin hrank
    have hev : s.keptRank surv ≠ some s.glb.rank → ⟨none, 16, none, [y.groupEvent]⟩ ∈ y.work.steward :=
      fun hk => List.mem_of_getLast? (pev hk)
    cases hd : s.decidesDrop surv c with
    | false =>
      rw [hd] at he
      exact ⟨y, he, pn, pm, ps, pmiss, hin, hrank, hev, fun h => nomatch h⟩
    | true =>
      rw [hd] at he
      obtain ⟨k, e, rfl⟩ := y.sendVerdict_drop
      refine ⟨_, he, ?_⟩
      rw [e]
      refine ⟨pn, pm, ps, pmiss, hin, hrank, fun hk => List.mem_append_left _ (hev hk), fun _ => ⟨rfl, rfl, ?_⟩⟩
      exact List.getLast?_concat ..
  -- the 60 s
  · obtain ⟨m, e, hm⟩ := s.loseRemoved_late
    cases hc : s.grp.shrinkCmd with
    | none => exact ⟨_, (execShrinkTimeout_none hu hp hc).trans (congrArg _ e), rfl, rfl, hm, (List.append_nil _).symm, rfl⟩
    | some x => exact ⟨_, (execShrinkTimeout_some hu hp hc).trans (congrArg (fun t : State => Host.Outcome.next (t.stage _)) e), rfl, rfl, hm, rfl, rfl⟩
end

/-! PROOFS. The schedule commands. -/
section
namespace Sys2Proof.Machine

/-! ### The checks of the schedule commands (R33, R282, R284, R285, R361) -/

theorem Ctx.read_of {x : Ctx} {a n : Nat} {b : Bytes} (h : x.rd .port0 a n = some b) : x.read a n = .ok b := by
  rw [Ctx.read, h, want_some]

/-- A command that is served whose own checks pass completes. -/
theorem hostCommand_takes_of {own : State → Ctx → Checked (List Effect)} {s : State} {m : Fin 64} {c : Cmd} {op : Nat} {effs : List Effect}
    (h : s.serves m c op) (he : own (s.sees m c) (s.given m c) = .ok effs) : s.hostCommand m c op own = .next (s.takes m c effs) :=
  State.hostCommand_takes s m c op effs h he

/-- The checks of SCHED_LOAD on a buffer of the right length are those of R33. -/
theorem checkSchedLoad_read {s : State} {m : Fin 64} {c : Cmd} {b : Bytes} (ha : fld c 16 8 % 16 = 0)
    (hs : (s.sees m c).tk.staged = none) (hl : fld c 24 8 = 32832) (hb : (s.given m c).rd .port0 (fld c 16 8) 32832 = some b) :
    checkSchedLoad (s.sees m c) (s.given m c) = match schedChecks (s.sees m c).tk.tick (fun us => (s.sees m c).lowerW * us) b with
      | .ok t => .ok [.schedStage t (Sha.sha384 b), .complete s.nextCmd .ok []]
      | .error st => .error (st, []) := by
  simp only [checkSchedLoad, State.given_f, hl, show Nat.min 32832 32832 = 32832 from rfl, Ctx.read_of hb, ha, hs, Option.isNone_none,
    decide_true, must_true, checked_bind, State.given_done]
  cases schedChecks (s.sees m c).tk.tick (fun us => (s.sees m c).lowerW * us) b <;> rfl

theorem checkSchedLoad_busy {s : State} {m : Fin 64} {c : Cmd} (ha : fld c 16 8 % 16 = 0) (hs : (s.sees m c).tk.staged ≠ none) :
    checkSchedLoad (s.sees m c) (s.given m c) = .error (.eBusy, []) := by
  obtain ⟨g, hg⟩ := Option.ne_none_iff_exists'.mp hs
  simp only [checkSchedLoad, State.given_f, ha, hg, decide_true, must_true, checked_bind]
  rfl

theorem checkGateListLoad_ok {s : State} {m : Fin 64} {c : Cmd} {b : Bytes} (hp : fld c 8 1 ≤ 19) (ha : fld c 16 8 % 16 = 0)
    (hb : (s.given m c).rd .port0 (fld c 16 8) (Nat.min (fld c 24 8) 288) = some b) (hl : fld c 24 8 = 32 + 8 * fieldAt b 6 2)
    (hg : gateFields b = true) (hlo : (s.sees m c).tk.tick + 16 ≤ (gateListOf b).takeover)
    (hhi : (gateListOf b).takeover ≤ (s.sees m c).tk.tick + 2 ^ 32) (hn : ((s.sees m c).ports[Fin.ofNat 20 (fld c 8 1)]).stagedGates = none) :
    checkGateListLoad (s.sees m c) (s.given m c) = .ok [.gateStage (fld c 8 1) (gateListOf b), .complete s.nextCmd .ok []] := by
  simp only [checkGateListLoad, State.given_f, Ctx.read_of hb, decide_eq_true hp, decide_eq_true ha, decide_eq_true hl, hg,
    decide_eq_true hlo, decide_eq_true hhi, hn, Option.isNone_none, Bool.and_self, must_true, checked_bind, State.given_done]
  rfl

theorem checkShaperSet_tenant {s : State} {m : Fin 64} {c : Cmd} (h12 : 1 ≤ fld c 12 4) (h16 : 1 ≤ fld c 16 4) (h8 : fld c 8 1 = 0)
    (h10 : fld c 10 1 = 0) (h9 : fld c 9 1 ≤ 63) (hr : fld c 12 4 ≤ 2147483647) (hb : fld c 16 4 ≤ 2147483647)
    (ht : Tb.has (s.sees m c).ten.tenants (fld c 9 1) = true) : checkShaperSet (s.sees m c) (s.given m c)
      = .ok [.tenantShaper (fld c 9 1) (fld c 12 4) (fld c 16 4) ((s.given m c).flag 0), .complete s.nextCmd .ok []] := by
  simp only [checkShaperSet, State.given_f, h8, h10, h9, hr, hb, h12, h16, ht, Nat.zero_le, decide_true, if_true, Bool.and_self, must_true,
    checked_bind, State.given_done, Nat.zero_ne_one, if_false]
  rfl

theorem checkShaperSet_link {s : State} {m : Fin 64} {c : Cmd} (h12 : 1 ≤ fld c 12 4) (h16 : 1 ≤ fld c 16 4) (h8 : fld c 8 1 = 1)
    (h10 : fld c 10 1 ≤ 6) (h9 : fld c 9 1 ≤ 19) (hr : fld c 12 4 ≤ 200000) (hb : fld c 16 4 ≤ 4096)
    (hf : (s.given m c).flag 0 = false) : checkShaperSet (s.sees m c) (s.given m c)
      = .ok [.linkShaper (fld c 9 1) (fld c 10 1) (fld c 12 4) (fld c 16 4), .complete s.nextCmd .ok []] := by
  simp only [checkShaperSet, State.given_f, h8, h10, h9, hr, hb, h12, h16, hf, Nat.le_refl, decide_true, Bool.not_false, Nat.one_ne_zero,
    if_false, if_true, Bool.and_self, must_true, checked_bind, State.given_done]
  rfl

theorem checkEnergySet_ok {s : State} {m : Fin 64} {c : Cmd} (h1 : 1 ≤ fld c 8 4) (h2 : fld c 8 4 ≤ 2400) :
    checkEnergySet (s.sees m c) (s.given m c) = .ok [.energySet (fld c 8 4), .complete s.nextCmd .ok []] := by
  simp only [checkEnergySet, State.given_f, h1, h2, decide_true, Bool.and_self, must_true, checked_bind, State.given_done]
  rfl

/-! ### What their effects do (R33, R282 to R285, R361) -/

theorem State.updPort_ofNat_val (s : State) (p : Fin 20) (f : Port → Port) : s.updPort (Fin.ofNat 20 p.val) f = s.updPort p f :=
  congrArg (s.updPort · f) (Fin.ofNat_val_eq_self p)

theorem State.applyPlain_gateStage (s : State) (p : Fin 20) (g : GateList) (n : Nat) : s.applyPlain (.gateStage p.val g) n =
    s.updPort p fun x => { x with stagedGates := some g } := by
  rw [← State.updPort_ofNat_val]
  rfl

theorem State.applyPlain_linkShaper (s : State) (p : Fin 20) (tc r b n : Nat) : s.applyPlain (.linkShaper p.val tc r b) n =
    s.updPort p fun x => { x with shapers := x.shapers.modify tc fun h => { h with rate := r, burst := b, bucket := Nat.min h.bucket (b * 256) } } := by
  rw [← State.updPort_ofNat_val]
  rfl

theorem State.applyPlain_tenantShaper (s : State) (k r b : Nat) (full : Bool) (n : Nat) : s.applyPlain (.tenantShaper k r b full) n =
    { s with ten.tenants := Tb.upd s.ten.tenants k fun x => { x with rate := r, burst := b, bucket := if full then (b : Int) * 1000000 else 0 } } :=
  rfl

theorem ports_set_getElem (v : Vector Port 20) (p : Fin 20) (x : Port) : (v.set p x)[p] = x := Vector.getElem_set_self p.isLt
end Sys2Proof.Machine

open Sys2Proof Sys2Proof.Machine

/-- Settles O23: each command's checks pass under its conditions, and each effect is the update that it names. -/
theorem scheduleCommands : Obligations.ScheduleCommands := by
  refine ⟨fun s m c b h ha hs hl hb => ?_, fun s m c h ha hs => ?_, fun s m c b h hp ha hb hl hg hlo hhi hn => ?_,
    fun s m c h h12 h16 => ⟨fun h8 h10 h9 hr hb ht => ?_, fun h8 h10 h9 hr hb hf => ?_⟩, fun s m c h h1 h2 => ?_,
    fun t n => ⟨fun x d => rfl, fun p g => ?_, fun k r b full x hx => ?_, fun p tc r b => ?_, fun w => ⟨rfl, rfl⟩⟩⟩
  · refine (State.hostCommand_serves s m c _ h).trans ?_
    rw [checkSchedLoad_read ha hs hl hb]
    cases schedChecks (s.sees m c).tk.tick (fun us => (s.sees m c).lowerW * us) b <;> rfl
  · refine (State.hostCommand_serves s m c _ h).trans ?_
    rw [checkSchedLoad_busy ha hs]
    rfl
  · exact hostCommand_takes_of h (checkGateListLoad_ok hp ha hb hl hg hlo hhi hn)
  · exact hostCommand_takes_of h (checkShaperSet_tenant h12 h16 h8 h10 h9 hr hb ht)
  · exact hostCommand_takes_of h (checkShaperSet_link h12 h16 h8 h10 h9 hr hb hf)
  · exact hostCommand_takes_of h (checkEnergySet_ok h1 h2)
  · rw [State.applyPlain_gateStage, State.updPort_ports, ports_set_getElem]
  · rw [State.applyPlain_tenantShaper, Tb.get_upd, if_pos rfl, hx]
    rfl
  · rw [State.applyPlain_linkShaper, State.updPort_ports, ports_set_getElem]
end

/-! PROOFS. The boot sequence. -/
section
namespace Sys2Proof.Machine

theorem execBoot_of {s : State} (straps : BitVec 9) (ok : Bool) (hm : s.glb.mode = .boot) (hb : s.glb.bootStage = 0) :
    exec (.boot straps ok) s = .next { s with glb.straps := straps, glb.signatureOk := ok, glb.bootStage := 1
                                              glb.bootUntilUs := s.timeUs + oscWaitUs (straps.toNat % 16) } :=
  if_neg (by simp [hm, hb])

theorem execOscWaitDone_of {s : State} (hm : s.glb.mode = .boot) (hb : s.glb.bootStage = 1) : exec .oscWaitDone s =
    .next { s.atTime s.glb.bootUntilUs with glb.bootStage := 2, glb.link0 := true, glb.link1 := true } :=
  if_neg (by simp [hm, hb])

/-! ### The end of the sequence (R264, R372, R373) -/

theorem execBootComplete_locked {s : State} (hm : s.glb.mode = .boot) (hb : s.glb.bootStage = 2)
    (hl : s.glb.lifecycle = .blank ∨ s.glb.lifecycle = .scrapped) : exec .bootComplete s = .next { s with glb.bootStage := 3 } := by
  show execBootComplete s = _
  unfold execBootComplete
  rw [if_neg (by simp [hm, hb]), if_pos (by simpa using hl)]

/-- Past step 3, the sequence goes by the signature and then by the BIST record. -/
theorem execBootComplete_unlocked {s : State} (hm : s.glb.mode = .boot) (hb : s.glb.bootStage = 2) (h1 : s.glb.lifecycle ≠ .blank)
    (h2 : s.glb.lifecycle ≠ .scrapped) : exec .bootComplete s =
      if !s.glb.signatureOk then
        .next ({ s with glb.mode := .direct, glb.bootStage := 4, dci.active := true, dci.cause := 1, tk.startUs := s.timeUs
                        tk.table := defaultTable s.pwr.boardW }.setSticky 3)
      else if s.bistStops then .next { s with glb.bistFail := true, glb.bootStage := 3 } else .next s.comeReady := by
  show execBootComplete s = _
  unfold execBootComplete
  rw [if_neg (by simp [hm, hb]), if_neg (by simp [h1, h2])]

/-- A device that comes ready has the vault's slots and the first tick; a record that is not repaired gives it one unit of work. -/
theorem State.comeReady_frame (s : State) : ∃ w, s.comeReady = { s with
    glb := { s.glb with ready := true, mode := .nci, bootStage := 4, stewardUs := s.timeUs }
    sec.slots := s.dormantSlots
    tk := { s.tk with tick := 0, startUs := s.timeUs, table := defaultTable s.pwr.boardW, allowLeft := s.pwr.boardW * 500 }
    pwr := { s.pwr with allow := s.pwr.boardW * 500, whorlA := s.pwr.boardW * 500, settled := 0 }
    work := w } := by
  unfold State.comeReady
  dsimp only
  split <;> exact ⟨_, rfl⟩
end Sys2Proof.Machine

open Sys2Proof Sys2Proof.Machine

/-- Settles O33: the two waits, then the four ways in which the sequence ends. -/
theorem boot : Obligations.Boot := by
  refine ⟨fun s straps ok hm hb => execBoot_of straps ok hm hb, fun s hm hb => execOscWaitDone_of hm hb,
    fun s hm hb => ⟨execBootComplete_locked hm hb, fun h1 h2 => ⟨fun hs => ?_, fun hs hr => ?_, fun hs hr => ?_⟩⟩⟩
  · rw [execBootComplete_unlocked hm hb h1 h2, if_pos (by simp [hs])]
    rfl
  · rw [execBootComplete_unlocked hm hb h1 h2, if_neg (by simp [hs]), if_pos hr]
  · rw [execBootComplete_unlocked hm hb h1 h2, if_neg (by simp [hs]), if_neg (by simp [hr])]
    obtain ⟨w, hw⟩ := s.comeReady_frame
    refine ⟨_, rfl, ?_⟩
    rw [hw]
    exact ⟨rfl, rfl, rfl, rfl, rfl, rfl, rfl⟩
end

/-! PROOFS. Whorl boundaries and the row of a tick. -/
section
namespace Sys2Proof.Machine

/-- The whorl is settled at a boundary that nothing else must come before (R363). -/
theorem execWhorlBoundary_of {s : State} (e : Nat) (h64 : s.tk.tick % 64 = 0) (ht : s.ticking = true) (hp : s.pwr.settled < s.tk.tick / 64)
    (hd : s.tableDue = false) (hc : s.pwr.chosen = none) : exec (.whorlBoundary e) s = .next (s.settleWhorl e) :=
  if_neg (by simp [h64, ht, hd, hc, Nat.not_le.mpr hp])

theorem execWhorlBoundary_off {s : State} (e : Nat) (h : s.tk.tick % 64 ≠ 0) : exec (.whorlBoundary e) s = .next s :=
  if_pos (by simp [h])

/-- The counters of group 7 leave the ledger as it is. -/
theorem State.count_pwr (s : State) (g i k : Nat) : (s.count g i k).pwr = s.pwr := by
  obtain ⟨d, h⟩ := s.count_frame g i k
  rw [h]

theorem State.settleWhorl_settled (s : State) (e : Nat) : (s.settleWhorl e).pwr.settled = s.tk.tick / 64 := by
  unfold State.settleWhorl
  dsimp only
  rw [State.count_pwr, State.count_pwr]
  split
  · rw [State.count_pwr]
  · rfl

theorem execSlotStart_none {s : State} {k : Fin 16} (h : s.row[k.val]? = none) : exec (.slotStart k) s = .next s := by
  show execSlotStart k s = _
  rw [execSlotStart, h]

theorem execSlotEnd_none {s : State} {k : Fin 16} (h : s.row[k.val]? = none) : exec (.slotEnd k) s = .next s := by
  show execSlotEnd k s = _
  rw [execSlotEnd, h]
end Sys2Proof.Machine

open Sys2Proof Sys2Proof.Machine

/-- Settles O35: the boundary's guard, the settled whorl, and the row's definition. -/
theorem whorlsAndRows : Obligations.WhorlsAndRows :=
  ⟨fun _ e h => execWhorlBoundary_off e h, fun s e h64 ht hp hd hc => ⟨_, execWhorlBoundary_of e h64 ht hp hd hc, s.settleWhorl_settled e⟩,
    fun _ => rfl, fun _ _ h => ⟨execSlotStart_none h, execSlotEnd_none h⟩⟩
end

/-! PROOFS. The activation of a schedule table. -/
section
namespace Sys2Proof.Machine

/-! ### At START_TICK (R35) -/

theorem execSchedActivate_of {s : State} {g : StagedTable} (hg : s.tk.staged = some g) (ht : s.ticking = true)
    (hs : s.tk.tick = g.table.startTick) (hv : s.glb.inGroup = true → g.verdict = some true) :
    exec .schedActivate s = .next (s.activateTable g.table) := by
  show execSchedActivate s = _
  rw [execSchedActivate, hg]
  exact if_neg (by simpa [ht, hs] using hv)

theorem execSchedActivate_waits {s : State} {g : StagedTable} (hg : s.tk.staged = some g)
    (h : s.tk.tick ≠ g.table.startTick ∨ s.glb.inGroup = true ∧ g.verdict ≠ some true) : exec .schedActivate s = .next s := by
  show execSchedActivate s = _
  rw [execSchedActivate, hg]
  refine if_pos ?_
  obtain h | ⟨hi, hv⟩ := h
  · simp [h]
  · simp [hi, hv]

theorem State.activateTable_frame (s : State) (t : SchedTable) :
    ∃ d, s.activateTable t = { s with dbg := d, tk.table := t, tk.staged := none } := by
  obtain ⟨d, h⟩ := State.traceRec_frame { s with tk.table := t, tk.staged := none } 0x0003 21 (toLE 4 t.tableId ++ toLE 2 t.tickUs)
  exact ⟨d, h⟩

/-! ### The decider's deadline (R35) -/

theorem execVerdictDeadline_of {s : State} {b : Nat} (hb : s.tk.verdictBy = some b) (ht : s.ticking = true) (hg : s.glb.inGroup = true)
    (hr : s.glb.rank = 0) (hs : s.tk.verdictSent = false) (hd : b ≤ s.tk.tick)
    (hm : ∃ r, r < s.grp.n ∧ Tb.has s.tk.digests r = false) (hn : ∃ e ∈ s.tk.digests, e.2 ≠ (0, 0)) :
    exec .verdictDeadline s = .next (s.sendVerdict false) := by
  show execVerdictDeadline s = _
  rw [execVerdictDeadline, hb]
  have hw : ((List.range s.grp.n).all fun r => Tb.has s.tk.digests r) = false := by
    obtain ⟨r, hr, hh⟩ := hm
    exact List.all_eq_false.mpr ⟨r, List.mem_range.mpr hr, by simp [hh]⟩
  have hz : (s.tk.digests.all fun e => e.2 = (0, 0)) = false := by
    obtain ⟨e, he, hne⟩ := hn
    exact List.all_eq_false.mpr ⟨e, he, mt of_decide_eq_true hne⟩
  refine if_neg ?_
  rw [ht, hg, hr, hs, hw, hz]
  simp [Nat.not_lt.mpr hd]

theorem execVerdictDeadline_none {s : State} (h : s.tk.verdictBy = none ∨ s.glb.rank ≠ 0 ∨ s.tk.verdictSent = true ∨
    (∀ r, r < s.grp.n → Tb.has s.tk.digests r = true) ∨ ∀ e ∈ s.tk.digests, e.2 = (0, 0)) : exec .verdictDeadline s = .next s := by
  show execVerdictDeadline s = _
  unfold execVerdictDeadline
  split
  · rfl
  next b hb =>
    refine if_pos ?_
    obtain h | h | h | h | h := h
    · simp [h] at hb
    · simp [h]
    · simp [h]
    · have hw : ((List.range s.grp.n).all fun r => Tb.has s.tk.digests r) = true :=
        List.all_eq_true.mpr fun r hr => h r (List.mem_range.mp hr)
      simp [hw]
    · have hz : (s.tk.digests.all fun e => e.2 = (0, 0)) = true := List.all_eq_true.mpr fun e he => decide_eq_true (h e he)
      simp only [hz, Bool.or_true]

/-! ### A member that hears no verdict (R35) -/

theorem execVerdictWaitExpiry_of {s : State} {g : StagedTable} (hg : s.tk.staged = some g) (hf : s.follows = true)
    (hv : g.verdict = none) (hs : g.table.startTick ≤ s.tk.tick + 52) :
    exec .verdictWaitExpiry s = .next { s with tk.mute := true } := by
  show execVerdictWaitExpiry s = _
  rw [execVerdictWaitExpiry, hg]
  exact if_neg (by simp [hf, hv, Nat.not_lt.mpr hs])

theorem execVerdictWaitExpiry_none {s : State}
    (h : ∀ g, s.tk.staged = some g → g.verdict.isSome = true ∨ s.tk.tick + 52 < g.table.startTick) :
    exec .verdictWaitExpiry s = .next s := by
  show execVerdictWaitExpiry s = _
  unfold execVerdictWaitExpiry
  split
  · rfl
  next g hg => exact if_pos (by obtain h | h := h g hg <;> simp [h])
end Sys2Proof.Machine

open Sys2Proof Sys2Proof.Machine

/-- Settles O37: the activation, the decider's DROP and the silent member, each where it is due and where it is not. -/
theorem scheduleActivation : Obligations.ScheduleActivation := by
  refine ⟨fun s g hg ht hs hv => ?_, fun s g hg h => execSchedActivate_waits hg h, fun s b hb ht hi hr hs hd hm hn => ?_,
    fun s h => execVerdictDeadline_none h, fun s g hg hf hv hs => execVerdictWaitExpiry_of hg hf hv hs,
    fun s h => execVerdictWaitExpiry_none h⟩
  · obtain ⟨d, hd⟩ := s.activateTable_frame g.table
    exact ⟨_, execSchedActivate_of hg ht hs hv, by rw [hd]⟩
  · obtain ⟨k, hk, rfl⟩ := s.sendVerdict_drop
    refine ⟨_, (execVerdictDeadline_of hb ht hi hr hs hd hm hn).trans (congrArg _ hk), rfl, rfl, rfl, rfl, rfl, ?_⟩
    rw [State.verdictSends]
end

/-! PROOFS. The inputs of the tick. -/
section
namespace Sys2Proof.Machine

/-! ### A device that does not measure its pin delay takes no sample (R291) -/

theorem State.pinSample_off {s : State} (h : s.measures = false) (e m : Option Nat) : s.pinSample e m = s := if_pos (by simp [h])

/-- An edge within half a tick of the start kept makes a sample. -/
theorem State.pinSample_edge {s : State} {a b : Nat} (h : s.measures = true) (hb : s.tk.pinMark = some b)
    (hd : 2 * (a - b + (b - a)) < s.tickUs) : s.pinSample (some a) none =
      { s with tk.pinEdge := none, tk.pinMark := none, tk.pinSamples := s.tk.pinSamples ++ [(a : Int) - b] } := by
  unfold State.pinSample
  rw [if_neg (by simp [h]), hb]
  exact if_pos hd

/-! ### Edges (R26, R28) -/

/-- An edge noted: its time, and whether it was good. -/
def State.edgeNoted (s : State) (us now start : Nat) : State := { s with
  timeUs := now
  tk := { s.tk with
    edgeUs := now, edgeSeen := true, missedBeats := 0
    missedEdges := if decide (us ≤ s.tickUs + 1) then 0 else if s.tk.windowOpen && s.onPins || (s.tk.awaited && s.onPins) then s.tk.missedEdges + 1
      else s.tk.missedEdges
    goodEdges := if decide (us ≤ s.tickUs + 1) then s.tk.goodEdges + 1 else 0
    edgeDue := if s.tk.windowOpen && s.onPins then some start else s.tk.edgeDue } }

/-- An edge taken, once its sample is made: a device that follows the root notes it, and the pins start the awaited tick. -/
def State.takeEdge (s : State) (us now : Nat) : Res :=
  let start := now + (s.tk.pinDelayNs + 500) / 1000
  if !s.follows then .next (if s.measures then { s with timeUs := now, tk.edgeUs := now } else s) else
  .next (if s.tk.awaited && s.onPins then (s.edgeNoted us now start).beginTick start else s.edgeNoted us now start)

theorem execTickInEdge_eq (us : Nat) (s : State) : exec (.tickInEdge us) s =
    (s.pinSample (some (Nat.max s.timeUs (s.tk.edgeUs + us))) none).takeEdge us (Nat.max s.timeUs (s.tk.edgeUs + us)) := rfl

theorem State.edgeNoted_tk (s : State) (us now start : Nat) :
    (if s.tk.awaited && s.onPins then (s.edgeNoted us now start).beginTick start else s.edgeNoted us now start) = { s with
      timeUs := now
      tk := { s.tk with
        edgeUs := now, edgeSeen := true, missedBeats := 0
        missedEdges := if us ≤ s.tickUs + 1 then 0 else if s.onPins && (s.tk.windowOpen || s.tk.awaited) then s.tk.missedEdges + 1
          else s.tk.missedEdges
        goodEdges := if us ≤ s.tickUs + 1 then s.tk.goodEdges + 1 else 0
        edgeDue := if s.tk.windowOpen && s.onPins then some start else s.tk.edgeDue
        awaited := s.tk.awaited && !s.onPins
        startUs := if s.tk.awaited && s.onPins then Nat.max s.tk.startUs start else s.tk.startUs } } := by
  have hb : (s.tk.windowOpen && s.onPins || (s.tk.awaited && s.onPins)) = (s.onPins && (s.tk.windowOpen || s.tk.awaited)) := by
    rw [← Bool.and_or_distrib_right, Bool.and_comm]
  unfold State.edgeNoted
  simp only [hb, decide_eq_true_eq]
  cases ha : s.tk.awaited <;> cases ho : s.onPins <;> simp [State.beginTick]

theorem execTickInEdge_follows {s : State} {us now : Nat} (hf : s.follows = true) (hm : s.measures = false)
    (hn : now = Nat.max s.timeUs (s.tk.edgeUs + us)) : exec (.tickInEdge us) s =
      .next (if s.tk.awaited && s.onPins then (s.edgeNoted us now (now + (s.tk.pinDelayNs + 500) / 1000)).beginTick
        (now + (s.tk.pinDelayNs + 500) / 1000) else s.edgeNoted us now (now + (s.tk.pinDelayNs + 500) / 1000)) := by
  rw [execTickInEdge_eq, State.pinSample_off hm, ← hn]
  exact if_neg (by simp [hf])

theorem execTickInEdge_measures {s : State} {us a b : Nat} (hf : s.follows = false) (hm : s.measures = true)
    (ha : a = Nat.max s.timeUs (s.tk.edgeUs + us)) (hb : s.tk.pinMark = some b) (hd : 2 * (a - b + (b - a)) < s.tickUs) :
    exec (.tickInEdge us) s = .next { s with
      timeUs := a, tk.edgeUs := a, tk.pinEdge := none, tk.pinMark := none, tk.pinSamples := s.tk.pinSamples ++ [(a : Int) - b] } := by
  rw [execTickInEdge_eq, ← ha, State.pinSample_edge hm hb hd]
  exact (if_pos (congrArg Bool.not hf)).trans (congrArg Host.Outcome.next (if_pos hm))

theorem execTickInEdge_ignored {s : State} (us : Nat) (hf : s.follows = false) (hm : s.measures = false) :
    exec (.tickInEdge us) s = .next s := by
  rw [execTickInEdge_eq, State.pinSample_off hm]
  exact (if_pos (congrArg Bool.not hf)).trans (congrArg Host.Outcome.next (if_neg (by simp [hm])))

/-! ### Markers (R27 to R29) -/

/-- A marker of the due tick taken: the source, and the awaited tick where the marker starts it. -/
def State.markerTaken (s : State) (on starts : Bool) (at_ : Nat) : State :=
  let s := { s with tk.missedBeats := 0, tk.onMarker := on, tk.toMarker := false
                    tk.missedEdges := if starts && !on then s.tk.missedEdges + 1 else s.tk.missedEdges }
  if starts then s.beginTick at_ else s

theorem State.markerTaken_tk (s : State) (on starts : Bool) (at_ : Nat) (h : starts = true → s.tk.awaited = true) :
    (s.markerTaken on starts at_).tk = { s.tk with
      missedBeats := 0, onMarker := on, toMarker := false, awaited := s.tk.awaited && !starts
      missedEdges := if starts && !on then s.tk.missedEdges + 1 else s.tk.missedEdges
      startUs := if starts then Nat.max s.tk.startUs at_ else s.tk.startUs } := by
  unfold State.markerTaken
  cases starts with
  | false => simp
  | true => simp [State.beginTick]

theorem State.markerTaken_frame (s : State) (on starts : Bool) (at_ : Nat) :
    s.markerTaken on starts at_ = { s with tk := (s.markerTaken on starts at_).tk } := by
  cases starts <;> rfl

/-- A marker taken, once its sample is made: a device that follows the root takes the due one and passes it on. -/
def State.takeMarker (s : State) (p : Fin 20) (n : BitVec 48) (r : Fin 64) : Res :=
  let on := s.tk.src ≠ 1 && (s.tk.onMarker || s.tk.toMarker || s.tk.src = 2)
  let t := s.markerTaken on (s.tk.awaited && (on || s.tk.src = 0)) (s.timeUs - s.ports[p].latencyNs / 1000)
  if !s.follows then .next s
  else if n.toNat ≠ s.tk.tick then .next s.faultTick
  else .next ((t.markerPorts p).foldl (fun s p => s.sendMsg (.port p.val) 0 (.marker n.toNat r.val)) t)

theorem execTickMarker_eq (p : Fin 20) (n : BitVec 48) (r : Fin 64) (s : State) : exec (.tickMarker p n r) s =
    (s.pinSample none (some (s.timeUs - s.ports[p].latencyNs / 1000))).takeMarker p n r := rfl

/-- A marker of the due tick is taken, and beyond that only messages go out. -/
theorem execTickMarker_due {s : State} {p : Fin 20} {n : BitVec 48} {r : Fin 64} {on starts : Bool} (hf : s.follows = true)
    (hm : s.measures = false) (hn : n.toNat = s.tk.tick)
    (ho : on = (decide (s.tk.src ≠ 1) && (s.tk.onMarker || s.tk.toMarker || decide (s.tk.src = 2))))
    (hs : starts = (s.tk.awaited && (on || decide (s.tk.src = 0)))) : ∃ t, exec (.tickMarker p n r) s = .next t ∧
      Sent (s.markerTaken on starts (s.timeUs - (s.ports[p]).latencyNs / 1000)) t := by
  subst hs ho
  rw [execTickMarker_eq, State.pinSample_off hm, State.takeMarker, if_neg (by simp [hf]), if_neg (not_not.mpr hn)]
  exact ⟨_, rfl, foldl_holds (Sent _) _ (fun t a h => h.trans (t.sendMsg_frame _ _ _)) _ _ (Sent.refl _)⟩

theorem execTickFault_of {s : State} {m : Option (BitVec 48)} (hf : s.follows = true)
    (h : match m with | some n => n.toNat ≠ s.tk.tick | none => s.tk.awaited = true ∧ (1 ≤ s.tk.missedBeats ∨ s.tk.src = 1)) :
    exec (.tickFault m) s = .next s.faultTick := by
  show execTickFault m s = _
  unfold execTickFault
  cases m with
  | none => exact if_pos (by simpa [hf] using h)
  | some n => exact if_pos (by simpa [hf] using h)

theorem execTickMarker_wrong {s : State} {p : Fin 20} {n : BitVec 48} {r : Fin 64} (hf : s.follows = true)
    (hm : s.measures = false) (hn : n.toNat ≠ s.tk.tick) : exec (.tickMarker p n r) s = exec (.tickFault (some n)) s := by
  rw [execTickFault_of hf (m := some n) hn, execTickMarker_eq, State.pinSample_off hm, State.takeMarker, if_neg (by simp [hf]), if_pos hn]

theorem execTickMarker_ignored {s : State} (p : Fin 20) (n : BitVec 48) (r : Fin 64) (hf : s.follows = false) (hm : s.measures = false) :
    exec (.tickMarker p n r) s = .next s := by
  rw [execTickMarker_eq, State.pinSample_off hm]
  exact if_pos (congrArg Bool.not hf)

/-! ### Losses and faults (R28, R29) -/

/-- Units given up are counted, and the tick's state holds beyond that. -/
theorem foldl_abandonOne_tickFault {α : Type} (l : List α) (t : TickSt) : (l.foldl (fun t _ => t.abandonOne) t).tickFault = t.tickFault := by
  induction l generalizing t with
  | nil => rfl
  | cons _ l ih => exact ih _

/-- The tick's faults are recorded before the device leaves its group, which keeps them. -/
theorem State.leaveGroup_tickFault (s : State) : s.leaveGroup.tk.tickFault = s.tk.tickFault := by
  unfold State.leaveGroup State.standAlone
  obtain ⟨x, w, e⟩ := State.reshardStores_frame s.dropWork (BitVec.ofNat 64 (2 ^ s.dropWork.glb.rank)) s.dropWork.grp.n
  rw [e]
  exact foldl_abandonOne_tickFault s.work.running s.tk

theorem execPinLoss_of {s : State} (hf : s.follows = true) (hs : s.tk.src = 0) (ho : s.tk.onMarker = false) (ht : s.tk.toMarker = false)
    (he : 2 ≤ s.edgeless) :
    exec .pinLoss s = .next { s with tk.pinLoss := true, tk.rose := s.tk.rose || !s.tk.pinLoss, tk.toMarker := true } :=
  if_neg (by simp [hf, hs, ho, ht, Nat.not_lt.mpr he])

theorem execPinRestore_of {s : State} (hf : s.follows = true) (hs : s.tk.src = 0) (ho : s.tk.onMarker = true) (hg : 64 ≤ s.tk.goodEdges)
    (ht : s.tk.tick % 64 = 0) : exec .pinRestore s = .next { s with tk.onMarker := false } :=
  if_neg (by simp [hf, hs, ho, ht, Nat.not_lt.mpr hg])
end Sys2Proof.Machine

open Sys2Proof Sys2Proof.Machine

/-- Settles O34: edges, markers, losses and faults of a device that follows the root, and what one that does not makes of them. -/
theorem tickInputs : Obligations.TickInputs := by
  refine ⟨fun s us now start hf hm hn hs => ⟨_, execTickInEdge_follows hf hm hn, ?_⟩,
    fun s p n r on starts hf hm hn ho hs => ?_, fun s p n r hf hm hn => execTickMarker_wrong hf hm hn,
    fun s hf hs ho ht he => execPinLoss_of hf hs ho ht he, fun s hf hs ho hg ht => execPinRestore_of hf hs ho hg ht,
    fun s m hf h => ⟨_, execTickFault_of hf h, ?_⟩, fun s us a b hf hm ha hb hd => execTickInEdge_measures hf hm ha hb hd,
    fun s us p n r m hf hm => ⟨execTickInEdge_ignored us hf hm, execTickMarker_ignored p n r hf hm, ?_, ?_, ?_⟩⟩
  · rw [State.edgeNoted_tk, ← hs]
    exact ⟨rfl, rfl⟩
  · obtain ⟨t, ht, hs'⟩ := execTickMarker_due (p := p) (r := r) hf hm hn ho hs
    have hk : t.tk = _ := (congrArg State.tk hs'.eq_sentAs).trans (s.markerTaken_tk on starts _ fun h => by
      rw [hs, Bool.and_eq_true] at h
      exact h.1)
    refine ⟨t, ht, hk, ?_⟩
    rw [hs'.eq_sentAs, State.markerTaken_frame]
    rfl
  · obtain ⟨hg, hr, hn, hu, hq, hrun, hd, hss, hh, hst, he⟩ := State.leaveGroup_spec { s with tk.tickFault := true, tk.rose := s.tk.rose || !s.tk.tickFault }
    exact ⟨State.leaveGroup_tickFault _, hu, hg, hq, hrun, hd, he⟩
  · exact if_pos (by simp [hf])
  · exact if_pos (by simp [hf])
  · exact if_neg (by simp [hf])
end

/-! PROOFS. Committed messages and what they do at their delivery. -/
section
namespace Sys2Proof.Machine

/-! ### Taking a committed message (R47, R168, R287) -/

theorem State.receiveFrom_member {s : State} {rank : Fin 64} (h : s.fromMember rank = true) (i : Instr) :
    s.receiveFrom rank i = .next { s with inbox := s.inbox ++ [(rank.val, s.tk.tick - 1, i)] } := if_pos h

theorem State.receiveFrom_other {s : State} {rank : Fin 64} (h : s.fromMember rank = false) (i : Instr) :
    s.receiveFrom rank i = .next s := if_neg (by simp [h])

theorem State.receiveFromRoot_member {s : State} (ht : s.inTicks = true) (hr : s.glb.rank ≠ 0) (i : Instr) :
    s.receiveFromRoot i = .next { s with inbox := s.inbox ++ [(0, s.tk.tick - 1, i)] } := if_pos (by simp [ht, hr])

theorem execForward_waits {s : State} {rank : Fin 64} {c : Cmd} {b : Bytes} (h : (memberOp c && s.fromMember rank) = false) :
    exec (.forward rank c b) s = s.receiveFrom rank (.forward rank c b) := if_neg (by simp [h])

theorem execForward_acts {s : State} {rank : Fin 64} {c : Cmd} (b : Bytes) (hm : s.fromMember rank = true) (hc : memberOp c = true) :
    exec (.forward rank c b) s = .next (s.runForwarded rank.val c b) := if_pos (by simp [hm, hc])

theorem nowOf_plain {op : Nat} (h1 : op ≠ 0x0402) (h2 : op ≠ 0x0903) (s : State) (x : Ctx) : nowOf op s x = s := by
  rw [nowOf, if_neg h1, if_neg h2]

/-- A forwarded command whose checks pass here stages its effects, without those of the accepting member alone. -/
theorem State.runForwarded_ok {s : State} {rank : Nat} {c : Cmd} {b : Bytes} {f : OwnCheck} {effs : List Effect}
    (hf : checkOf (Cmd.op c) = some f) (h1 : Cmd.op c ≠ 0x0402) (h2 : Cmd.op c ≠ 0x0903) (he : f s.view (s.forwardCtx rank c b) = .ok effs) :
    s.runForwarded rank c b = s.stage (.fromRank rank :: groupVoteOf rank c ++ effs.filter fun e => !e.localOnly) := by
  simp only [State.runForwarded, hf, he, nowOf_plain h1 h2]

theorem State.runForwarded_error {s : State} {rank : Nat} {c : Cmd} {b : Bytes} {f : OwnCheck} {e : Status × Bytes}
    (hf : checkOf (Cmd.op c) = some f) (he : f s.view (s.forwardCtx rank c b) = .error e) : s.runForwarded rank c b = s := by
  simp only [State.runForwarded, hf, he]

/-! ### Exchanges at a message's delivery (R92) -/

section
variable {s : State} {d : Digest} {k : Nat} {e : Exchange} (h : s.exchangeBy d = some (k, e))
include h

theorem State.gotLoaded_of (r v : Nat) : s.gotLoaded r d v = if e.loadedRanks.any fun l => decide (l.1 = r) then s else
    s.updExchange k fun x => { x with loadedRanks := x.loadedRanks ++ [(r, v)] } := by
  rw [State.gotLoaded, h]

theorem State.gotActivate_of (t v : Nat) :
    s.gotActivate d t v = s.updExchange k fun x => { x with applyTick := some t, version := v } := by
  rw [State.gotActivate, h]

theorem State.gotAbort_of : s.gotAbort d = s.dropExchange k e .eTimeout := by
  rw [State.gotAbort, h]

/-- Rank 0 gives up with E_TIMEOUT what is no checkpoint and no restore, and aborts it everywhere. -/
theorem State.gotFailed_of (hr : s.glb.rank = 0) (hc : e.what ≠ .checkpoint) (hf : ∀ c b, e.what ≠ .forward 0x0602 c b) (st : Status) :
    s.gotFailed d st = (s.dropExchange k e .eTimeout).stage (s.abortSends d) := by
  have hx : s.gotFailed d st = (if (s.dropExchange k e .eTimeout).glb.rank = 0 then
      (s.dropExchange k e .eTimeout).stage ((s.dropExchange k e .eTimeout).abortSends d) else s.dropExchange k e .eTimeout) := by
    unfold State.gotFailed
    rw [h]
    cases hw : e.what with
    | checkpoint => exact absurd hw hc
    | forward op c b =>
      have hop : op ≠ 0x0602 := fun ho => hf c b (ho ▸ hw)
      simp only [hw, if_neg hop]
    | _ => simp only [hw, if_pos hr]
  exact hx.trans (if_pos hr)
end

/-! ### The verdict (R35) -/

theorem State.takeVerdict_go {s : State} {g : StagedTable} (h : s.tk.staged = some g) :
    s.takeVerdict true = { s with tk.verdictSent := true, tk.staged := some { g with verdict := some true } } := by
  unfold State.takeVerdict
  simp only [h, if_true]

theorem State.takeVerdict_drop (s : State) : s.takeVerdict false = { s with
    tk.verdictSent := true, tk.staged := none, tk.schedMismatch := true, tk.rose := s.tk.rose || !s.tk.schedMismatch } := by
  unfold State.takeVerdict
  dsimp only
  split <;> rfl
end Sys2Proof.Machine

open Sys2Proof Sys2Proof.Machine

/-- Settles O51: a member's and the root's messages wait, a forwarded command acts, other senders have no effect; then each delivery. -/
theorem committedMessages : Obligations.CommittedMessages := by
  refine ⟨fun s rank h => ⟨fun d v => State.receiveFrom_member h _, fun d st => State.receiveFrom_member h _,
      fun i => State.receiveFrom_member h _, fun b => State.receiveFrom_member h _, fun stamp q hits => if_pos h,
      fun c b hc => (execForward_waits (by simp [hc])).trans (State.receiveFrom_member h _),
      fun c b f hc hf h1 h2 => ⟨fun effs he => ?_, fun e he => ?_⟩, fun id d hr => if_pos (by simp [h, hr])⟩,
    fun s ht hr => ⟨fun go => State.receiveFromRoot_member ht hr _, fun d t v => State.receiveFromRoot_member ht hr _,
      fun d => State.receiveFromRoot_member ht hr _⟩,
    fun s rank h d v st m b id stamp q hits c => ⟨State.receiveFrom_other h _, State.receiveFrom_other h _, State.receiveFrom_other h _,
      State.receiveFrom_other h _, if_neg (by simp [h]), if_neg (by simp [h]),
      (execForward_waits (by simp [h])).trans (State.receiveFrom_other h _)⟩,
    fun s rank b => rfl,
    fun s d k e h => ⟨fun r v => State.gotLoaded_of h r.val v, fun t v => State.gotActivate_of h t.toNat v, State.gotAbort_of h,
      fun r st hr hc hf => ?_⟩,
    fun s => ⟨fun g hg => State.takeVerdict_go hg, s.takeVerdict_drop, fun r stamp q hits => rfl⟩⟩
  · rw [execForward_acts b h hc, State.runForwarded_ok hf h1 h2 he]
  · rw [execForward_acts b h hc, State.runForwarded_error hf he]
  · refine (State.gotFailed_of h hr hc hf _).trans ?_
    rw [State.abortSends, hr]
    rfl
end

/-! PROOFS. Commit or deferral of an item, and what its effects do. -/
section
namespace Sys2Proof.Machine

/-! ### Commit or deferral (R39, R51) -/

theorem Committing.run_fits {a : Committing} {i : Item} (ht : a.s.ticking = true) (h : a.fits i = true) :
    a.run i = { a with s := ((a.s.noteCommit i).applyItem a.seq i).1.nextPiece i, seq := ((a.s.noteCommit i).applyItem a.seq i).2 } := by
  rw [Committing.run, if_neg (by simp [ht]), if_pos h]

theorem Committing.run_defers {a : Committing} {i : Item} (ht : a.s.ticking = true) (h : a.fits i = false) :
    a.run i = { a with s := a.s.deferItem i, full := true, later := a.later ++ [i] } := by
  rw [Committing.run, if_neg (by simp [ht]), if_neg (by simp [h])]

/-- A deferral is counted, and a unit's is traced. -/
theorem State.deferItem_frame (s : State) (i : Item) : ∃ d, s.deferItem i = { s with tk := s.tk.deferOne, dbg := d } := by
  unfold State.deferItem
  split
  next u _ => exact State.traceRec_frame { s with tk := s.tk.deferOne } 0x0013 17 (unitData u i.slot)
  · exact ⟨s.dbg, rfl⟩

/-- Nothing fits once the cap has been met. -/
theorem Committing.fits_of_full {a : Committing} (h : a.full = true) (i : Item) : a.fits i = false := by
  rw [Committing.fits, h]
  rfl

theorem Committing.fits_of_cap {a : Committing} {i : Item} (h : 65536 < a.seq + a.s.eventCount i) : a.fits i = false := by
  rw [Committing.fits, decide_eq_false (Nat.not_le.mpr h), Bool.and_false]

/-! ### Stores and spools (R173, R174, R224) -/

theorem State.updStore_get {s : State} {k : Nat} {x : Store} (h : Tb.get s.st.stores k = some x) (f : Store → Store) :
    Tb.get (s.updStore k f).st.stores k = some (f x) := by
  rw [State.updStore, Tb.get_upd, if_pos rfl, h]
  rfl

/-- Changes appended to a store's side list: each takes the next sequence value, and those before them stay. -/
theorem State.appendSide_get {s : State} {k : Nat} {x : Store} (es : List (Nat × Bool × Bytes)) (h : Tb.get s.st.stores k = some x) :
    ∃ y, Tb.get (s.appendSide k es).st.stores k = some y ∧ y.seq = x.seq + es.length ∧ y.side.length = x.side.length + es.length ∧
      ∀ e ∈ x.side, e ∈ y.side := by
  refine ⟨_, State.updStore_get h _, rfl, ?_, fun e he => List.mem_append_left _ he⟩
  simp

theorem State.appendSpool_get {s : State} {i : Nat} {x : Session} (ty fl st : Nat) (pay : Bytes) (h : Tb.get s.ss.sessions i = some x) :
    Tb.get (s.appendSpool i ty fl st pay).ss.sessions i = some (x.appendSpool ty fl st pay) := by
  rw [State.appendSpool, h]
  dsimp only
  split <;> exact Tb.get_set_same _ _ _

/-- An entry that is no END, STALL_FREE or DISCARD is appended, and that is all. -/
theorem State.applySpool_plain {ty : Nat} (h7 : ty ≠ 0x07) (h9 : ty ≠ 0x09) (hA : ty ≠ 0x0A) (s : State) (i fl st : Nat) (pay : Bytes) :
    s.applySpool i ty fl pay st = s.appendSpool i ty fl st pay := by
  rw [State.applySpool, if_neg (by simp [h7]), if_neg hA, if_neg h9]

theorem State.finishCmd_of {s : State} {id : Nat} {c : PendCmd} (h : Tb.get s.cmds id = some c) (st : Nat) (x : Status) (res : Bytes) :
    s.finishCmd id st x res = ({ s with cmds := Tb.del s.cmds id } : State).postOwed c.mbox c.gen st ⟨c.tag, c.opcode, x, 0, res⟩ := by
  rw [State.finishCmd, h]
end Sys2Proof.Machine

open Sys2Proof Sys2Proof.Machine

/-- Settles O59: an item fits or is deferred, the tables that the plain effects write, a spool entry and a completion. -/
theorem commitEffects : Obligations.CommitEffects := by
  refine ⟨fun a i ht => ⟨fun h => Committing.run_fits ht h, fun h => ?_,
      fun h => h.elim (fun hf => Committing.fits_of_full hf i) Committing.fits_of_cap⟩,
    fun s st => ⟨fun i x => rfl, fun i g => ⟨rfl, rfl⟩, fun i v => ⟨rfl, rfl⟩, fun m g => rfl, fun t d => rfl, fun m => rfl, fun k x => rfl,
      fun k es x h => State.appendSide_get es h, fun a d => rfl⟩,
    fun s i fl st pay own ty x h h7 h9 hA => ?_, fun s id st x res own c h => State.finishCmd_of h st x res⟩
  · rw [Committing.run_defers ht h]
    obtain ⟨d, hd⟩ := a.s.deferItem_frame i
    rw [hd]
    exact ⟨rfl, rfl, rfl, rfl, rfl, rfl, rfl, Committing.fits_of_full rfl⟩
  · refine ⟨x.appendSpool ty fl st pay, ?_, rfl, rfl, rfl, rfl, rfl, rfl⟩
    show Tb.get (s.applySpool i ty fl pay st).ss.sessions i = _
    rw [State.applySpool_plain h7 h9 hA, State.appendSpool_get ty fl st pay h]
end

/-! PROOFS. The canonical reduction tree (R65): where it splits, and its two cases, whatever the joining operation. -/
section
namespace Sys2Proof.Machine.Era

/-! ### The split -/

theorem splitAt_pos (n : Nat) : 0 < splitAt n := Nat.two_pow_pos _

theorem splitAt_lt {n : Nat} (h : 2 ≤ n) : splitAt n < n :=
  calc splitAt n ≤ n - 1 := Nat.log2_self_le (by omega)
    _ < n := by omega

/-- The next power of two is no longer below the length: the split is the largest that is. -/
theorem le_next_splitAt (n : Nat) : n ≤ 2 ^ (Nat.log2 (n - 1) + 1) := by
  have := Nat.lt_log2_self (n := n - 1)
  omega

/-! ### The tree -/

variable {α : Type} (f : α → α → α) (z : α)

theorem treeWith_leaf {xs : List α} (h : xs.length ≤ 1) (fuel : Nat) : treeWith f z fuel xs = xs.headD z := by
  cases fuel with
  | zero => rfl
  | succ fuel => rw [treeWith, if_pos h]

theorem treeWith_node {xs : List α} (h : 2 ≤ xs.length) (fuel : Nat) :
    treeWith f z (fuel + 1) xs =
      f (treeWith f z fuel (xs.take (splitAt xs.length))) (treeWith f z fuel (xs.drop (splitAt xs.length))) := by
  rw [treeWith, if_neg (by omega)]

/-- One unit of fuel beyond the length changes nothing: both branches of a node are shorter than the node. -/
theorem treeWith_succ {fuel : Nat} {xs : List α} (h : xs.length ≤ fuel) : treeWith f z (fuel + 1) xs = treeWith f z fuel xs := by
  induction fuel generalizing xs with
  | zero => rw [treeWith_leaf f z (by omega), treeWith_leaf f z (by omega)]
  | succ fuel ih =>
    rcases Nat.lt_or_ge xs.length 2 with hleaf | hnode
    · rw [treeWith_leaf f z (by omega), treeWith_leaf f z (by omega)]
    · have hlt := splitAt_lt hnode
      have hpos := splitAt_pos xs.length
      rw [treeWith_node f z hnode, treeWith_node f z hnode fuel, ih (by rw [List.length_take]; omega),
        ih (by rw [List.length_drop]; omega)]

/-- The tree depends on its parts alone, not on the fuel. -/
theorem treeWith_fuel {xs : List α} {fuel : Nat} (h : xs.length ≤ fuel) : treeWith f z fuel xs = treeWith f z xs.length xs := by
  induction fuel, h using Nat.le_induction with
  | base => rfl
  | succ fuel h ih => rw [treeWith_succ f z h, ih]

theorem treeWith_add {bs : List F32} {fuel : Nat} (h : bs.length ≤ fuel) : treeWith add 0#32 fuel bs = tree bs :=
  treeWith_fuel add _ h

theorem tree_singleton (b : F32) : tree [b] = b := rfl

theorem tree_node {bs : List F32} (h : 2 ≤ bs.length) :
    tree bs = add (tree (bs.take (splitAt bs.length))) (tree (bs.drop (splitAt bs.length))) := by
  have hlt := splitAt_lt h
  have hpos := splitAt_pos bs.length
  obtain ⟨n, hn⟩ := Nat.exists_eq_add_of_le' (show 1 ≤ bs.length by omega)
  calc tree bs = treeWith add 0#32 (n + 1) bs := by rw [tree, hn]
    _ = add (treeWith add 0#32 n (bs.take (splitAt bs.length))) (treeWith add 0#32 n (bs.drop (splitAt bs.length))) :=
      treeWith_node add _ h n
    _ = add (tree (bs.take (splitAt bs.length))) (tree (bs.drop (splitAt bs.length))) := by
      rw [treeWith_add (by rw [List.length_take]; omega), treeWith_add (by rw [List.length_drop]; omega)]

end Sys2Proof.Machine.Era

open Sys2Proof Sys2Proof.Machine

/-- Settles O60: a single block sum is its own tree, and a longer list splits at the largest power of two below its length. -/
theorem eraTree : Obligations.EraTree := by
  refine fun bs => ⟨fun h => ?_, fun h => ⟨_, Era.splitAt_lt h, Era.le_next_splitAt _, Era.tree_node h⟩⟩
  obtain ⟨b, rfl⟩ := List.length_eq_one_iff.mp h
  exact ⟨b, rfl, Era.tree_singleton b⟩
end

/-! PROOFS. Units of searches and of the device's upkeep. -/
section
namespace Sys2Proof.Machine

/-! ### Upkeep units (R96, R101, R128, R129, R228, R233, R297, R321, R376) -/

/-- A running unit whose work is to give effects finishes with them. -/
theorem finishes_of_runUnit {s : State} {i : Instr} {u k : Nat} {v : UnitRec} {f : UnitKind → Option (Option (List Effect))}
    {n : UnitKind} {effs : List Effect} (hr : s.work.running[u]? = some (k, v)) (he : exec i s = .next (s.runUnit u f))
    (hk : v.kind = n) (hf : f n = some (some effs)) : ∃ t, exec i s = .next t ∧ s.finishes k v effs t :=
  (ends_of_runUnit hr (hk ▸ hf) ⟨s.freeCtr, s.dbg, rfl⟩ he).1 effs rfl

/-- COMPACT's build runs where its store is being compacted. -/
theorem execCompactBuild_runs {s : State} {u j ver : Nat} {st : Store} {cmd : Option Nat} {rest : List Nat}
    (hst : Tb.get s.st.stores j = some st) (hc : st.compact = some (ver, cmd, rest)) :
    ∃ f, exec (.compactBuild u) s = .next (s.runUnit u f) ∧ f (.compact j) = some (some (.compactDone j ::
      (cmd.map fun c => (.complete c .ok (toLE 8 ver) : Effect)).toList)) := by
  refine ⟨_, rfl, ?_⟩
  dsimp only
  rw [hst, Option.bind_some, hc]
  rfl

/-- A session's move runs where it can be made now. -/
theorem execSessionMove_runs {s : State} {u i : Nat} {m : SessMove} {x : Session}
    (hm : Tb.get s.grp.moves i = some m) (hx : Tb.get s.ss.sessions i = some x) (hr : s.moveReady i m = true) :
    ∃ f, exec (.sessionMove u) s = .next (s.runUnit u f) ∧
      f (.sessionMove i) = some (some (.sessionMove i :: (s.moveEntries i m x ++ s.moveSends i m x))) := by
  refine ⟨_, rfl, ?_⟩
  dsimp only
  rw [hm, hx]
  exact if_pos hr

/-- A search pass stages its tops, and then finishes. -/
theorem execSearchPass_of {s : State} {u k g p : Nat} {v : UnitRec} (hr : s.work.running[u]? = some (k, v))
    (hk : v.kind = .searchPass g p) : exec (.searchPass u) s =
      .next ((s.stagePass g p (s.passTops g p).1 (s.passTops g p).2).finish k v [.passDone g p (s.passTops g p).1]) := by
  show execSearchPass u s = _
  rw [execSearchPass, State.runningAt, hr]
  dsimp only
  rw [hk]
end Sys2Proof.Machine

open Sys2Proof Sys2Proof.Machine

/-- Settles O44: each unit's work gives the effects named, with which the unit finishes; a search pass stages its tops first. -/
theorem upkeepUnits : Obligations.UpkeepUnits := by
  intro s u k v h
  refine ⟨fun j st ver cmd rest hk hst hc => ?build, fun n hk => ?_, fun p hk => ?_, fun n j hk => ?_, fun j hk => ?_, fun i n hk => ?_,
    fun hk => ?_, fun i m x hk hm hx hr => ?move, fun g p hk => ⟨_, execSearchPass_of h hk, State.finish_spec _ k v _⟩⟩
  case build =>
    obtain ⟨f, he, hf⟩ := execCompactBuild_runs (u := u) hst hc
    exact finishes_of_runUnit h he hk hf
  case move =>
    obtain ⟨f, he, hf⟩ := execSessionMove_runs (u := u) hm hx hr
    exact finishes_of_runUnit h he hk hf
  all_goals exact finishes_of_runUnit h rfl hk rfl
end

/-! PROOFS. Ends and deadlines of background work. -/
section
namespace Sys2Proof.Machine

/-! ### Deadlines that the coming commit point reaches (R96, R129, R231, R358) -/

theorem State.pointReached_of {s : State} {d : Nat} (ht : s.ticking = true) (hd : d ≤ s.tk.startUs + s.tickUs) :
    s.pointReached d = true := by
  rw [State.pointReached, ht, decide_eq_true hd]
  rfl

theorem State.pointReached_not (s : State) (d : Nat) :
    (!s.ticking || decide (s.tk.startUs + s.tickUs < d)) = !s.pointReached d := by
  rw [State.pointReached, Bool.not_and, ← decide_not]
  simp only [Nat.not_le]

theorem or_ne_true {a b : Bool} (ha : a = false) (hb : b = false) : ¬ (a || b) = true :=
  Bool.eq_false_iff.mp (Bool.or_eq_false_iff.mpr ⟨ha, hb⟩)

/-- The end of a query is staged in this tick. -/
def State.endsQuery (s : State) (q : Nat) : Bool :=
  s.work.steward.any fun i => i.effs.any fun e => match e with | .queryEnd k => k = q | _ => false

theorem execStoreQueryDeadline_of {s : State} {q : Nat} {x : Query} (hx : Tb.get s.st.queries q = some x)
    (hd : s.pointReached x.deadlineUs = true) (he : s.endsQuery q = false) : exec (.storeQueryDeadline q) s =
      .next (s.stage (.queryEnd q :: (x.cmd.map fun c => (.complete c .eTimeout [] : Effect)).toList)) := by
  show execStoreQueryDeadline q s = _
  unfold execStoreQueryDeadline
  rw [hx]
  exact if_neg (or_ne_true (by rw [State.pointReached_not, hd]; rfl) he)

theorem execPurgeTimeout_of {s : State} {p c : Nat} {x : Purge} (hx : Tb.get s.kv.purges p = some x) (hc : x.cmd = some c)
    (hd : s.pointReached x.deadlineUs = true) : exec (.purgeTimeout p) s = .next (({ s with
      kv.purges := Tb.upd s.kv.purges p fun x => { x with cmd := none } } : State).stage [.complete c .eTimeout []]) := by
  show execPurgeTimeout p s = _
  unfold execPurgeTimeout
  rw [hx]
  dsimp only
  rw [hc]
  exact if_neg (by rw [State.pointReached_not, hd]; exact Bool.false_ne_true)

theorem execHangDumpTimeout_of {s : State} {c d a : Nat} (hx : s.dbg.dumpCmd = some (c, d, a)) (hd : s.pointReached d = true) :
    exec .hangDumpTimeout s = .next (({ s with dbg.dumpCmd := none } : State).stage [.complete c .eTimeout []]) := by
  show execHangDumpTimeout s = _
  unfold execHangDumpTimeout
  rw [hx]
  exact if_pos hd

theorem execEvictDrainDeadline_of {s : State} {j : Fin 8} {m : Model} (hm : Tb.get s.img.models j.val = some m)
    (hs : m.state = .retiring) (hd : s.pointReached m.drainUs = true) : exec (.evictDrainDeadline j) s = .next { s with
      img.models := Tb.set s.img.models j.val { m with drainDue := true } } := by
  show execEvictDrainDeadline j s = _
  unfold execEvictDrainDeadline
  rw [hm]
  exact if_pos (by rw [hs, hd]; rfl)

/-! ### Held output (R199) -/

/-- The delivery or the discarding of a session's held output is staged in this tick. -/
def State.takesHeld (s : State) (i : Nat) : Bool :=
  s.work.steward.any fun k => k.effs.any fun e => match e with | .claimStart j .. => j = i | .heldDrop j => j = i | _ => false

theorem execHoldTimeout_of {s : State} {i : Nat} {x : Session} {h : HeldOutput} (hx : Tb.get s.ss.sessions i = some x)
    (hh : x.held = some h) (hc : Tb.has s.ss.claims i = false) (hd : s.pointReached h.untilUs = true) (ht : s.takesHeld i = false) :
    exec (.holdTimeout i) s = .next (s.stage
      [.heldDrop i, .spool i 0x14 0 (toLE 4 h.epoch ++ toLE 4 h.records.length)] (some i)) := by
  show execHoldTimeout i s = _
  unfold execHoldTimeout
  rw [hx, Option.bind_some, hh]
  exact if_neg (or_ne_true (Bool.or_eq_false_iff.mpr ⟨hc, ht⟩) (by rw [hd]; rfl))

/-! ### Epochs (R195, R196) -/

/-- The requests at the drain deadline: one that still runs under an old epoch is drained, as under a CANCEL of this tick. -/
def State.drainedReqs (s : State) : Tbl Req := s.ss.reqs.map fun e =>
  if e.2.epoch ≠ s.ten.map.epoch ∧ e.2.phase ≠ .stalled
  then (e.1, { e.2 with cancel := some (e.2.cancel.getD (s.tk.tick, false)), drained := true }) else e

/-- Staging one item after another writes the staged list alone. -/
theorem State.foldl_stage_frame {α : Type} {effs : State → α → List Effect} {o : State → α → Option Nat} {l : List α} {s t : State}
    (h : ∃ w, t = { s with work.steward := w }) :
    ∃ w, l.foldl (fun s a => s.stage (effs s a) (o s a)) t = { s with work.steward := w } :=
  foldl_holds (fun t => ∃ w, t = { s with work.steward := w }) _ (by rintro t a ⟨w, rfl⟩; exact ⟨_, rfl⟩) l t h

theorem State.drainEpoch_frame (s : State) :
    ∃ w, s.drainEpoch = { s with ss.reqs := s.drainedReqs, ten.old := none, work.steward := w } := by
  have hreqs : (s.ss.reqs.map fun e => if (decide (e.2.epoch ≠ s.ten.map.epoch) && e.2.phase != .stalled) = true
      then (e.1, { e.2 with cancel := some (e.2.cancel.getD (s.tk.tick, false)), drained := true }) else e) = s.drainedReqs := by
    simp only [State.drainedReqs, Bool.and_eq_true, decide_eq_true_eq, bne_iff_ne]
  unfold State.drainEpoch
  dsimp only
  rw [hreqs]
  exact State.foldl_stage_frame (s := { s with ss.reqs := s.drainedReqs, ten.old := none })
    (State.foldl_stage_frame (State.foldl_stage_frame ⟨s.work.steward, rfl⟩))

theorem execEpochDrainDeadline_of {s : State} {m : RouteMap} {d n : Nat} (ho : s.ten.old = some (m, d, n))
    (hd : s.pointReached d = true) : exec .epochDrainDeadline s = .next s.drainEpoch := by
  show execEpochDrainDeadline s = _
  unfold execEpochDrainDeadline
  rw [ho]
  exact if_pos hd

theorem execRouteMapActivate_of {s : State} {m : RouteMap} {n : Nat} (hn : s.ten.next = some (m, n)) (ht : s.ticking = true)
    (hd : n ≤ s.tk.tick) : exec .routeMapActivate s = .next (s.activateMap m) := by
  show execRouteMapActivate s = _
  unfold execRouteMapActivate
  rw [hn]
  exact if_neg (or_ne_true (by rw [ht]; rfl) (decide_eq_false (Nat.not_lt.mpr hd)))

/-! ### The reel (R334, R335) -/

/-- The reel's writing, or the failure of the checkpoint, is staged in this tick. -/
def State.endsChkpt (s : State) : Bool :=
  s.work.steward.any fun i => i.effs.any fun e => match e with | .reelWrite => true | .chkptFail _ => true | _ => false

theorem execReelWrite_of {s : State} {k : Checkpoint} {c : Nat} (hk : s.chkpt = some k) (hc : k.cmd = some c) (ht : s.ticking = true)
    (he : s.endsChkpt = false) (hr : ∀ r, r < Nat.max s.grp.n 1 → Tb.has k.reports r = true) :
    exec .reelWrite s = .next (s.stage (if k.reelLen < reelLenOf (Nat.max s.grp.n 1) k.handoffs.length then s.chkptGiveUp .eLength
      else [.reelWrite, .complete c .ok (toLE 4 (reelLenOf (Nat.max s.grp.n 1) k.handoffs.length) ++ zeros 4 ++ toLE 8 k.step)])) := by
  have hall : ((List.range (Nat.max s.grp.n 1)).all fun r => Tb.has k.reports r) = true :=
    List.all_eq_true.mpr fun r h => hr r (List.mem_range.mp h)
  show execReelWrite s = _
  unfold execReelWrite
  rw [hk]
  dsimp only
  rw [hc]
  refine (if_neg (or_ne_true (Bool.or_eq_false_iff.mpr ⟨by rw [ht]; rfl, he⟩) (by rw [hall]; rfl))).trans ?_
  split <;> rfl

/-! ### The vault and release keys (R311, R317) -/

/-- The oldest vault write that has not finished is the first of the list. -/
theorem execVaultWriteDone_first {s : State} {j : VaultJob} {rest : List VaultJob} (hj : s.sec.vaultJobs = j :: rest)
    (hf : j.finished = false) : exec .vaultWriteDone s = .next
      (({ s with sec.vaultJobs := { j with finished := true } :: rest } : State).stage
        (.vaultDone :: (j.cmd.map fun c => (.complete c .ok [] : Effect)).toList)) := by
  have hfirst : s.sec.vaultJobs.findIdx? (fun j => !j.finished) = some 0 := by
    rw [hj, List.findIdx?_cons, hf]
    rfl
  show execVaultWriteDone s = _
  unfold execVaultWriteDone
  rw [hfirst, hj]
  rfl

theorem mem_unexpired_iff (l : List ReleaseKey) (n now : Nat) (r : ReleaseKey) :
    r ∈ l.filter (fun r => r.id ≠ n || now < r.expiryUs) ↔ r ∈ l ∧ (r.id ≠ n ∨ now < r.expiryUs) := by
  rw [List.mem_filter, Bool.or_eq_true, decide_eq_true_eq, decide_eq_true_eq]
end Sys2Proof.Machine

open Sys2Proof Sys2Proof.Machine

/-- Settles O46: each deadline and each end where it is due; the drain's requests and the new map read off their states. -/
theorem backgroundEnds : Obligations.BackgroundEnds := by
  refine ⟨fun s q x hx ht hd he => execStoreQueryDeadline_of hx (State.pointReached_of ht hd) he,
    fun s p c x hx hc ht hd => execPurgeTimeout_of hx hc (State.pointReached_of ht hd),
    fun s c d a hx hd => execHangDumpTimeout_of hx hd,
    fun s i x h hx hh hc hd ht => execHoldTimeout_of hx hh hc hd ht,
    fun s m d n ho hd => ⟨_, execEpochDrainDeadline_of ho hd, ?_⟩,
    fun s j m hm hs hd => execEvictDrainDeadline_of hm hs hd,
    fun s k c hk hc ht he hr => execReelWrite_of hk hc ht he hr,
    fun s j rest hj hf => execVaultWriteDone_first hj hf,
    fun s id => ⟨_, rfl, rfl, mem_unexpired_iff s.sec.releases id.toNat s.timeUs⟩,
    fun s m n hn ht hd => ⟨_, execRouteMapActivate_of hn ht hd, rfl, rfl, rfl, rfl⟩⟩
  obtain ⟨w, e⟩ := s.drainEpoch_frame
  rw [e]
  exact ⟨rfl, rfl, rfl⟩
end

/-! PROOFS. Model loads and group exchanges. -/
section
namespace Sys2Proof.Machine

/-! ### Chunks of a model that is loading (R91) -/

/-- The model with a chunk kept, which it then no longer needs. -/
def Model.keepChunk (m : Model) (c : Nat) (b : Bytes) : Model := { m with
  chunks := Tb.set m.chunks c b, need := m.need.filter (· != c), loaded := (m.need.filter (· != c)).isEmpty }

/-- The model with its last chunk kept, and what its image shows of the other members' chunks. -/
def State.withLastChunk (s : State) (m : Model) (c : Nat) (b : Bytes) : Model :=
  let m : Model := { m with chunks := Tb.set m.chunks c b, need := [], loaded := true }
  { m with others := s.readOthers m }

section
variable {s : State} {j : Fin 8} {c : Nat} {m : Model} {b : Bytes} (hm : Tb.get s.img.models j.val = some m)
  (hs : m.state = .loading) (hc : c ∈ m.need) (ha : s.hostAbsent .port0 (m.addr + chunkOffset m.hdr c) = false)
include hs hc

theorem Model.wantsChunk : (m.state != .loading || !m.need.contains c) = false := by
  rw [hs, List.contains_iff_mem.mpr hc]
  rfl

include hm ha

theorem execModelChunkRead_error {st : Status} (hb : s.readChunk m c = .error st) :
    exec (.modelChunkRead j c) s = .next (s.failLoad j.val m st) := by
  show execModelChunkRead j c s = _
  unfold execModelChunkRead
  rw [hm]
  dsimp only
  rw [Model.wantsChunk hs hc, ha, hb]
  rfl

/-- A chunk passes that is not the last one, or the model is not a group's. -/
theorem execModelChunkRead_ok (hb : s.readChunk m c = .ok b) (h : m.group = false ∨ m.need.filter (· != c) ≠ []) :
    exec (.modelChunkRead j c) s = .next { s with img.models := Tb.set s.img.models j.val (m.keepChunk c b) } := by
  have hone : ((m.need.filter (· != c)).isEmpty && m.group) = false := by
    rcases h with h | h
    · rw [h, Bool.and_false]
    · rw [List.isEmpty_eq_false_iff.mpr h, Bool.false_and]
  have hend : (!(m.need.filter (· != c)).isEmpty || !m.group) = true := by rw [← Bool.not_and, hone]; rfl
  show execModelChunkRead j c s = _
  unfold execModelChunkRead
  rw [hm]
  dsimp only
  rw [Model.wantsChunk hs hc, ha, hb]
  dsimp only
  rw [hone]
  exact if_pos hend

/-- With the last chunk of a group's model this member reports LOADED (R92). -/
theorem execModelChunkRead_last (hb : s.readChunk m c = .ok b) (hg : m.group = true) (hl : m.need.filter (· != c) = [])
    {k : Nat} {e : Exchange} (he : s.exchangeBy m.digest = some (k, e)) : exec (.modelChunkRead j c) s =
      .next (State.reportLoaded { s with img.models := Tb.set s.img.models j.val (s.withLastChunk m c b) } k) := by
  have he' : ∀ t, State.exchangeBy { s with img.models := t } m.digest = some (k, e) := fun _ => he
  show execModelChunkRead j c s = _
  unfold execModelChunkRead
  rw [hm]
  dsimp only
  rw [Model.wantsChunk hs hc, ha, hb]
  simp only [hl, hg, List.isEmpty_nil, Bool.and_self, Bool.not_true, Bool.or_self, Bool.false_eq_true, if_true, if_false, he',
    State.withLastChunk]

theorem execModelChunkTimeout_of : exec (.modelChunkTimeout j c) s = .next (s.failLoad j.val m .eTimeout) := by
  show execModelChunkTimeout j c s = _
  unfold execModelChunkTimeout
  rw [hm]
  exact if_neg (or_ne_true (Model.wantsChunk hs hc) ha)
end

theorem State.failLoad_tells (s : State) (m : Model) (l : List Effect) :
    (if (!s.glb.inGroup || !m.group) = true then [] else l) = if s.glb.inGroup = false ∨ m.group = false then [] else l := by
  simp only [Bool.or_eq_true, Bool.not_eq_true']

theorem State.reportLoaded_root {s : State} {k : Nat} {e : Exchange} (he : Tb.get s.img.exchanges k = some e) (hr : s.glb.rank = 0) :
    s.reportLoaded k = { s with img.exchanges := Tb.upd s.img.exchanges k fun x =>
      { x with loadedHere := true, loadedRanks := x.loadedRanks ++ [(0, s.lastVersionFor e.what)] } } := by
  unfold State.reportLoaded
  rw [he]
  simp only [State.updExchange, if_pos hr]

theorem State.reportLoaded_member {s : State} {k : Nat} {e : Exchange} (he : Tb.get s.img.exchanges k = some e) (hr : s.glb.rank ≠ 0) :
    s.reportLoaded k = State.stage { s with img.exchanges := Tb.upd s.img.exchanges k fun x => { x with loadedHere := true } }
      [.send (.rank 0) (.loaded e.digest (s.lastVersionFor e.what))] := by
  unfold State.reportLoaded
  rw [he]
  simp only [State.updExchange, if_neg hr]

/-! ### Activation and exchanges (R91, R92) -/

theorem execModelActivate_alone {s : State} {j : Fin 8} {m : Model} (hm : Tb.get s.img.models j.val = some m) (hs : m.state = .loading)
    (hl : m.loaded = true) (hg : m.group = false) : exec (.modelActivate j) s = .next (({ s with
      img.models := Tb.set s.img.models j.val { m with loaded := false } } : State).stage
      (.modelActive j.val :: (m.cmd.map fun c => (.complete c .ok (toLE 1 j.val) : Effect)).toList)) := by
  show execModelActivate j s = _
  unfold execModelActivate
  rw [hm]
  exact if_neg (by rw [hs, hl, hg]; exact Bool.false_ne_true)

theorem execModelActivate_group {s : State} {j : Fin 8} {m : Model} (hm : Tb.get s.img.models j.val = some m) (hg : m.group = true) :
    exec (.modelActivate j) s = .next s := by
  show execModelActivate j s = _
  unfold execModelActivate
  rw [hm]
  exact if_pos (by rw [hg, Bool.or_true])

theorem execGroupWaitTimeout_of {s : State} {k : Nat} {e : Exchange} (he : Tb.get s.img.exchanges k = some e) (hr : s.glb.rank = 0)
    (hn : e.applyTick = none) (hd : s.pointReached e.waitUs = true) : exec (.groupWaitTimeout k) s = .next (({ s with
      img.exchanges := Tb.del s.img.exchanges k } : State).stage (e.undo .eTimeout ++ s.abortSends e.digest)) := by
  show execGroupWaitTimeout k s = _
  unfold execGroupWaitTimeout
  rw [he]
  exact if_neg (or_ne_true (Bool.or_eq_false_iff.mpr ⟨decide_eq_false (not_not_intro hr), by rw [hn]; rfl⟩) (by rw [hd]; rfl))

/-- The effects that `Exchange.effects` takes as given: a forwarded command's are its own checks' (R292), a checkpoint's its order (R333). -/
def State.ownEffects (s : State) (e : Exchange) : List Effect :=
  match e.what with
  | .forward op c body => s.forwardedEffects e op c body
  | .checkpoint => [.chkptOrder]
  | _ => []

section
variable {s : State} {k n : Nat} {e : Exchange} (he : Tb.get s.img.exchanges k = some e) (hn : e.applyTick = some n)
include he hn

theorem execGroupApply_waits (hd : s.tk.tick < n) : exec (.groupApply k) s = .next s := by
  show execGroupApply k s = _
  unfold execGroupApply
  rw [he]
  dsimp only
  rw [hn]
  exact if_pos (by rw [decide_eq_true hd, Bool.or_true])

theorem execGroupApply_due (ht : s.ticking = true) (hd : n ≤ s.tk.tick) : exec (.groupApply k) s =
    .next (State.stage { s with img.exchanges := Tb.del s.img.exchanges k }
      (e.effects (State.ownEffects { s with img.exchanges := Tb.del s.img.exchanges k } e))) := by
  show execGroupApply k s = _
  unfold execGroupApply
  rw [he]
  dsimp only
  rw [hn]
  exact if_neg (or_ne_true (by rw [ht]; rfl) (decide_eq_false (Nat.not_lt.mpr hd)))
end
end Sys2Proof.Machine

open Sys2Proof Sys2Proof.Machine

/-- Settles O49: a chunk kept, the last one reported, a chunk failed; then the activation, the wait given up and the exchange applied. -/
theorem modelLoads : Obligations.ModelLoads := by
  refine ⟨fun s j c m hm hs hc ha => ⟨fun b hb => ⟨execModelChunkRead_ok hm hs hc ha hb, fun k e hg hl hx he => ⟨fun hr => ?_, fun hr => ?_⟩⟩,
      fun st => ⟨execModelChunkRead_error hm hs hc ha, execModelChunkTimeout_of hm hs hc ha, ?_⟩⟩,
    fun s j m hm hs hl => ⟨execModelActivate_alone hm hs hl, execModelActivate_group hm⟩,
    fun s k e he hr hn hd => execGroupWaitTimeout_of he hr hn hd,
    fun s k n e he hn ht => ⟨execGroupApply_waits he hn, fun hd => ?_⟩⟩
  -- the last chunk, on rank 0 and on another member
  · rw [execModelChunkRead_last hm hs hc ha hb hg hl hx, State.reportLoaded_root (by exact he) (by exact hr)]
    rfl
  · rw [execModelChunkRead_last hm hs hc ha hb hg hl hx, State.reportLoaded_member (by exact he) (by exact hr)]
    rfl
  -- a failed load
  · rw [← State.failLoad_tells]
    rfl
  -- an exchange at its tick
  · rw [execGroupApply_due he hn ht hd, Exchange.effects, State.ownEffects]
    cases e.what <;> rfl
end

/-! PROOFS. CLAIM of held output and PURGE of a tree. -/
section
namespace Sys2Proof.Machine

/-! ### Their checks (R129, R167, R197, R198) -/

theorem State.handle_of {v : State} {h i : Nat} {y : Session} (hs : v.sessOf h = some (i, y)) : v.handle h = .ok (i, y) := by
  rw [State.handle, hs, want_some]

theorem State.routed_of {v : State} {x : Ctx} {t : Nat} (hr : v.routeOf t = some x.m) : v.routed x t = .ok () :=
  must_of (by rw [decide_eq_true hr, Bool.or_true])

@[simp] theorem State.given_id (s : State) (m : Fin 64) (c : Cmd) : (s.given m c).id = s.nextCmd := (rfl)

theorem checkClaim_ok {s : State} {m : Fin 64} {c : Cmd} {i : Nat} {y : Session} {h : HeldOutput} (hring : fld c 16 8 % 64 = 0)
    (hcount : ringCountOk (fld c 24 4) = true) (hindex : fld c 32 8 % 16 = 0) (hs : (s.sees m c).sessOf (fld c 8 8) = some (i, y))
    (hr : (s.sees m c).routeOf y.tenant = some m.val) (hh : y.held = some h) (hlen : h.records.length ≤ fld c 24 4)
    (hfree : Tb.has (s.sees m c).ss.claims i = false) (hq : (s.sees m c).spoolOpens i y 32 = true) :
    checkClaim (s.sees m c) (s.given m c) =
      .ok [.claimStart i s.nextCmd m.val ((s.sees m c).mbx[m]).gen (fld c 16 8) (fld c 24 4) (fld c 32 8)] := by
  simp only [checkClaim, State.given_f, State.given_id, State.given_m, mboxFin_val, hring, hcount, hindex, State.handle_of hs,
    State.routed_of (x := s.given m c) hr, hh, want_some, hlen, hfree, hq, Bool.not_false, decide_true, Bool.and_self, must_true,
    checked_bind]
  rfl

theorem checkPurge_ok {s : State} {m : Fin 64} {c : Cmd} {b : Bytes} {n : Node} (ht : fld c 8 1 ≤ 63) (ha : fld c 24 8 % 16 = 0)
    (hf : (s.given m c).flag 0 = true) (hb : (s.given m c).rd .port0 (fld c 24 8) 128 = some b) (hz : zeroAt b 98 30 = true)
    (hp : fieldAt b 96 1 ∈ [16, 32, 64, 128]) (hbit : fieldAt b 97 1 ≤ 1) (hten : Tb.has (s.sees m c).ten.tenants (fld c 8 1) = true)
    (hr : (s.sees m c).routeOf (fld c 8 1) = some m.val)
    (htop : (s.sees m c).purgeTop ⟨fld c 8 1, digestOf (b.take 48), digestOf (sliceAt b 48 48), fieldAt b 96 1, fieldAt b 97 1 = 1⟩
      (some (fld c 12 4, fld c 16 4)) = some n)
    (he : (s.sees m c).energyOk (.sweep 0) 1 (some (fld c 8 1)) = true) :
    checkPurge (s.sees m c) (s.given m c) = .ok [.purge
      ⟨fld c 8 1, digestOf (b.take 48), digestOf (sliceAt b 48 48), fieldAt b 96 1, fieldAt b 97 1 = 1⟩ (some n.id) s.nextCmd] := by
  simp only [checkPurge, State.given_f, State.given_id, ht, ha, hf, Ctx.read_of hb, hz, List.contains_iff_mem.mpr hp, hbit, hten,
    State.routed_of (x := s.given m c) hr, htop, want_some, he, decide_true, Bool.true_or, Bool.and_self, if_true, must_true,
    checked_bind]
  rfl

/-! ### What their effects do (R129, R198) -/

theorem State.applyPlain_claimStart (s : State) (i n k g r w x st : Nat) : s.applyPlain (.claimStart i n k g r w x) st =
    { s with ss.claims := Tb.set s.ss.claims i ⟨n, k, g, r, w, x, 0⟩ } := rfl

theorem State.applyPlain_purge (s : State) (k : RootKey) (node : Option Nat) (cmd st : Nat) :
    s.applyPlain (.purge k node cmd) st = s.startPurge k node cmd := rfl

/-- A unit that is added waits in the queue. -/
theorem State.addUnit_hasUnit (s : State) (k : UnitKind) (tenant session : Option Nat) (size stamp : Nat) (group : Bool)
    {p : UnitKind → Bool} (hp : p k = true) : (s.addUnit k tenant session size stamp group).hasUnit p = true := by
  have hq : (s.addUnit k tenant session size stamp group).work.queue.any (fun u => p u.kind) = true :=
    List.any_eq_true.mpr ⟨_, List.mem_mergeSort.mpr (List.mem_append_right _ (List.mem_singleton_self _)), hp⟩
  rw [State.hasUnit, hq, Bool.true_or, Bool.true_or]

/-- A purge starts a sweep: its record names the tenant and the command, and its unit waits. -/
theorem State.startPurge_sweeps (s : State) (k : RootKey) (node : Option Nat) (cmd : Nat) :
    ∃ p j, Tb.get (s.startPurge k node cmd).kv.purges p = some j ∧ j.tenant = k.tenant ∧ j.cmd = some cmd ∧
      (s.startPurge k node cmd).hasUnit (· == .sweep p) = true :=
  ⟨_, _, Tb.get_set_same _ _ _, rfl, rfl, State.addUnit_hasUnit _ _ _ _ _ _ _ (beq_self_eq_true _)⟩
end Sys2Proof.Machine

open Sys2Proof Sys2Proof.Machine

/-- Settles O18: each command's checks pass under its conditions; the claim is in its table, and the purge has its sweep. -/
theorem claimAndPurge : Obligations.ClaimAndPurge := by
  refine ⟨fun s m c i y h hs hring hcount hindex hsess hr hh hlen hfree hq => ?_,
    fun s m c b n hs ht ha hf hb hz hp hbit hten hr htop he => ?_, fun t st => ⟨fun i n k g r w x => ?_, fun k nd n => ?_⟩⟩
  · exact hostCommand_takes_of hs (checkClaim_ok hring hcount hindex hsess hr hh hlen hfree hq)
  · exact hostCommand_takes_of hs (checkPurge_ok ht ha hf hb hz hp hbit hten hr htop he)
  · rw [State.applyPlain_claimStart, Tb.get_set_same]
  · rw [State.applyPlain_purge]
    exact t.startPurge_sweeps k nd n
end

/-! PROOFS. What a request's ring and stall hold wait for. -/
section
namespace Sys2Proof.Machine

/-! ### The next DECODE unit (R158) -/

/-- A unit that is added joins the units of the queue, under its kind and session and not yet abandoned. -/
theorem State.addUnit_joins (s : State) (k : UnitKind) (tenant session : Option Nat) (size stamp : Nat) (group : Bool) :
    ∃ u : UnitRec, u.kind = k ∧ u.session = session ∧ u.group = group ∧ u.abandons = 0 ∧
      (s.addUnit k tenant session size stamp group).work.queue.Perm (s.work.queue ++ [u]) :=
  ⟨_, rfl, rfl, rfl, rfl, List.mergeSort_perm _ _⟩

section
variable {s : State} {r : Nat} {q : Req} (hq : Tb.get s.ss.reqs r = some q) (ht : s.ticking = true) (hd : s.wantsDecode r q = true)
include hq ht hd

theorem execDecodeUnitCreate_room (hr : q.hasRoom = true) : ∃ tenant len stamp, exec (.decodeUnitCreate r) s =
    .next ((s.addUnit (.decode r) tenant (some q.session) len stamp true).updReq r fun q => { q with ringWaitUs := none }) := by
  show ∃ tenant len stamp, execDecodeUnitCreate r s = _
  unfold execDecodeUnitCreate
  rw [hq]
  dsimp only
  rw [ht, hd, hr]
  exact ⟨_, _, _, rfl⟩

theorem execDecodeUnitCreate_full (hr : q.hasRoom = false) : exec (.decodeUnitCreate r) s =
    .next (s.updReq r fun q => { q with ringWaitUs := some (q.ringWaitUs.getD s.tk.startUs) }) := by
  show execDecodeUnitCreate r s = _
  unfold execDecodeUnitCreate
  rw [hq]
  dsimp only
  rw [ht, hd, hr]
  rfl
end

/-! ### The ends of the waits (R153, R158) -/

theorem execRingRoomTimeout_due {s : State} {r w : Nat} {q : Req} (hq : Tb.get s.ss.reqs r = some q) (hw : q.ringWaitUs = some w)
    (hr : q.hasRoom = false) (hd : s.wantsDecode r q = true) (hu : w + 10000000 ≤ s.tk.startUs + s.tickUs) :
    exec (.ringRoomTimeout r) s = .next ((s.updReq r fun q => { q with ringWaitUs := none }).stage
      (s.records r q.pendingToks true ++ endEvents r q.session .eTimeout 0) (some q.session)) := by
  show execRingRoomTimeout r s = _
  unfold execRingRoomTimeout
  rw [hq]
  dsimp only
  rw [hw]
  exact if_neg (or_ne_true (Bool.or_eq_false_iff.mpr ⟨hr, decide_eq_false (Nat.not_lt.mpr hu)⟩) (by rw [hd]; rfl))

theorem execStallHoldExpiry_due {s : State} {r d : Nat} {q : Req} (hq : Tb.get s.view.ss.reqs r = some q)
    (hs : q.stallUntilUs = some d) (hp : q.phase = .stalled) (hc : q.cancel = none) (he : s.holdEnded r = false)
    (hu : d ≤ s.tk.startUs + s.tickUs) :
    exec (.stallHoldExpiry r) s = .next ((s.updReq r fun q => { q with stallUntilUs := none }).stage
      [.spool q.session 0x09 0 (toLE 4 r)] (some q.session)) := by
  show execStallHoldExpiry r s = _
  unfold execStallHoldExpiry
  rw [hq]
  dsimp only
  rw [hs]
  refine if_neg (or_ne_true (Bool.or_eq_false_iff.mpr ⟨Bool.or_eq_false_iff.mpr ⟨decide_eq_false (not_not_intro hp), ?_⟩, he⟩)
    (decide_eq_false (Nat.not_lt.mpr hu)))
  rw [hc, Option.isSome_none]
end Sys2Proof.Machine

open Sys2Proof Sys2Proof.Machine

/-- Settles O42: the unit that joins the queue or the wait for room, then the end of that wait and the end of a stall hold. -/
theorem decodeWaits : Obligations.DecodeWaits := by
  refine ⟨fun s r q hq ht hd => ⟨fun hr => ?room, fun hr => execDecodeUnitCreate_full hq ht hd hr⟩,
    fun s r w q hq hw hr hd hu => execRingRoomTimeout_due hq hw hr hd hu,
    fun s r d q hq hs hp hc he hu => execStallHoldExpiry_due hq hs hp hc he hu⟩
  case room =>
    obtain ⟨tenant, len, stamp, h⟩ := execDecodeUnitCreate_room hq ht hd hr
    obtain ⟨u, hk, hs, hg, ha, hperm⟩ := s.addUnit_joins (.decode r) tenant (some q.session) len stamp true
    refine ⟨_, u, h, hperm.mem_iff.mpr (List.mem_append_right _ (List.mem_singleton_self u)), hk, hs, hg, ha, ?_,
      fun v hv => hperm.mem_iff.mpr (List.mem_append_left _ hv), ?_⟩
    · exact hperm.length_eq.trans List.length_append
    · rfl
end

/-! PROOFS. SUBMIT, CANCEL, RESUME and RETRACT. -/
section
namespace Sys2Proof.Machine

/-! ### What a sequence of checks that passes has found (R255) -/

theorem checked_bind_iff {α β : Type} {c : Checked α} {f : α → Checked β} {b : β} :
    (c >>= f) = .ok b ↔ ∃ a, c = .ok a ∧ f a = .ok b := by
  cases c with
  | error e => exact ⟨fun h => (nomatch h), fun ⟨_, h, _⟩ => (nomatch h)⟩
  | ok a => exact ⟨fun h => ⟨a, rfl, h⟩, fun ⟨a', h, hf⟩ => by cases h; exact hf⟩

/-- A step that is one of two by a condition. -/
theorem checked_ite_bind {α β : Type} {p : Prop} [Decidable p] {a b : Checked α} {f : α → Checked β} :
    (if p then a >>= f else b >>= f) = ((if p then a else b) >>= f) :=
  (apply_ite_left bind p a b f).symm

theorem must_ok_iff {st : Status} {b : Bool} {u : Unit} : must st b = .ok u ↔ b = true := by
  cases b <;> simp [must]

theorem want_ok_iff {α : Type} {st : Status} {o : Option α} {a : α} : want st o = .ok a ↔ o = some a := by
  cases o <;> simp [want]

theorem State.handle_ok_iff {v : State} {h i : Nat} {y : Session} : v.handle h = .ok (i, y) ↔ v.sessOf h = some (i, y) :=
  want_ok_iff

/-- The steps of SUBMIT that come once the session may take the request (R263): what they answer where all of them pass. -/
theorem State.submitTo_ok {v : State} {x : Ctx} {d buf : Bytes} {toks globals : List Nat} {i : Nat} {y : Session} {effs : List Effect}
    (h : v.submitTo x d buf toks globals i y = .ok effs) :
    ∃ text ad g res resSpool turn rest,
      effs = .submit (v.freeReqId v.ss.nextReq (v.ss.reqs.length + 1))
          (newReq x (v.mbx[mboxFin x.m]).gen i v.ten.map.epoch d text globals ad g res resSpool) toks ::
        .spool i 0x02 0 turn :: (rest ++ [x.done (toLE 4 (v.freeReqId v.ss.nextReq (v.ss.reqs.length + 1)))]) := by
  simp only [State.submitTo, checked_ite_bind, checked_bind_iff, must_ok_iff, exists_const] at h
  obtain ⟨m, -, -, -, ad, -, -, -, g, -, -, -, -, -, -, h⟩ := h
  exact ⟨_, ad, g, _, _, _, _, (Except.ok.inj h).symm⟩

theorem checkSubmit_ok {v : State} {x : Ctx} {effs : List Effect} (h : checkSubmit v x = .ok effs) :
    ∃ i y d buf toks globals, v.sessOf (x.f 8 8) = some (i, y) ∧ y.state = .idle ∧ v.submitTo x d buf toks globals i y = .ok effs := by
  simp only [checkSubmit, checked_ite_bind, checked_bind_iff, must_ok_iff, exists_const, Bool.and_eq_true] at h
  obtain ⟨-, d, -, buf, -, gb, -, _, -, -, -, -, ⟨i, y⟩, hs, _, -, ⟨hi, -⟩, h⟩ := h
  exact ⟨i, y, d, buf, _, _, State.handle_ok_iff.mp hs, beq_iff_eq.mp hi, h⟩

/-! ### Their checks (R154, R163, R166) -/

theorem State.request_of {v : State} {r : Nat} {q : Req} {y : Session} (hq : Tb.get v.ss.reqs r = some q)
    (hy : Tb.get v.ss.sessions q.session = some y) : v.request r = .ok (q, y) := by
  rw [State.request, hq, want_some, checked_bind, hy, want_some, checked_bind]
  rfl

section
variable {s : State} {m : Fin 64} {c : Cmd} {q : Req} {y : Session} (hq : Tb.get (s.sees m c).ss.reqs (fld c 8 4) = some q)
  (hy : Tb.get (s.sees m c).ss.sessions q.session = some y) (hr : (s.sees m c).routeOf y.tenant = some m.val) (hb : y.state = .busy)
include hq hy hr hb

theorem checkCancel_ok : checkCancel (s.sees m c) (s.given m c) = .ok [.complete s.nextCmd .ok []] := by
  simp only [checkCancel, State.given_f, State.request_of hq hy, State.routed_of (x := s.given m c) hr, hb, beq_self_eq_true, must_true,
    checked_bind, State.given_done]
  rfl

section
variable (hp : q.phase = .stalled) (hc : q.cancel = none) (he : (s.sees m c).holdEnded (fld c 8 4) = false)
include hp hc he

theorem checkResume_plain (hf : (s.given m c).flag 0 = true) (h0 : fld c 12 2 = 0) : checkResume (s.sees m c) (s.given m c) =
    .ok [.resume (fld c 8 4) m.val ((s.sees m c).mbx[m]).gen none none, .spool q.session 0x08 0 (digestBytes 0),
      .complete s.nextCmd .ok []] := by
  simp only [checkResume, State.given_f, State.given_m, mboxFin_val, h0, Nat.zero_le, hf, State.request_of hq hy,
    State.routed_of (x := s.given m c) hr, hp, hb, hc, he, beq_self_eq_true, Option.isNone_none, Bool.not_false, Bool.or_true,
    decide_true, Bool.and_self, if_true, must_true, checked_bind, State.given_done]
  rfl

theorem checkResume_grammar {g : Grammar} {mdl : Nat × Model} (hg : fld c 12 2 ≤ 1023) (hf : (s.given m c).flag 0 = false)
    (hgr : Tb.get (s.sees m c).img.grammars (fld c 12 2) = some g) (hm : (s.sees m c).modelOf y.model = some mdl)
    (hv : mdl.2.hdr.vocabDigest = g.vocabDigest) : checkResume (s.sees m c) (s.given m c) =
    .ok [.resume (fld c 8 4) m.val ((s.sees m c).mbx[m]).gen (some (fld c 12 2)) (some g),
      .spool q.session 0x08 0 (digestBytes g.digest), .complete s.nextCmd .ok []] := by
  simp only [checkResume, State.given_f, State.given_m, mboxFin_val, hg, hf, State.request_of hq hy,
    State.routed_of (x := s.given m c) hr, hp, hb, hc, he, hgr, hm, hv, want_some, Option.map_some, Option.getD_some, beq_self_eq_true,
    Option.isNone_none, Bool.not_false, Bool.true_or, decide_true, Bool.and_self, Bool.false_eq_true, if_false, must_true, checked_bind,
    State.given_done]
  rfl
end
end

theorem checkRetract_ok {s : State} {m : Fin 64} {c : Cmd} {i : Nat} {y : Session} (hn : fld c 16 4 ≠ 0)
    (hs : (s.sees m c).sessOf (fld c 8 8) = some (i, y)) (hr : (s.sees m c).routeOf y.tenant = some m.val) (hi : y.state = .idle)
    (hl : fld c 16 4 ≤ y.hist.length) (ho : (s.sees m c).spoolOpens i y 32 = true) : checkRetract (s.sees m c) (s.given m c) =
    .ok (.retract i (y.hist.length - fld c 16 4) ::
      .spool i 0x0B 0 (toLE 4 (fld c 16 4) ++ toLE 4 (y.hist.length - fld c 16 4)) ::
      (if y.hist.length - fld c 16 4 < y.kvlen && (s.sees m c).reachesDropped y (y.hist.length - fld c 16 4)
        then [.spool i 0x0D 0 (toLE 4 (y.hist.length - fld c 16 4)), .complete s.nextCmd .ok []]
        else [.complete s.nextCmd .ok []])) := by
  simp only [checkRetract, State.given_f, hn, State.handle_of hs, State.routed_of (x := s.given m c) hr, hi, hl, ho, decide_not,
    decide_false, beq_self_eq_true, Bool.not_false, decide_true, must_true, checked_bind, State.given_done]
  split <;> rfl

/-- A command that is served whose own checks pass completes, with what its acceptance changes at once. -/
theorem hostCommand_takes_now {own : State → Ctx → Checked (List Effect)} {now : State → Ctx → State} {s : State} {m : Fin 64} {c : Cmd}
    {op : Nat} {effs : List Effect} (h : s.serves m c op) (he : own (s.sees m c) (s.given m c) = .ok effs) :
    s.hostCommand m c op own now = .next (now (s.takes m c effs) (s.given m c)) := by
  obtain ⟨hf, ha, k, hk, hc, hl⟩ := h
  have hc' : (s.sees m c).common m k c = .ok () := hc
  rw [State.hostCommand_answer s m c op k hk hf ha hl, hc', he]

/-! ### Sessions that an effect keeps in the table -/

/-- Session `i` is in the table, and `P` holds of it. -/
def State.sessionIs (s : State) (i : Nat) (P : Session → Prop) : Prop := ∃ z, Tb.get s.ss.sessions i = some z ∧ P z

theorem State.sessionIs_updSess {s : State} {i j : Nat} {P : Session → Prop} {f : Session → Session} (h : s.sessionIs i P)
    (hf : ∀ z, P z → P (f z)) : (s.updSess j f).sessionIs i P := by
  obtain ⟨z, hz, hP⟩ := h
  rw [State.sessionIs, State.updSess_sessions, Tb.get_upd, hz]
  split
  · exact ⟨f z, rfl, hf z hP⟩
  · exact ⟨z, rfl, hP⟩

theorem State.sessionIs_updSess_self {s : State} {i : Nat} {P : Session → Prop} {f : Session → Session} {y : Session}
    (hy : Tb.get s.ss.sessions i = some y) (hf : P (f y)) : (s.updSess i f).sessionIs i P :=
  ⟨f y, by rw [State.updSess_sessions, Tb.get_upd, if_pos rfl, hy, Option.map_some], hf⟩

theorem State.sessionIs_updReq {s : State} {i r : Nat} {P : Session → Prop} {f : Req → Req} (h : s.sessionIs i P) :
    (s.updReq r f).sessionIs i P := h

theorem State.sessionIs_of_ss {s t : State} {i : Nat} {P : Session → Prop} (h : s.sessionIs i P) (e : t.ss = s.ss) :
    t.sessionIs i P := by
  rw [State.sessionIs, e]
  exact h

/-! ### What SUBMIT does (R263) -/

/-- The session is BUSY with request `k` of epoch `e`. -/
def Session.busyWith (k e : Nat) (z : Session) : Prop := z.state = .busy ∧ z.reqId = k ∧ z.epoch = e

theorem State.sessionIs_nextPhase {s : State} {i : Nat} {P : Session → Prop} (h : s.sessionIs i P) (r stamp : Nat) :
    (s.nextPhase r stamp).sessionIs i P := by
  unfold State.nextPhase
  dsimp only
  repeat' split
  all_goals exact h

theorem State.inputTokens_busy {s : State} {i k e : Nat} (h : s.sessionIs i (Session.busyWith k e)) (r : Nat) (toks : List Nat)
    (stamp : Nat) : (s.inputTokens r toks stamp).sessionIs i (Session.busyWith k e) := by
  unfold State.inputTokens
  split
  · exact h
  · dsimp only
    exact State.sessionIs_nextPhase (State.sessionIs_updReq (State.sessionIs_updSess h fun _ hz => by exact hz)) _ _

theorem State.startRebuild_busy {s : State} {i k e : Nat} (h : s.sessionIs i (Session.busyWith k e)) (j : Nat) (rb : Rebuild)
    (stamp : Nat) : (s.startRebuild j rb stamp).sessionIs i (Session.busyWith k e) := by
  unfold State.startRebuild
  split
  · exact h
  · exact State.sessionIs_updSess (s := { s with ss.rebuilds := _ }) h fun _ hz => hz

/-- A SUBMIT leaves its session BUSY with the request (R263). -/
theorem State.applySubmit_busy {s : State} {q : Req} {y : Session} (hy : Tb.get s.ss.sessions q.session = some y) (k : Nat)
    (toks : List Nat) (stamp : Nat) : (s.applySubmit k q toks stamp).sessionIs q.session (Session.busyWith k q.epoch) := by
  unfold State.applySubmit
  rw [hy]
  dsimp -zeta only
  extract_lets q' ss entered busy img bound input waiting rebuilding
  have hbusy : busy.sessionIs q.session (Session.busyWith k q.epoch) := State.sessionIs_updSess_self hy ⟨rfl, rfl, rfl⟩
  have hbound : bound.sessionIs q.session (Session.busyWith k q.epoch) := by
    unfold bound
    split <;> exact hbusy
  have hrebuilding : rebuilding.sessionIs q.session (Session.busyWith k q.epoch) :=
    State.startRebuild_busy (State.sessionIs_updReq (State.sessionIs_updSess hbound fun _ hz => by exact hz)) _ _ _
  split
  · split <;> exact hrebuilding
  · split
    · exact State.inputTokens_busy hbound _ _ _
    · exact hbound

/-! ### What RETRACT does (R166) -/

theorem State.count_ss (s : State) (g i k : Nat) : (s.count g i k).ss = s.ss := by
  obtain ⟨d, e⟩ := s.count_frame g i k
  rw [e]

theorem State.allocPage_ss (s : State) (tenant layer psize dim : Nat) (d : PageData) :
    (s.allocPage tenant layer psize dim d).2.ss = s.ss :=
  State.count_ss _ _ _ _

theorem State.writePage_ss (s : State) (tenant layer psize dim : Nat) (old : Option Nat) (d : PageData) :
    (s.writePage tenant layer psize dim old d).2.ss = s.ss := by
  unfold State.writePage
  split
  · exact s.allocPage_ss ..
  · split
    · rfl
    · split
      · rfl
      · exact (State.count_ss _ _ _ _).trans (s.allocPage_ss tenant layer psize dim d)

theorem foldl_unrefPage_ss {α : Type} (p : α → Nat) (l : List α) (s : State) :
    (l.foldl (fun s a => s.unrefPage (p a)) s).ss = s.ss :=
  foldl_holds (fun t => t.ss = s.ss) (fun s a => s.unrefPage (p a)) (fun _ _ h => h) l s rfl

/-- Storing a layer's pages leaves the tables of sessions and requests as they are. -/
theorem State.storeLayer_ss (s : State) (tenant layer psize dim : Nat) (old : Tbl Nat) (ps : List PageData) :
    (s.storeLayer tenant layer psize dim old ps).2.ss = s.ss := by
  unfold State.storeLayer
  refine (foldl_unrefPage_ss ..).trans ?_
  exact List.foldlRecOn (motive := fun p : Tbl Nat × State => p.2.ss = s.ss) ps _ rfl
    fun p h d _ => (p.2.writePage_ss ..).trans h

section
variable {s : State} {i : Nat} {h : List Nat}

theorem State.storeKv_hist (hs : s.sessionIs i (·.hist = h)) (j dim : Nat) (kv : KvView) (n : Nat) :
    (s.storeKv j dim kv n).sessionIs i (·.hist = h) := by
  unfold State.storeKv
  split
  · exact hs
  · extract_lets layers stored map written
    have hstored : stored.2.ss = s.ss :=
      List.foldlRecOn (motive := fun p : List (Tbl Nat) × State => p.2.ss = s.ss) _ _ rfl
        fun p e l _ => (p.2.storeLayer_ss ..).trans e
    have hwritten : written.sessionIs i (·.hist = h) :=
      State.sessionIs_updSess (State.sessionIs_of_ss hs hstored) fun _ hz => by exact hz
    exact hwritten

theorem State.cutKv_hist (hs : s.sessionIs i (·.hist = h)) (j n : Nat) : (s.cutKv j n).sessionIs i (·.hist = h) := by
  unfold State.cutKv
  split
  · exact hs
  · split
    · exact hs
    · exact State.storeKv_hist hs _ _ _ _

theorem State.releaseKv_hist (hs : s.sessionIs i (·.hist = h)) (j : Nat) : (s.releaseKv j).sessionIs i (·.hist = h) := by
  unfold State.releaseKv
  split
  · exact hs
  · exact State.sessionIs_updSess (State.sessionIs_of_ss hs (foldl_unrefPage_ss ..)) fun _ hz => by exact hz

theorem State.liftTree_hist (hs : s.sessionIs i (·.hist = h)) (j n : Nat) : (s.liftTree j n).sessionIs i (·.hist = h) := by
  unfold State.liftTree
  split
  · exact hs
  · split
    · exact hs
    · split
      · exact hs
      · exact State.sessionIs_updSess hs fun _ hz => by exact hz

/-- A removal cuts the session's history to its first positions (R166). -/
theorem State.cutHist_hist (hs : s.sessionIs i (·.hist = h)) (n : Nat) : (s.cutHist i n).sessionIs i (·.hist = h.take n) := by
  obtain ⟨y, hy, rfl⟩ := hs
  unfold State.cutHist
  extract_lets cut lifted
  have hcut : cut.sessionIs i (·.hist = y.hist.take n) := State.sessionIs_updSess_self hy rfl
  have hlifted : lifted.sessionIs i (·.hist = y.hist.take n) := State.liftTree_hist (State.cutKv_hist hcut _ _) _ _
  split
  · exact hlifted
  · split
    · exact State.cutKv_hist hlifted _ _
    · exact hlifted

theorem State.cutOrRelease_hist (hs : s.sessionIs i (·.hist = h)) (n : Nat) :
    (s.cutOrRelease i n).sessionIs i (·.hist = h.take n) := by
  unfold State.cutOrRelease
  split
  · next hn =>
    obtain ⟨y, hy, -⟩ := hs
    rw [hn] at hy
    cases hy
  · split
    · exact State.sessionIs_updSess (State.cutHist_hist (State.releaseKv_hist hs i) n) fun _ hz => by exact hz
    · exact State.cutHist_hist hs n
end

/-! ### What the four do at the commit point (R154, R163, R166, R263) -/

theorem State.applyPlain_submit (s : State) (k : Nat) (q : Req) (toks : List Nat) (st : Nat) :
    s.applyPlain (.submit k q toks) st = s.applySubmit k q toks st := rfl

theorem State.applyPlain_resume (s : State) (k mb gen : Nat) (gid : Option Nat) (g : Option Grammar) (st : Nat) :
    s.applyPlain (.resume k mb gen gid g) st = s.resumeReq k mb gen gid g st := rfl

theorem State.applyPlain_retract (s : State) (i n st : Nat) : s.applyPlain (.retract i n) st = s.cutOrRelease i n := rfl

/-- RESUME's request decodes again from the grammar's start, or without one, and its hold is over (R154). -/
theorem State.resumeReq_req {s : State} {k : Nat} {q : Req} (hq : Tb.get s.ss.reqs k = some q) (mb gen : Nat) (gid : Option Nat)
    (g : Option Grammar) (st : Nat) : Tb.get (s.resumeReq k mb gen gid g st).ss.reqs k = some { q with
      mbox := mb, mboxGen := gen, grammarId := gid, grammar := g, gstate := g.map (·.start), phase := .decode, firstStep := true
      heldReason := none, stallUntilUs := none, stallLeftUs := none, unitStamp := st } := by
  unfold State.resumeReq
  rw [hq]
  dsimp only
  rw [State.updSess_reqs, State.updReq_reqs, Tb.get_upd, if_pos rfl, hq, Option.map_some]

theorem State.markCancel_req {s : State} {x : Ctx} {q : Req} (hq : Tb.get s.ss.reqs (x.f 8 4) = some q) :
    Tb.get (s.markCancel x).ss.reqs (x.f 8 4) = some (q.marked s.tk.tick (x.flag 0)) := by
  unfold State.markCancel
  dsimp only
  rw [State.updReq_reqs, Tb.get_upd, if_pos rfl, hq, Option.map_some]
end Sys2Proof.Machine

open Sys2Proof Sys2Proof.Machine

/-- Settles O19: each command's checks under its conditions, SUBMIT's read backwards from its answer; then each effect. -/
theorem requestCommands : Obligations.RequestCommands := by
  refine ⟨fun s m c hs => ⟨State.hostCommand_serves s m c _ hs, fun effs he => ⟨hostCommand_takes_of hs he, ?submit⟩⟩,
    fun s m c q y hs hq hy hr hb => hostCommand_takes_now hs (checkCancel_ok hq hy hr hb),
    fun s m c q y hs hg hq hy hr hp hb hc he => ⟨fun hf h0 => hostCommand_takes_of hs (checkResume_plain hq hy hr hb hp hc he hf h0),
      fun g mdl hf hgr hm hv => hostCommand_takes_of hs (checkResume_grammar hq hy hr hb hp hc he hg hf hgr hm hv)⟩,
    fun s m c i y hs hn hy hr hi hl ho => hostCommand_takes_of hs (checkRetract_ok hn hy hr hi hl ho),
    fun t st => ⟨fun k q toks y hy => ?submitted, fun k q mb gen gid g hq => ?resumed, fun i n y hy => ?retracted,
      fun x q hq => State.markCancel_req hq⟩⟩
  case submit =>
    obtain ⟨i, y, d, buf, toks, globals, hy, hi, hto⟩ := checkSubmit_ok he
    obtain ⟨text, ad, g, res, resSpool, turn, rest, rfl⟩ := State.submitTo_ok hto
    exact ⟨i, y, _, toks, turn, rest, hy, hi, rfl, rfl, rfl, rfl, rfl, rfl, rfl⟩
  case submitted =>
    rw [State.applyPlain_submit]
    exact State.applySubmit_busy hy k toks st
  case resumed =>
    rw [State.applyPlain_resume]
    exact ⟨_, State.resumeReq_req hq mb gen gid g st, rfl, rfl, rfl, rfl, rfl, rfl, rfl⟩
  case retracted =>
    rw [State.applyPlain_retract]
    exact State.cutOrRelease_hist ⟨y, hy, rfl⟩ n
end

/-! PROOFS. Tiles of background transfers. -/
section
namespace Sys2Proof.Machine

/-! ### Tiles that finish (R184, R185, R298, R334) -/

theorem Noted.refl (s : State) : Noted s s := ⟨s.freeCtr, s.dbg, rfl⟩

theorem State.noteCopyMiss_noted (s : State) (i : Nat) : Noted s (s.noteCopyMiss i) := by
  unfold State.noteCopyMiss
  split
  · split
    · split
      · obtain ⟨d, e⟩ := s.traceRec_frame 0x8007 16 _
        exact ⟨s.freeCtr, d, e⟩
      · exact .refl s
    · exact .refl s
  · exact .refl s

section
variable {s x : State} {u k : Nat} {v : UnitRec} {effs : List Effect} (hr : s.work.running[u]? = some (k, v))
  (hp : ∀ p, s.tilePlace v = some p → s.absentPage p.1 p.2.1 p.2.2 = none)
include hr hp

/-- A tile does not pause where its page is present or it reaches no memory outside the device: it finishes with its effects. -/
theorem State.runTile_finishes {f : UnitKind → Nat → Option (List Effect)} (hx : Noted s x)
    (hf : f v.kind v.key.stamp = some effs) : s.finishes k v effs (x.runTile u f) := by
  obtain ⟨fc, d, rfl⟩ := hx
  have hat : State.runningAt { s with freeCtr := fc, dbg := d } u = some (k, v) := hr
  have hpx : ∀ p, State.tilePlace { s with freeCtr := fc, dbg := d } v = some p →
      State.absentPage { s with freeCtr := fc, dbg := d } p.1 p.2.1 p.2.2 = none := hp
  rw [State.runTile, hat]
  dsimp only
  rw [hf]
  dsimp only
  split
  · next hpl =>
    rw [hpx _ hpl]
    exact State.finish_spec { s with freeCtr := fc, dbg := d } k v effs
  · exact State.finish_spec { s with freeCtr := fc, dbg := d } k v effs

theorem execParkTile_finishes {c i : Nat} (hk : v.kind = .parkTile c i) (he : s.parkTileEffects c i v.key.stamp = some effs) :
    ∃ t, exec (.parkTile u) s = .next t ∧ s.finishes k v effs t :=
  ⟨_, rfl, State.runTile_finishes hr hp (s.noteCopyMiss_noted u) (by rw [hk]; exact he)⟩

theorem execReviveTile_finishes {r i : Nat} (hk : v.kind = .reviveTile r i) (he : s.reviveTileEffects r i v.key.stamp = some effs) :
    ∃ t, exec (.reviveTile u) s = .next t ∧ s.finishes k v effs t :=
  ⟨_, rfl, State.runTile_finishes hr hp (.refl s) (by rw [hk]; exact he)⟩

theorem execChkptTile_finishes {i : Nat} (hk : v.kind = .chkptTile i) (he : s.chkptTileEffects i v.key.stamp = some effs) :
    ∃ t, exec (.chkptTile u) s = .next t ∧ s.finishes k v effs t :=
  ⟨_, rfl, State.runTile_finishes hr hp (.refl s) (by rw [hk]; exact he)⟩
end

/-- A chunk that can be read ends nothing. -/
theorem State.endFailed_of_read {s : State} {v : UnitRec} {j c : Nat} {m : Model} {b : Bytes} (hk : v.kind = .reshard j c)
    (hm : Tb.get s.img.models j = some m) (hb : s.readChunk m c = .ok b) : s.endFailed v = s := by
  unfold State.endFailed
  rw [hk]
  dsimp only
  rw [hm]
  dsimp only
  rw [hb]
  exact ite_self s

theorem execReshardTile_finishes {s : State} {u k j c : Nat} {v : UnitRec} {m : Model} {b : Bytes}
    (hr : s.work.running[u]? = some (k, v)) (hp : ∀ p, s.tilePlace v = some p → s.absentPage p.1 p.2.1 p.2.2 = none)
    (hk : v.kind = .reshard j c) (hm : Tb.get s.img.models j = some m) (hb : s.readChunk m c = .ok b) :
    ∃ t, exec (.reshardTile u) s = .next t ∧ s.finishes k v [.reshard j c (some b)] t := by
  have hat : s.runningAt u = some (k, v) := hr
  refine ⟨_, rfl, ?_⟩
  rw [hat]
  dsimp only
  rw [State.endFailed_of_read hk hm hb, ite_self]
  refine State.runTile_finishes hr hp (.refl s) ?_
  rw [hk]
  dsimp only
  rw [hm, Option.map_some, hb]

/-! ### Tiles that take 100 ms (R184, R185, R335) -/

section
variable {s : State} {u : Nat} {k : Option Nat} {v : UnitRec} (hu : s.unitAt u = some (k, v)) (hp : v.paused = none)
include hu hp

theorem execParkTileTimeout_of {c i : Nat} (hk : v.kind = .parkTile c i) : exec (.parkTileTimeout u) s =
    .next ((s.dropUnit k v).stage (s.copyFailEffects c .eTimeout) v.session) := by
  show execParkTileTimeout u s = _
  rw [execParkTileTimeout, hu]
  dsimp only
  rw [hk, hp]

theorem execReviveTileTimeout_of {r i : Nat} (hk : v.kind = .reviveTile r i) : exec (.reviveTileTimeout u) s =
    .next ((s.dropUnit k v).stage (s.reviveFailEffects r .eTimeout) v.session) := by
  show execReviveTileTimeout u s = _
  rw [execReviveTileTimeout, hu]
  dsimp only
  rw [hk, hp]

theorem execChkptTileTimeout_of {i : Nat} (hk : v.kind = .chkptTile i) : exec (.chkptTileTimeout u) s =
    .next ((s.dropUnit k v).stage (s.chkptGiveUp .eTimeout)) := by
  show execChkptTileTimeout u s = _
  rw [execChkptTileTimeout, hu]
  dsimp only
  rw [hk, hp]
end
end Sys2Proof.Machine

open Sys2Proof Sys2Proof.Machine

/-- Settles O43: a tile that does not pause finishes on a state that differs in notes alone; then each owner's failure. -/
theorem tileUnits : Obligations.TileUnits :=
  ⟨fun _ _ _ _ _ hr hp => ⟨fun _ _ hk he => execParkTile_finishes hr hp hk he, fun _ _ hk he => execReviveTile_finishes hr hp hk he,
    fun _ hk he => execChkptTile_finishes hr hp hk he, fun _ _ _ _ hk hm hb => execReshardTile_finishes hr hp hk hm hb⟩,
  fun _ _ _ _ hu hp => ⟨fun _ _ hk => execParkTileTimeout_of hu hp hk, fun _ _ hk => execReviveTileTimeout_of hu hp hk,
    fun _ hk => execChkptTileTimeout_of hu hp hk⟩⟩
end

/-! PROOFS. Deadlines of a handoff. -/
section
namespace Sys2Proof.Machine

/-! ### The source's deadline (R189) -/

theorem execHandoffOfferDeadline_of {s : State} {h : Word64} {x : HandoffSrc} {d : Nat} (hx : Tb.get s.ss.srcs h.toNat = some x)
    (hd : x.deadlineUs = some d) (hr : x.restored = false) (hv : x.reverted = false) (ha : x.aborted = none)
    (hp : s.pointReached d = true) : exec (.handoffOfferDeadline h) s =
    .next (s.updSrc h.toNat fun x => { x with aborted := some Status.eTimeout.code }) := by
  show execHandoffOfferDeadline h s = _
  unfold execHandoffOfferDeadline
  rw [hx]
  dsimp only
  rw [hd]
  exact if_neg (by rw [hr, hv, ha, hp]; exact Bool.false_ne_true)

/-! ### The destination's deadlines (R191) -/

section
variable {s : State} {h : Word64} {x : HandoffDst} (hx : Tb.get s.ss.dsts h.toNat = some x) (ho : x.owned = false)
include hx ho

theorem execHandoffAcceptDeadline_of {d : Nat} (hd : x.deadlineUs = some d) (hp : s.pointReached d = true) :
    exec (.handoffAcceptDeadline h) s = .next ((s.updDst h.toNat fun x =>
      { x with deadlineUs := none, nextQueryUs := some (s.nextPoint + 10000) }).stage [s.ownerAsk h.toNat] x.session) := by
  show execHandoffAcceptDeadline h s = _
  unfold execHandoffAcceptDeadline
  rw [hx]
  dsimp only
  rw [hd]
  exact if_neg (by rw [ho, hp]; exact Bool.false_ne_true)

theorem execOwnerQueryRetry_dst {d : Nat} (hq : x.nextQueryUs = some d) (hd : x.deadlineUs = none) (hp : s.pointReached d = true) :
    exec (.ownerQueryRetry h) s = .next ((s.updDst h.toNat fun x =>
      { x with nextQueryUs := some (s.nextPoint + 10000) }).stage [s.ownerAsk h.toNat] x.session) := by
  show execOwnerQueryRetry h s = _
  unfold execOwnerQueryRetry
  rw [hx]
  dsimp only
  rw [hq]
  exact if_neg (by rw [ho, hd, hp]; exact Bool.false_ne_true)

theorem execHandoffSettleTimeout_of {c : Nat} (hc : x.cmd = some c) (hs : x.session.isSome = true) (hb : x.by_ = none)
    (ha : x.aborted = none) (hp : s.pointReached x.settleUs = true) : exec (.handoffSettleTimeout h) s =
    .next ((s.updDst h.toNat fun x => { x with cmd := none }).stage [.complete c .eTimeout []] x.session) := by
  show execHandoffSettleTimeout h s = _
  unfold execHandoffSettleTimeout
  rw [hx]
  dsimp only
  rw [hc]
  exact if_neg (by rw [ho, ← Option.not_isSome, hs, hb, ha, hp]; exact Bool.false_ne_true)
end

/-! ### A source restored from a reel (R192) -/

theorem execOwnerQueryRetry_src {s : State} {h : Word64} {x : HandoffSrc} {d : Nat} (hn : Tb.get s.ss.dsts h.toNat = none)
    (hx : Tb.get s.ss.srcs h.toNat = some x) (hd : x.deadlineUs = some d) (hr : x.restored = true) (hv : x.reverted = false)
    (hp : s.pointReached d = true) : exec (.ownerQueryRetry h) s = .next ((s.updSrc h.toNat fun x =>
      { x with deadlineUs := some (s.nextPoint + 10000) }).stage [s.ownerAsk h.toNat] (some x.session)) := by
  show execOwnerQueryRetry h s = _
  unfold execOwnerQueryRetry
  rw [hn, hx]
  dsimp only
  rw [hd]
  exact if_neg (by rw [hr, hv, hp]; exact Bool.false_ne_true)
end Sys2Proof.Machine

open Sys2Proof Sys2Proof.Machine

/-- Settles O47: each deadline that the coming commit point reaches does its one change, the guards of the others being off. -/
theorem handoffDeadlines : Obligations.HandoffDeadlines :=
  ⟨fun _ _ _ _ hx hd hr hv ha hp => execHandoffOfferDeadline_of hx hd hr hv ha hp,
    fun _ _ _ _ hx hd ho hp => execHandoffAcceptDeadline_of hx ho hd hp,
    fun _ _ _ _ hx hq ho hd hp => execOwnerQueryRetry_dst hx ho hq hd hp,
    fun _ _ _ _ hn hx hd hr hv hp => execOwnerQueryRetry_src hn hx hd hr hv hp,
    fun _ _ _ _ hx hc ho hs hb ha hp => execHandoffSettleTimeout_of hx ho hc hs hb ha hp⟩
end

/-! PROOFS. Messages of a handoff. -/
section
namespace Sys2Proof.Machine

/-! ### What every message does (R188, R260) -/

/-- A message kept as the last of handoff `id`. -/
def State.heard (s : State) (id : Nat) (b : Bytes) : State := { s with ss.lastMsg := Tb.set s.ss.lastMsg id b }

/-- A destination record that is there from this source and without a session, or made now, is from this source and without a session. -/
theorem HandoffDst.getD_fresh {o : Option HandoffDst} {src : Nat} (h : ∀ d, o = some d → d.src = src ∧ d.session = none) :
    (o.getD (HandoffDst.fresh src)).src = src ∧ (o.getD (HandoffDst.fresh src)).session = none := by
  cases o with
  | none => exact ⟨rfl, rfl⟩
  | some d => exact h d rfl

/-- A device outside a group tells no other member. -/
theorem State.passOn_alone {s : State} (h : s.grp.n ≤ 1) (src : Word64) (b : Bytes) : s.passOn src b = s :=
  if_pos (by rw [decide_eq_true h, Bool.true_or])

theorem State.fromPeer_of {s : State} {src : Word64} {peer : Nat} (h : peer = src.toNat) : s.fromPeer src peer = true := by
  rw [State.fromPeer, decide_eq_true h.symm, Bool.true_or]

section
variable {s : State} {src : Word64} {msg : BitVec 1024} {id : Nat} (ht : s.ticking = true)
  (hi : fieldAt (msgBytes msg) 8 8 = id) (h0 : id ≠ 0)
include ht hi h0

/-- A message of its type is kept as the last of its handoff; then `f` says what it does. -/
theorem State.handoffIn_of {ty : Nat} (hty : fieldAt (msgBytes msg) 0 1 = ty) (f : State → Bytes → Nat → State) :
    s.handoffIn ty msg f = .next (f (s.heard id (msgBytes msg)) (msgBytes msg) id) := by
  subst hi
  exact if_neg (by simp [ht, hty, h0])

/-! ### Messages to the destination (R190, R191) -/

theorem execOffer_of (hty : fieldAt (msgBytes msg) 0 1 = 1)
    (hd : ∀ d, Tb.get s.ss.dsts id = some d → d.src = src.toNat ∧ d.session = none) :
    exec (.offer src msg) s = .next (({ s.heard id (msgBytes msg) with
      ss.dsts := Tb.set s.ss.dsts id
        { (Tb.get s.ss.dsts id).getD (HandoffDst.fresh src.toNat) with offer := msgBytes msg } } : State).stage
      [.event 0xE001 (toLE 8 id ++ toLE 8 src.toNat)]) := by
  obtain ⟨hsrc, hses⟩ := HandoffDst.getD_fresh hd
  show execOffer src msg s = _
  rw [execOffer, State.handoffIn_of ht hi h0 hty]
  refine congrArg Host.Outcome.next (if_neg ?_)
  exact or_ne_true (decide_eq_false (not_not_intro hsrc)) (by rw [show (s.heard id (msgBytes msg)).ss.dsts = s.ss.dsts from rfl, hses]; rfl)

section
variable {d : HandoffDst} (hd : Tb.get s.ss.dsts id = some d) (hsrc : d.src = src.toNat) (ho : d.owned = false)
  (hs : d.session.isSome = true)
include hd hsrc ho hs

theorem execHandoffMsgCommit_of (hty : fieldAt (msgBytes msg) 0 1 = 3) : exec (.handoffMsgCommit src msg) s =
    .next ((s.heard id (msgBytes msg)).updDst id fun d => { d with by_ := some 0 }) := by
  have hd' : Tb.get (s.heard id (msgBytes msg)).ss.dsts id = some d := hd
  show execHandoffMsgCommit src msg s = _
  rw [execHandoffMsgCommit, State.handoffIn_of ht hi h0 hty]
  refine congrArg Host.Outcome.next ?_
  rw [hd']
  exact if_pos (by rw [hsrc, hs, ho]; simp)

theorem execHandoffMsgAbort_dst (hty : fieldAt (msgBytes msg) 0 1 = 4) (hn : Tb.get s.ss.srcs id = none) :
    exec (.handoffMsgAbort src msg) s = .next ((s.heard id (msgBytes msg)).updDst id fun d =>
      { d with aborted := some (fieldAt (msgBytes msg) 1 1) }) := by
  have hd' : Tb.get (s.heard id (msgBytes msg)).ss.dsts id = some d := hd
  have hn' : Tb.get (s.heard id (msgBytes msg)).ss.srcs id = none := hn
  show execHandoffMsgAbort src msg s = _
  rw [execHandoffMsgAbort, State.handoffIn_of ht hi h0 hty]
  refine congrArg Host.Outcome.next ?_
  dsimp only
  rw [hd', hn']
  dsimp only
  rw [if_neg (or_ne_true (decide_eq_false (not_not_intro hsrc)) ho), if_pos hs]

/-- An answer to a query (R191) that no QUERY_OWNER command waits for. -/
theorem execOwnerReply_of (hty : fieldAt (msgBytes msg) 0 1 = 6) : exec (.ownerReply src msg) s =
    .next ((s.heard id (msgBytes msg)).ownerAnswer id (fieldAt (msgBytes msg) 1 1) d) := by
  have hd' : Tb.get (s.heard id (msgBytes msg)).ss.dsts id = some d := hd
  show execOwnerReply src msg s = _
  rw [execOwnerReply, State.handoffIn_of ht hi h0 hty]
  refine congrArg Host.Outcome.next ?_
  dsimp only
  rw [hd']
  exact if_pos (by rw [hsrc, hs, ho]; simp)
end

/-! ### Messages to the source (R189) -/

section
variable {h : HandoffSrc} (hh : Tb.get s.ss.srcs id = some h) (hdst : h.dst = src.toNat) (hv : h.reverted = false)
  (hg : s.grp.n ≤ 1)
include hh hdst hv hg

theorem execAccept_of (hty : fieldAt (msgBytes msg) 0 1 = 2) : exec (.accept src msg) s =
    .next ((s.heard id (msgBytes msg)).updSrc id fun h => { h with accepted := some (fieldAt (msgBytes msg) 24 8) }) := by
  have hh' : Tb.get (s.heard id (msgBytes msg)).ss.srcs id = some h := hh
  show execAccept src msg s = _
  rw [execAccept, State.handoffIn_of ht hi h0 hty]
  refine congrArg Host.Outcome.next ?_
  rw [hh']
  dsimp only
  rw [State.fromPeer_of hdst, hv]
  exact (if_neg Bool.false_ne_true).trans ((if_neg Bool.false_ne_true).trans (State.passOn_alone (by exact hg) _ _))

theorem execHandoffMsgAbort_src (hty : fieldAt (msgBytes msg) 0 1 = 4) (hn : Tb.get s.ss.dsts id = none) :
    exec (.handoffMsgAbort src msg) s = .next ((s.heard id (msgBytes msg)).updSrc id fun h =>
      { h with aborted := some (fieldAt (msgBytes msg) 1 1) }) := by
  have hh' : Tb.get (s.heard id (msgBytes msg)).ss.srcs id = some h := hh
  have hn' : Tb.get (s.heard id (msgBytes msg)).ss.dsts id = none := hn
  show execHandoffMsgAbort src msg s = _
  rw [execHandoffMsgAbort, State.handoffIn_of ht hi h0 hty]
  refine congrArg Host.Outcome.next ?_
  dsimp only
  rw [hh', hn']
  dsimp only
  rw [State.fromPeer_of hdst, hv]
  exact (if_pos rfl).trans (State.passOn_alone (by exact hg) _ _)
end

/-- A query is answered at the coming commit point (R189). -/
theorem execQueryOwnerMsg_of (hty : fieldAt (msgBytes msg) 0 1 = 5) : exec (.queryOwnerMsg src msg) s =
    .next ((s.heard id (msgBytes msg)).stage [.send (.device src.toNat)
      (.handoff (handoffMsg 6 0 id (fieldAt (msgBytes msg) 16 8) (fieldAt (msgBytes msg) 24 8) 0 0 0))]) := by
  show execQueryOwnerMsg src msg s = _
  rw [execQueryOwnerMsg, State.handoffIn_of ht hi h0 hty]
end

/-! ### Verdicts and tiles (R189 to R191) -/

section
variable {s : State} {id v : Nat} {d : HandoffDst} (ha : d.ask = none)
include ha

theorem State.ownerAnswer_gives (hv : v = 1) :
    s.ownerAnswer id v d = s.updDst id fun d => { d with by_ := some (d.by_.getD 1) } := by
  rw [State.ownerAnswer, ha]
  exact if_pos hv

theorem State.ownerAnswer_ends (hv : v = 0 ∨ v = 2) :
    s.ownerAnswer id v d = s.updDst id fun d => { d with aborted := some Status.eTimeout.code } := by
  have h1 : v ≠ 1 := by omega
  rw [State.ownerAnswer, ha]
  exact (if_neg h1).trans (if_pos (by simpa using hv))
end

theorem execHankTile_of {s : State} {src h : Word64} {data : Bytes} (tile : Nat) (ht : s.ticking = true) (hl : data.length = 65536)
    (hd : ∀ d, Tb.get s.ss.dsts h.toNat = some d → d.src = src.toNat ∧ d.session = none) :
    exec (.hankTile src h tile data) s = .next { s with
      ss.dsts := Tb.set s.ss.dsts h.toNat { (Tb.get s.ss.dsts h.toNat).getD (HandoffDst.fresh src.toNat) with
        tiles := Tb.set ((Tb.get s.ss.dsts h.toNat).getD (HandoffDst.fresh src.toNat)).tiles tile data } } := by
  obtain ⟨hsrc, hses⟩ := HandoffDst.getD_fresh hd
  exact if_neg (by simp [ht, hsrc, hses, hl])
end Sys2Proof.Machine

open Sys2Proof Sys2Proof.Machine

/-- Settles O48: a message of its type is kept and then does its own change; a tile joins a record that waits or is made now. -/
theorem handoffMessages : Obligations.HandoffMessages := by
  refine ⟨fun s src msg id ht hi h0 => ⟨fun hty hd => execOffer_of ht hi h0 hty hd,
    fun hty h hh hdst hv hg => execAccept_of ht hi h0 hh hdst hv hg hty,
    fun hty d hd hsrc hs ho => execHandoffMsgCommit_of ht hi h0 hd hsrc ho hs hty,
    fun hty hn d hd hsrc ho hs => execHandoffMsgAbort_dst ht hi h0 hd hsrc ho hs hty hn,
    fun hty hn h hh hdst hv hg => execHandoffMsgAbort_src ht hi h0 hh hdst hv hg hty hn,
    fun hty => execQueryOwnerMsg_of ht hi h0 hty,
    fun hty d hd hsrc hs ho ha => ?reply⟩,
    fun s src h tile data ht hl hd => execHankTile_of tile ht hl hd⟩
  case reply =>
    have hr := execOwnerReply_of ht hi h0 hd hsrc ho hs hty
    exact ⟨fun hv => by rw [hr, State.ownerAnswer_gives ha hv]; rfl, fun hv => by rw [hr, State.ownerAnswer_ends ha hv]; rfl⟩
end

/-! PROOFS. SESSION_CREATE, SESSION_DESTROY, PARK and REVIVE. -/
section
namespace Sys2Proof.Machine

/-! ### Their checks (R171, R172, R183, R185) -/

/-- `checked_bind` as a lemma to rewrite by: by definition alone, the kernel would compare the checks before and after the step,
and evaluate what an energy check estimates. -/
theorem checked_ok_bind {α β : Type} (a : α) (f : α → Checked β) : ((Except.ok a : Checked α) >>= f) = f a := (rfl)

/-- Neither an IDLE nor a BUSY session is PARKING. -/
theorem State.not_parking_of_copyState {v : State} {y : Session} (h : v.copyState y = true) : (y.state != .parking) = true := by
  unfold State.copyState at h
  rw [bne_iff_ne]
  intro e
  simp [e] at h

section
variable {s : State} {m : Fin 64} {c : Cmd} {i : Nat}

/-- SESSION_CREATE's own part where the tenant may have one more session. -/
theorem State.createSession_ok {v : State} {tenant psize : Nat} {model : Digest} {t : Tenant} {mdl : Nat × Model} (seed : BitVec 128)
    (ht : Tb.get v.ten.tenants tenant = some t) (hp : psize ∈ [16, 32, 64, 128]) (hm : v.activeModel model tenant = .ok mdl)
    (hn : v.sessionsOf tenant < t.sessions) (hi : v.freeIndex = some i) (hg : v.grants tenant (v.segmentCharge i) = true) :
    v.createSession tenant psize model seed = .ok (handleOf i (v.genOf i),
      [.sessCreate i (freshSession (v.genOf i) tenant psize v.ten.map.epoch model seed),
       .spool i 0x01 0 (payOpen (handleOf i (v.genOf i)) tenant psize 0 seed model mdl.2.hdr.vocabDigest)]) := by
  simp only [State.createSession, ht, want_some, List.contains_iff_mem.mpr hp, hm, hn, hi, hg, decide_true, must_true, checked_bind]
  rfl

theorem checkSessionCreate_ok {b : Bytes} {t : Tenant} {mdl : Nat × Model} (hf : fld c 8 1 ≤ 63) (ha : fld c 16 8 % 16 = 0)
    (hb : (s.given m c).rd .port0 (fld c 16 8) 64 = some b) (hz : (s.given m c).flag 0 = true ∨ zeroAt b 48 16 = true)
    (ht : Tb.get (s.sees m c).ten.tenants (fld c 8 1) = some t) (hr : (s.sees m c).routeOf (fld c 8 1) = some m.val)
    (hp : fld c 9 1 ∈ [16, 32, 64, 128]) (hm : (s.sees m c).activeModel (digestOf (b.take 48)) (fld c 8 1) = .ok mdl)
    (hn : (s.sees m c).sessionsOf (fld c 8 1) < t.sessions) (hi : (s.sees m c).freeIndex = some i)
    (hg : (s.sees m c).grants (fld c 8 1) ((s.sees m c).segmentCharge i) = true) :
    ∃ seed : BitVec 128, ((s.given m c).flag 0 = true → seed = BitVec.ofNat 128 (beNat (sliceAt b 48 16))) ∧
      checkSessionCreate (s.sees m c) (s.given m c) = .ok
        [.sessCreate i (freshSession ((s.sees m c).genOf i) (fld c 8 1) (fld c 9 1) (s.sees m c).ten.map.epoch
          (digestOf (b.take 48)) seed),
         .spool i 0x01 0 (payOpen (handleOf i ((s.sees m c).genOf i)) (fld c 8 1) (fld c 9 1) 0 seed
          (digestOf (b.take 48)) mdl.2.hdr.vocabDigest),
         .complete s.nextCmd .ok (toLE 8 (handleOf i ((s.sees m c).genOf i)))] := by
  refine ⟨if (s.given m c).flag 0 then BitVec.ofNat 128 (beNat (sliceAt b 48 16)) else (s.given m c).draw.truncate 128,
    fun h => if_pos h, ?_⟩
  have ht' : Tb.has (s.sees m c).ten.tenants (fld c 8 1) = true := Option.isSome_of_eq_some ht
  simp only [checkSessionCreate, State.given_f, hf, ha, Ctx.read_of hb, Bool.or_eq_true_iff.mpr hz, ht',
    State.routed_of (x := s.given m c) hr, State.createSession_ok _ ht hp hm hn hi hg, decide_true, Bool.and_self, must_true,
    checked_bind, State.given_done]
  rfl

section
variable {y : Session} (hs : (s.sees m c).sessOf (fld c 8 8) = some (i, y)) (hr : (s.sees m c).routeOf y.tenant = some m.val)
include hs hr

theorem checkSessionDestroy_ok (hst : y.state = .idle ∨ y.state = .parked ∨ y.state = .gone) :
    checkSessionDestroy (s.sees m c) (s.given m c) = .ok [.sessDestroy i, .complete s.nextCmd .ok []] := by
  have hd : destroyable y.state = .ok () := by
    rcases hst with e | e | e <;> rw [e] <;> rfl
  simp only [checkSessionDestroy, State.given_f, State.handle_of hs, State.routed_of (x := s.given m c) hr, hd, checked_bind,
    State.given_done]
  rfl

theorem checkPark_ok {p : ParkStore} (hfl : fld c 16 1 ≤ 1) (ha : fld c 40 8 % 16 = 0) (hl : fld c 32 8 ≠ 0)
    (hp : Tb.get (s.sees m c).ten.map.stores (fld c 17 1) = some p) (hmask : p.mask.getLsbD y.tenant = true)
    (ho : fld c 24 8 % 65536 = 0) (hlen : fld c 24 8 + fld c 32 8 ≤ p.len) (hc : (s.sees m c).copying i = false)
    (hst : (s.sees m c).copyState y = true) (he : (s.sees m c).energyOk (.parkTile 0 0) 65536 (some y.tenant) = true) :
    checkPark (s.sees m c) (s.given m c) = .ok
      (.spool i 0x0E 0 (payPark (s.sees m c).ss.nextHank (fld c 16 1) (fld c 17 1) (fld c 24 8)) ::
        ((if (s.given m c).flag 0 then [] else [.sessState i .parking]) ++
        [Effect.copyStart (newCopy i (.park (fld c 17 1) (fld c 24 8) (fld c 40 8) .port0 ((s.given m c).flag 0))
          (s.given m c).cmd (fld c 16 1 = 1) (fld c 32 8) (s.sees m c).ss.nextHank)])) := by
  simp only [checkPark, State.given_f, hfl, ha, hl, State.handle_of hs, State.routed_of (x := s.given m c) hr, hp, hmask, ho, hlen, hc,
    hst, he, State.not_parking_of_copyState hst, want_some, ne_eq, not_false_eq_true, Bool.not_false, decide_true, Bool.and_self,
    must_true, checked_ok_bind]
  exact congrArg Except.ok (List.append_assoc _ _ _)
end
end

/-- What REVIVE orders where its checks pass: a revival from the store, the offset and with the slice that it names. -/
theorem checkRevive_ok {v : State} {x : Ctx} {effs : List Effect} (h : checkRevive v x = .ok effs) :
    ∃ r : Revival, effs = [.reviveStart r] ∧ r.cmd = x.cmd ∧ r.store = x.f 16 1 ∧ r.offset = x.f 24 8 ∧ r.slice = x.f 20 2 ∧
      r.fresh = decide (x.f 8 8 = 0) := by
  simp only [checkRevive, checked_ite_bind, checked_bind_iff, must_ok_iff, exists_const] at h
  obtain ⟨-, own, hown, -, _, -, st, -, -, -, hdr, -, k, -, idx, -, res, -, -, h⟩ := h
  refine ⟨_, (Except.ok.inj h).symm, rfl, rfl, rfl, rfl, ?_⟩
  split at hown
  · next h0 => rw [← Except.ok.inj hown, decide_eq_true h0, Option.isNone_none]
  · next h0 =>
    cases hs : v.handle (x.f 8 8) with
    | error e => rw [hs] at hown; cases hown
    | ok e =>
      rw [hs] at hown
      rw [← Except.ok.inj hown, decide_eq_false h0, Option.isNone_some]

/-! ### What their effects do (R167, R171, R172, R181, R183, R185) -/

theorem Tb.has_eq {α : Type} (t : Tbl α) (k : Nat) : Tb.has t k = (Tb.get t k).isSome := rfl

theorem Tb.has_upd {α : Type} (t : Tbl α) (k : Nat) (f : α → α) (a : Nat) : Tb.has (Tb.upd t k f) a = Tb.has t a := by
  rw [Tb.has_eq, Tb.get_upd, Tb.has_eq]
  split
  · exact Option.isSome_map
  · rfl

/-- A destroyed session's index is free. -/
theorem State.destroySession_free (s : State) (i : Nat) : Tb.get (s.destroySession i).ss.sessions i = none := by
  unfold State.destroySession
  split
  · assumption
  · exact (Tb.get_del _ i i).trans (if_pos rfl)

/-- Suspending a hold writes the request table alone. -/
theorem State.suspendStall_frame (s : State) (i : Nat) : ∃ r, s.suspendStall i = { s with ss.reqs := r } := by
  unfold State.suspendStall
  split <;> exact ⟨_, rfl⟩

theorem State.setSessState_session {s : State} {i : Nat} {y : Session} (hy : Tb.get s.ss.sessions i = some y) (u : SessState) :
    (s.setSessState i u).sessionIs i fun z => z.state = u ∧ z.hist = y.hist ∧ z.spool = y.spool := by
  obtain ⟨r, e⟩ := s.suspendStall_frame i
  unfold State.setSessState
  rw [e]
  refine State.sessionIs_updSess_self (y := y) ?_ ⟨rfl, rfl, rfl⟩
  split <;> exact hy

theorem foldl_refPage_ss {α : Type} (p : α → Nat) (l : List α) (s : State) : (l.foldl (fun s a => s.refPage (p a)) s).ss = s.ss :=
  foldl_holds (fun t => t.ss = s.ss) (fun s a => s.refPage (p a)) (fun _ _ h => h) l s rfl

theorem foldl_addUnit_ss {α : Type} (k : α → UnitKind) (tenant session : Option Nat) (size stamp : Nat) (group : Bool) (l : List α)
    (s : State) : (l.foldl (fun s a => s.addUnit (k a) tenant session size stamp group) s).ss = s.ss :=
  foldl_holds (fun t => t.ss = s.ss) (fun s a => s.addUnit (k a) tenant session size stamp group) (fun _ _ h => h) l s rfl

theorem State.updCopy_has (s : State) (c : Nat) (f : Copy → Copy) (j : Nat) :
    Tb.has (s.updCopy c f).ss.copies j = Tb.has s.ss.copies j :=
  Tb.has_upd _ _ _ _

theorem State.fillCopy_has (s : State) (c : Nat) (key : Bytes) (tr : Bool) (slot gen handoff stamp j : Nat) :
    Tb.has (s.fillCopy c key tr slot gen handoff stamp).ss.copies j = Tb.has s.ss.copies j := by
  unfold State.fillCopy
  split
  · rfl
  · split
    · rfl
    · dsimp only
      rw [foldl_addUnit_ss]
      exact s.updCopy_has _ _ _

/-- A copy that is taken stays in the table. -/
theorem State.takeCopy_has (s : State) (c stamp j : Nat) : Tb.has (s.takeCopy c stamp).ss.copies j = Tb.has s.ss.copies j := by
  unfold State.takeCopy
  split
  · rfl
  · split
    · rfl
    · extract_lets content pages referred taken
      have htaken : Tb.has taken.ss.copies j = Tb.has s.ss.copies j :=
        (State.updCopy_has _ _ _ _).trans (congrArg (fun ss : SessSt => Tb.has ss.copies j) (foldl_refPage_ss ..))
      split
      · exact htaken
      · exact htaken
      · split
        · exact (State.fillCopy_has ..).trans htaken
        · exact htaken

/-- A copy that is ordered is under way. -/
theorem State.startCopy_has {s : State} {k : Copy} {y : Session} (hy : Tb.get s.ss.sessions k.session = some y) (stamp : Nat) :
    Tb.has (s.startCopy k stamp).ss.copies s.ss.nextCopy = true := by
  have hset (k' : Copy) : Tb.has (Tb.set s.ss.copies s.ss.nextCopy k') s.ss.nextCopy = true :=
    Option.isSome_of_eq_some (Tb.get_set_same _ _ _)
  unfold State.startCopy
  rw [hy]
  dsimp only
  split
  · exact hset _
  · exact hset _
  · exact (State.takeCopy_has ..).trans (hset _)

/-- A revival that starts is in its table, and its session is REVIVING. -/
theorem State.startRevival_reviving (s : State) (r : Revival) (stamp : Nat) :
    Tb.get (s.startRevival r stamp).ss.revivals s.ss.nextRev = some r ∧
      (s.startRevival r stamp).sessionIs r.session (·.state = .reviving) := by
  unfold State.startRevival
  extract_lets tenant gen fresh x k ss started
  have hx : x.state = .reviving := by
    unfold x
    split <;> rfl
  have hss := foldl_addUnit_ss (UnitKind.reviveTile k) (some x.tenant) (some r.session) 65536 stamp false
    (revivalTiles r.header r.recompute) started
  rw [State.sessionIs, hss]
  exact ⟨Tb.get_set_same _ _ _, x, Tb.get_set_same _ _ _, hx⟩

theorem State.applyPlain_sessCreate (s : State) (i : Nat) (y : Session) (st : Nat) : s.applyPlain (.sessCreate i y) st =
    { s with ss.sessions := Tb.set s.ss.sessions i y, ss.gens := Tb.set s.ss.gens i y.gen } := rfl

theorem State.applyPlain_sessDestroy (s : State) (i st : Nat) : s.applyPlain (.sessDestroy i) st = s.destroySession i := rfl

theorem State.applyPlain_sessState (s : State) (i : Nat) (u : SessState) (st : Nat) :
    s.applyPlain (.sessState i u) st = s.setSessState i u := rfl

theorem State.applyPlain_copyStart (s : State) (k : Copy) (st : Nat) : s.applyPlain (.copyStart k) st = s.startCopy k st := rfl

theorem State.applyPlain_reviveStart (s : State) (r : Revival) (st : Nat) :
    s.applyPlain (.reviveStart r) st = s.startRevival r st := rfl
end Sys2Proof.Machine

open Sys2Proof Sys2Proof.Machine

/-- Settles O16: each command's checks under its conditions, REVIVE's read backwards from its answer; then each effect. -/
theorem sessionCommands : Obligations.SessionCommands := by
  refine ⟨fun s m c b t mdl i hs hf ha hb hz ht hr hp hm hn hi hg => ?create,
    fun s m c i y hs hy hr hst => hostCommand_takes_of hs (checkSessionDestroy_ok hy hr hst),
    fun s m c i y p hs hfl ha hl hy hr hp hmask ho hlen hc hst he =>
      hostCommand_takes_of hs (checkPark_ok hy hr hfl ha hl hp hmask ho hlen hc hst he),
    fun s m c hs => ⟨State.hostCommand_serves s m c _ hs, fun effs he => ⟨hostCommand_takes_of hs he, checkRevive_ok he⟩⟩,
    fun t st => ⟨fun i y => ?created, fun i => ?destroyed, fun i y u hy => ?stateSet, fun k y hy => ?ordered, fun r => ?reviving⟩⟩
  case create =>
    obtain ⟨seed, hseed, hok⟩ := checkSessionCreate_ok hf ha hb hz ht hr hp hm hn hi hg
    exact ⟨seed, hseed, hostCommand_takes_of hs hok⟩
  case created => rw [State.applyPlain_sessCreate, Tb.get_set_same]
  case destroyed => rw [State.applyPlain_sessDestroy, State.destroySession_free]
  case stateSet =>
    rw [State.applyPlain_sessState]
    exact State.setSessState_session hy u
  case ordered => rw [State.applyPlain_copyStart, State.startCopy_has hy]
  case reviving =>
    rw [State.applyPlain_reviveStart]
    exact t.startRevival_reviving r st
end

/-! PROOFS. HANDOFF_OFFER, HANDOFF_COMMIT, QUERY_OWNER and ADOPT. -/
section
namespace Sys2Proof.Machine

/-! ### Their checks (R189 to R192) -/

section
variable {s : State} {m : Fin 64} {c : Cmd}

theorem checkHandoffOffer_ok {i : Nat} {y : Session} (hf : fld c 24 1 ≤ 1) (hlo : 10 ≤ fld c 28 4) (hhi : fld c 28 4 ≤ 60000)
    (hs : (s.sees m c).sessOf (fld c 8 8) = some (i, y)) (hr : (s.sees m c).routeOf y.tenant = some m.val) (hno : y.state ≠ .offered)
    (hc : (s.sees m c).copying i = false) (hst : (s.sees m c).copyState y = true ∨ y.state = .parked)
    (hq : (s.sees m c).copyFits y = true) (he : (s.sees m c).energyOk (.parkTile 0 0) 65536 (some y.tenant) = true)
    (hroom : (s.sees m c).slotRoom = true) :
    checkHandoffOffer (s.sees m c) (s.given m c) = .ok
      [.handoffOffer (s.sees m c).ss.nextHandoff { session := i, dst := fld c 16 8, timeoutMs := fld c 28 4
                                                   cmd := (s.given m c).cmd, deadlineUs := none, accepted := none, aborted := none
                                                   restored := false, reverted := false, full := decide (fld c 24 1 = 1)
                                                   was := (0, 0) },
       .copyStart (newCopy i (.handoff (s.sees m c).ss.nextHandoff) none (decide (fld c 24 1 = 1)) 0 (s.sees m c).ss.nextHank)] := by
  have hst' : ((s.sees m c).copyState y || y.state == .parked) = true := by simpa using hst
  simp only [checkHandoffOffer, State.given_f, hf, hlo, hhi, State.handle_of hs, State.routed_of (x := s.given m c) hr,
    bne_iff_ne.mpr hno, hc, hst', hq, he, hroom, Bool.not_false, decide_true, Bool.and_self, must_true, checked_ok_bind]
  rfl

section
variable {d : HandoffDst} (hm : fld c 16 1 ≤ 63) (hv : fld c 17 1 ≤ 1) (hd : Tb.get (s.sees m c).ss.dsts (fld c 8 8) = some d)
  (ho : d.offer ≠ []) (hs : d.session = none) (hn : d.owned = false)
include hm hv hd ho hs hn

/-- Once the handoff is one that can be decided, HANDOFF_COMMIT refuses it, or goes by its verification. -/
theorem checkHandoffCommit_eq : checkHandoffCommit (s.sees m c) (s.given m c) = .ok (
    if fld c 17 1 = 1 then [d.abortMsg (fld c 8 8) ((s.given m c).draw.toNat % 16), .handoffRefuse (fld c 8 8) s.nextCmd .ok,
      .complete s.nextCmd .ok []]
    else match (s.sees m c).verifyOffer (s.given m c) (fld c 8 8) d with
      | .error e => [d.abortMsg (fld c 8 8) e.1.code, .handoffRefuse (fld c 8 8) s.nextCmd e.1, .complete s.nextCmd e.1 []]
      | .ok r => [.handoffAccept (fld c 8 8) (fld c 16 1) r,
          .send (.device d.src) (.handoff (handoffMsg 2 0 (fld c 8 8) (fieldAt d.offer 16 8)
            (handleOf r.session ((s.sees m c).genOf r.session)) 0 0 0))]) := by
  have ho' : d.offer.isEmpty = false := List.isEmpty_eq_false_iff.mpr ho
  simp only [checkHandoffCommit, State.given_f, State.given_id, State.given_done, hm, hv, hd, ho', hs, hn, want_some,
    Option.isNone_none, Bool.not_false, decide_true, Bool.and_self, must_true, checked_bind]
  split
  · rfl
  · cases (s.sees m c).verifyOffer (s.given m c) (fld c 8 8) d <;> rfl
end

theorem checkQueryOwner_ok {d : HandoffDst} {i : Nat} {y : Session} (hd : Tb.get (s.sees m c).ss.dsts (fld c 8 8) = some d)
    (hi : d.session = some i) (hy : Tb.get (s.sees m c).ss.sessions i = some y) (hst : y.state = .accepting) :
    checkQueryOwner (s.sees m c) (s.given m c) =
      .ok [.ownerQuery (fld c 8 8) s.nextCmd, (s.sees m c).ownerAsk (fld c 8 8)] := by
  simp only [checkQueryOwner, State.given_f, State.given_id, hd, hi, hy, hst, want_some, Option.map_some, Option.getD_some,
    beq_self_eq_true, must_true, checked_bind]
  rfl
end

/-- ADOPT as destination gives the session to this device, by the handoff's record. -/
def State.adoptsHere (v : State) (x : Ctx) (i : Nat) (y : Session) (pay : Bytes) (effs : List Effect) : Prop :=
  x.f 24 1 = 0 ∧ y.state = .accepting ∧ ∃ d fin, Tb.get v.ss.dsts (x.f 16 8) = some d ∧
    effs = .ownNow (x.f 16 8) :: .spool i 0x11 0 (payAcquire (x.f 16 8) d.src (fieldAt d.offer 16 8) 2) ::
      .spool i 0x15 0 pay :: (fin ++ [x.done []])

/-- ADOPT as source takes the session back. -/
def Ctx.adoptsBack (x : Ctx) (i : Nat) (y : Session) (pay : Bytes) (effs : List Effect) : Prop :=
  x.f 24 1 = 1 ∧ y.state = .offered ∧ y.handoffId = x.f 16 8 ∧ ∃ fin,
    effs = .revert (x.f 16 8) :: .spool i 0x15 0 pay :: (fin ++ [x.done []])

/-- What ADOPT does where its checks pass: its role says which. -/
theorem checkAdopt_ok {v : State} {x : Ctx} {effs : List Effect} (h : checkAdopt v x = .ok effs) :
    ∃ i y pay, v.sessOf (x.f 8 8) = some (i, y) ∧ (v.adoptsHere x i y pay effs ∨ x.adoptsBack i y pay effs) := by
  simp only [checkAdopt, checked_bind_iff, must_ok_iff, exists_const, Bool.and_eq_true, decide_eq_true_eq] at h
  obtain ⟨⟨hrole, -⟩, r, -, ⟨i, y⟩, hs, _, -, h⟩ := h
  refine ⟨i, y, payAdopt (x.f 16 8) (x.f 24 1) (Sha.sha384 r), State.handle_ok_iff.mp hs, ?_⟩
  split at h
  · next h0 =>
    simp only [checked_bind_iff, must_ok_iff, want_ok_iff, exists_const, Bool.and_eq_true] at h
    obtain ⟨d, hd, ⟨hst, -⟩, _, -, -, -, h⟩ := h
    exact .inl ⟨h0, beq_iff_eq.mp hst, d, _, hd, (Except.ok.inj h).symm⟩
  · next h0 =>
    simp only [checked_bind_iff, must_ok_iff, want_ok_iff, exists_const, Bool.and_eq_true, decide_eq_true_eq] at h
    obtain ⟨_, -, ⟨hst, hid⟩, _, -, -, -, h⟩ := h
    exact .inr ⟨by omega, beq_iff_eq.mp hst, hid, _, (Except.ok.inj h).symm⟩

/-! ### What they do at the source (R189, R192) -/

theorem State.startTransport_ss (s : State) (k dst : Nat) : (s.startTransport k dst).ss = s.ss := (rfl)

/-- An offer is in the source's table, with what its session was before. -/
theorem State.startOffer_src (s : State) (k : Nat) (h : HandoffSrc) :
    ∃ u, Tb.get (s.startOffer k h).ss.srcs k = some { h with was := u } :=
  ⟨_, Tb.get_set_same _ _ _⟩

/-- A session that is offered goes on from the state that it had. -/
theorem State.startOffer_session {s : State} {h : HandoffSrc} {y : Session} (hy : Tb.get s.ss.sessions h.session = some y) (k : Nat) :
    (s.startOffer k h).sessionIs h.session fun z =>
      z.state = .offered ∧ z.handoffId = k ∧ z.peer = h.dst ∧ z.prior = y.state ∧ z.hist = y.hist := by
  obtain ⟨r, e⟩ := s.suspendStall_frame h.session
  have hsuspended : Tb.get (s.suspendStall h.session).ss.sessions h.session = some y := by
    rw [e]
    exact hy
  unfold State.startOffer
  extract_lets suspended was offered ss entered
  refine State.sessionIs_of_ss (s := entered) ?_ (entered.startTransport_ss k h.dst)
  show offered.sessionIs h.session _
  exact State.sessionIs_updSess_self hsuspended ⟨rfl, rfl, rfl, rfl, rfl⟩

theorem State.updSess_srcs (s : State) (i : Nat) (f : Session → Session) : (s.updSess i f).ss.srcs = s.ss.srcs := rfl

theorem State.updSrc_get {s : State} {k : Nat} {h : HandoffSrc} (hh : Tb.get s.ss.srcs k = some h) (f : HandoffSrc → HandoffSrc) :
    Tb.get (s.updSrc k f).ss.srcs k = some (f h) := by
  rw [State.updSrc, Tb.get_upd, if_pos rfl, hh, Option.map_some]

theorem State.backToPrior_srcs (s : State) (i : Nat) : (s.backToPrior i).ss.srcs = s.ss.srcs := by
  unfold State.backToPrior
  split
  · rfl
  · split <;> rfl

theorem State.dropCopy_srcs (s : State) (c : Nat) : (s.dropCopy c).ss.srcs = s.ss.srcs := by
  unfold State.dropCopy
  split
  · rfl
  · extract_lets unreferenced
    have hss : unreferenced.ss = s.ss := foldl_unrefPage_ss ..
    have hsrcs : unreferenced.ss.srcs = s.ss.srcs := by rw [hss]
    exact hsrcs

/-- An offer that is taken back stays in the table, to answer with verdict 0. -/
theorem State.revertOffer_reverted {s : State} {k : Nat} {h : HandoffSrc} (hh : Tb.get s.ss.srcs k = some h) :
    ∃ h', Tb.get (s.revertOffer k).ss.srcs k = some h' ∧ h'.reverted = true := by
  unfold State.revertOffer
  rw [hh]
  dsimp -zeta only
  extract_lets back dropped restored marked
  have hdropped : dropped.ss.srcs = s.ss.srcs :=
    foldl_holds (fun t => t.ss.srcs = s.ss.srcs) _ (fun t e ht => (t.dropCopy_srcs e.1).trans ht) _ _ (s.backToPrior_srcs _)
  have hrestored : Tb.get restored.ss.srcs k = some h := by rw [State.updSess_srcs, hdropped, hh]
  exact ⟨_, State.updSrc_get hrestored _, rfl⟩

/-! ### What they do at the destination (R190, R191, R192) -/

theorem State.updDst_get {s : State} {k : Nat} {d : HandoffDst} (hd : Tb.get s.ss.dsts k = some d) (f : HandoffDst → HandoffDst) :
    Tb.get (s.updDst k f).ss.dsts k = some (f d) := by
  rw [State.updDst, Tb.get_upd, if_pos rfl, hd, Option.map_some]

/-- A handoff that is refused is forgotten. -/
theorem State.freeAccepting_dst (s : State) (k : Nat) : Tb.get (s.freeAccepting k).ss.dsts k = none :=
  (Tb.get_del _ k k).trans (if_pos rfl)

theorem State.storeKv_dsts (s : State) (j dim : Nat) (kv : KvView) (n : Nat) : (s.storeKv j dim kv n).ss.dsts = s.ss.dsts := by
  unfold State.storeKv
  split
  · rfl
  · extract_lets layers stored map written
    have hstored : stored.2.ss = s.ss :=
      List.foldlRecOn (motive := fun p : List (Tbl Nat) × State => p.2.ss = s.ss) _ _ rfl
        fun p e l _ => (p.2.storeLayer_ss ..).trans e
    have hdsts : stored.2.ss.dsts = s.ss.dsts := by rw [hstored]
    exact hdsts

theorem State.attachRequest_dsts (s : State) (i : Nat) (keep : Bool) (rs : Bytes) (old : Option Session) :
    (s.attachRequest i keep rs old).ss.dsts = s.ss.dsts := by
  unfold State.attachRequest
  split
  · rfl
  · extract_lets back req drawn mb home counted g ss attached
    have hcounted : counted.ss.dsts = s.ss.dsts := by
      unfold counted
      split <;> rfl
    have hattached : attached.ss.dsts = s.ss.dsts := by
      unfold attached
      split
      · exact hcounted
      · rfl
    split
    · exact hattached
    · exact hattached

theorem State.suspendStall_dsts (s : State) (i : Nat) : (s.suspendStall i).ss.dsts = s.ss.dsts := by
  obtain ⟨r, e⟩ := s.suspendStall_frame i
  rw [e]

/-- A handoff that is accepted has its session, and the command that waits for its end. -/
theorem State.acceptHandoff_dst {s : State} {k : Nat} {d : HandoffDst} (hd : Tb.get s.ss.dsts k = some d) (n : Nat) {r : Revival}
    (hr : r.read (((s.modelOf (digestOf (sliceAt r.header 96 48))).map (·.2.arch.headDim)).getD 128)
      (((s.modelOf (digestOf (sliceAt r.header 96 48))).map (·.2.arch.kvHeads)).getD 1) ≠ none) :
    ∃ d', Tb.get (s.acceptHandoff k n r).ss.dsts k = some d' ∧ d'.session = some r.session ∧ d'.cmd = r.cmd ∧ d'.offer = d.offer := by
  obtain ⟨v, hv⟩ := Option.ne_none_iff_exists'.mp hr
  unfold State.acceptHandoff
  extract_lets a dim gen ss
  rw [hv, hd]
  dsimp -zeta only
  extract_lets standing x entered stored attached
  have hstored : stored.ss.dsts = s.ss.dsts := by
    unfold stored
    split
    · split
      · rfl
      · exact State.storeKv_dsts ..
    · rfl
  have hattached : Tb.get attached.ss.dsts k = some d := by
    rw [State.suspendStall_dsts, State.attachRequest_dsts, hstored, hd]
  exact ⟨_, State.updDst_get hattached _, rfl, rfl, rfl⟩

/-- A session that is acquired is IDLE, or BUSY with its request. -/
theorem State.ownSession_session {s : State} {k i : Nat} {d : HandoffDst} {y : Session} (hd : Tb.get s.ss.dsts k = some d)
    (hi : d.session = some i) (hy : Tb.get s.ss.sessions i = some y) :
    (s.ownSession k).sessionIs i (·.state = if y.reqId = 0 then .idle else .busy) := by
  have hback : (s.sessionBack i).sessionIs i (·.state = if y.reqId = 0 then .idle else .busy) :=
    State.sessionIs_updSess_self hy rfl
  unfold State.ownSession
  rw [hd, Option.bind_some, hi]
  dsimp only
  split
  · exact hback
  · exact hback

theorem State.applyPlain_handoffOffer (s : State) (k : Nat) (h : HandoffSrc) (st : Nat) :
    s.applyPlain (.handoffOffer k h) st = s.startOffer k h := rfl

theorem State.applyPlain_handoffRefuse (s : State) (k n : Nat) (x : Status) (st : Nat) :
    s.applyPlain (.handoffRefuse k n x) st = s.freeAccepting k := rfl

theorem State.applyPlain_handoffAccept (s : State) (k n : Nat) (r : Revival) (st : Nat) :
    s.applyPlain (.handoffAccept k n r) st = s.acceptHandoff k n r := rfl

theorem State.applyPlain_ownerQuery (s : State) (k n st : Nat) : s.applyPlain (.ownerQuery k n) st =
    s.updDst k fun d => { d with ask := some (n, s.timeUs + 100000) } := rfl

theorem State.applyPlain_ownNow (s : State) (k st : Nat) : s.applyPlain (.ownNow k) st = s.ownSession k := rfl

theorem State.applyPlain_revert (s : State) (k st : Nat) : s.applyPlain (.revert k) st = s.revertOffer k := rfl
end Sys2Proof.Machine

open Sys2Proof Sys2Proof.Machine

/-- Settles O17: each command's checks under its conditions, ADOPT's read backwards from its answer; then each effect. -/
theorem handoffCommands : Obligations.HandoffCommands := by
  refine ⟨fun s m c i y hs hf hlo hhi hy hr hno hc hst hq he hroom =>
      hostCommand_takes_of hs (checkHandoffOffer_ok hf hlo hhi hy hr hno hc hst hq he hroom),
    fun s m c d hs hm hv hd ho hn hw => ⟨fun h1 => ?refuse, fun h0 => ?accept⟩,
    fun s m c d i y hs hd hi hy hst => hostCommand_takes_of hs (checkQueryOwner_ok hd hi hy hst),
    fun s m c hs => ⟨State.hostCommand_serves s m c _ hs, fun effs he => ⟨hostCommand_takes_of hs he, checkAdopt_ok he⟩⟩,
    fun t st => ⟨fun k h => ?offered, fun k h y hy => ?offeredSession, fun k n x => ?refused, fun k r d hd n hr => ?accepted,
      fun k n d hd => ?asked, fun k d i y hd hi hy => ?owned, fun k h hh => ?reverted⟩⟩
  case refuse =>
    have h := checkHandoffCommit_eq hm hv hd ho hn hw
    rw [if_pos h1] at h
    exact ⟨_, Nat.mod_lt _ (by decide), hostCommand_takes_of hs h⟩
  case accept =>
    have h := checkHandoffCommit_eq hm hv hd ho hn hw
    rw [if_neg (by omega)] at h
    exact hostCommand_takes_of hs h
  case offered =>
    rw [State.applyPlain_handoffOffer]
    exact t.startOffer_src k h
  case offeredSession =>
    rw [State.applyPlain_handoffOffer]
    exact State.startOffer_session hy k
  case refused => rw [State.applyPlain_handoffRefuse, State.freeAccepting_dst]
  case accepted =>
    rw [State.applyPlain_handoffAccept]
    exact State.acceptHandoff_dst hd n hr
  case asked => rw [State.applyPlain_ownerQuery, State.updDst_get hd]
  case owned =>
    rw [State.applyPlain_ownNow]
    exact State.ownSession_session hd hi hy
  case reverted =>
    rw [State.applyPlain_revert]
    exact State.revertOffer_reverted hh
end

/-! PROOFS. What Steward does with a host command. -/
section
open Sys2Proof Sys2Proof.Machine

/-- Settles O10: a host command is served under its row with its row's checks; each case is one of those of serving. -/
theorem hostCommandOutcome : Obligations.HostCommandOutcome := by
  intro i m c op s hi
  obtain ⟨k, own, hk, hown, he⟩ := exec_hostCall i m c op hi
  rw [he s]
  refine ⟨s.hostCommand_idle m c op, s.hostCommand_fetchFailed m c op, fun p => s.hostCommand_pause m c op p, fun hf ha hp => ?_⟩
  refine ⟨k, own, hk, hown, ?_⟩
  rw [s.hostCommand_answer m c op k hk hf ha hp]
  cases (s.sees m c).common m k c with
  | error e => rfl
  | ok _ => cases own (s.sees m c) (s.given m c) <;> rfl
end

/-! PROOFS. TENANT_CREATE, ATTEST and KEY_ROTATE. -/
section
namespace Sys2Proof.Machine

/-! ### Their checks (R204, R259, R319, R320, R323) -/

section
variable {s : State} {m : Fin 64} {c : Cmd} {q : Bytes} (ht : fld c 8 1 ≤ 63) (hn : Tb.has (s.sees m c).ten.tenants (fld c 8 1) = false)
  (hc : ((s.sees m c).coming.any fun e => e.1 = fld c 8 1) = false)
  (hq : ((s.sees m c).ten.tenants.map (·.2.stackMib)).sum + ((s.sees m c).coming.map (·.2.stackMib)).sum + fieldAt q 0 4 ≤ 503808)
include ht hn hc hq

/-- Mailbox 0 gives the quota block itself, and grants the tenant to another mailbox. -/
theorem checkTenantCreate_grant (hm : m.val = 0) (he : q = toLE 32 (fld c 16 32)) (hk : quotaOk q = true)
    (hf : (s.given m c).flag 0 = true) (h1 : 1 ≤ fld c 9 1) (h63 : fld c 9 1 ≤ 63) :
    checkTenantCreate (s.sees m c) (s.given m c) =
      .ok [.grant (fld c 9 1) ⟨fld c 8 1, q, (s.given m c).flag 1⟩, .complete s.nextCmd .ok []] := by
  subst he
  simp only [checkTenantCreate, State.given_f, State.given_m, hm, if_true, ht, hk, hf, h1, h63, hn, hc, Option.map_none, Option.getD_none,
    hq, decide_true, Bool.not_false, Bool.and_self, must_true, checked_ok_bind]
  rfl

/-- Mailbox 0 creates the tenant for itself where it grants it to none. -/
theorem checkTenantCreate_create (hm : m.val = 0) (he : q = toLE 32 (fld c 16 32)) (hk : quotaOk q = true)
    (hf : (s.given m c).flag 0 = false) (h9 : fld c 9 1 = 0) : checkTenantCreate (s.sees m c) (s.given m c) =
      .ok [.vaultStart ⟨.create (fld c 8 1) (newTenant q ((s.given m c).flag 1) 0), (s.given m c).cmd, false⟩] := by
  subst he
  simp only [checkTenantCreate, State.given_f, State.given_m, hm, if_true, ht, hk, hf, h9, hn, hc, Option.map_none, Option.getD_none,
    hq, decide_true, Bool.not_false, Bool.and_self, Bool.or_false, Bool.false_eq_true, if_false, must_true, checked_ok_bind]
  rfl

/-- Any other mailbox creates the tenant that it was granted, with the quota of the grant. -/
theorem checkTenantCreate_granted {g : Grant} (hm : m.val ≠ 0) (hg : Tb.get (s.sees m c).ten.grants m.val = some g) (he : g.quota = q)
    (hf : (s.given m c).flag 0 = false) (h9 : fld c 9 1 = 0) (h16 : fld c 16 32 = 0) :
    checkTenantCreate (s.sees m c) (s.given m c) = .ok
      [.vaultStart ⟨.create (fld c 8 1) (newTenant q ((s.given m c).flag 1 || g.isProtected) m.val), (s.given m c).cmd, false⟩] := by
  subst he
  simp only [checkTenantCreate, State.given_f, State.given_m, hm, if_false, ht, hn, hc, hg, hf, h9, h16, Option.map_some,
    Option.getD_some, hq, decide_true, Bool.not_false, Bool.and_self, Bool.false_eq_true, must_true, checked_ok_bind]
  rfl
end

section
variable {s : State} {m : Fin 64} {c : Cmd} {i : Nat} (ht : fld c 8 1 ≤ 63) (hn : Tb.has (s.sees m c).ten.tenants (fld c 8 1) = true)
  (hr : (s.sees m c).routeOf (fld c 8 1) = some m.val)
include ht hn hr

theorem checkKeyRotate_dropKept (hk : fld c 9 1 = 2) : checkKeyRotate (s.sees m c) (s.given m c) = .ok
    [.vaultStart ⟨.dropKept (fld c 8 1), (s.given m c).cmd, false⟩] := by
  simp only [checkKeyRotate, State.given_f, ht, hn, State.routed_of (x := s.given m c) hr, hk, decide_true, must_true,
    checked_ok_bind]
  rfl

theorem checkKeyRotate_rotate (hk : fld c 9 1 ≤ 1) (hg : (s.sees m c).tenantGen (fld c 8 1) < 0xFFFFFFFF)
    (he : (s.sees m c).energyOk (.reencrypt (fld c 8 1) 0) 1 (some (fld c 8 1)) = true) (hroom : (s.sees m c).slotRoom = true)
    (hi : (s.sees m c).freeSlot = some i) : checkKeyRotate (s.sees m c) (s.given m c) = .ok
    [.vaultStart ⟨.rotate (fld c 8 1) i (fld c 9 1 = 1), (s.given m c).cmd, false⟩] := by
  have h3 : fld c 9 1 ≤ 3 := by omega
  have hne2 : ¬ fld c 9 1 = 2 := by omega
  have hne3 : fld c 9 1 ≠ 3 := by omega
  simp only [checkKeyRotate, State.given_f, ht, h3, hne2, hne3, hn, State.routed_of (x := s.given m c) hr, hg, he, hroom, hi, want_some,
    ne_eq, not_false_eq_true, decide_true, Bool.or_true, Bool.true_or, Bool.and_self, if_false, must_true, checked_ok_bind]
  rfl

theorem checkKeyRotate_erase (hk : fld c 9 1 = 3) (hs : ((s.sees m c).ss.sessions.any fun e => e.2.tenant = fld c 8 1) = false)
    (hp : ((s.sees m c).kv.pages.any fun e => e.2.tenant = fld c 8 1) = false)
    (hst : ((s.sees m c).st.stores.any fun e => e.2.tenant = fld c 8 1) = false) (hroom : (s.sees m c).slotRoom = true)
    (hi : (s.sees m c).freeSlot = some i) : checkKeyRotate (s.sees m c) (s.given m c) = .ok
    [.vaultStart ⟨.erase (fld c 8 1) i, (s.given m c).cmd, false⟩] := by
  simp only [checkKeyRotate, State.given_f, ht, hk, hn, State.routed_of (x := s.given m c) hr, hs, hp, hst, hroom, hi, want_some,
    decide_true, Bool.not_false, Bool.or_true, Bool.true_or, Bool.and_self, must_true, checked_ok_bind]
  rfl
end

/-- REPORT_ID, as ATTEST draws it (R323). -/
def Ctx.reportId (x : Ctx) : Nat := x.draw.toNat % 2 ^ 64

/-- The secret scalar of the release key that ATTEST draws (R317). -/
def Ctx.releasePriv (x : Ctx) : Nat := x.draw.toNat / 2 ^ 64 % (Ecc.n - 1) + 1

section
variable {s : State} {m : Fin 64} {c : Cmd} {h : Bytes} (ha : fld c 8 8 % 16 = 0) (hb : (s.given m c).rd .port0 (fld c 8 8) 64 = some h)
  (hl : 1632 ≤ fld c 48 4) (hmagic : fieldAt h 0 4 = 0x51525441) (h5 : zeroAt h 5 3 = true) (h16 : zeroAt h 16 48 = true)
include ha hb hl hmagic h5 h16

theorem checkAttest_device (hk : fieldAt h 4 1 = 0) (h8 : fieldAt h 8 8 = 0) : checkAttest (s.sees m c) (s.given m c) = .ok
    [.attest .port0 (fld c 8 8) 0 (toLE 32 (fld c 16 32)) (s.given m c).reportId (s.given m c).releasePriv [] s.nextCmd,
     .releaseKey ⟨(s.given m c).reportId, (s.given m c).releasePriv, (s.sees m c).tk.startUs + (s.sees m c).tickUs + 600000000⟩,
     .complete s.nextCmd .ok (toLE 4 1632)] := by
  simp only [checkAttest, State.given_f, ha, Ctx.read_of hb, hl, hmagic, h5, h16, hk, h8, decide_true, must_true,
    checked_ok_bind]
  rfl

theorem checkAttest_session {i : Nat} {y : Session} (hk : fieldAt h 4 1 = 1) (hs : (s.sees m c).sessOf (fieldAt h 8 8) = some (i, y))
    (hr : (s.sees m c).routeOf y.tenant = some m.val) : checkAttest (s.sees m c) (s.given m c) = .ok
    [.attest .port0 (fld c 8 8) 1 (toLE 32 (fld c 16 32)) (s.given m c).reportId (s.given m c).releasePriv
       ((s.sees m c).subjectOf i y) s.nextCmd,
     .releaseKey ⟨(s.given m c).reportId, (s.given m c).releasePriv, (s.sees m c).tk.startUs + (s.sees m c).tickUs + 600000000⟩,
     .complete s.nextCmd .ok (toLE 4 1632)] := by
  simp only [checkAttest, State.given_f, State.given_m, ha, Ctx.read_of hb, hl, hmagic, h5, h16, hk, State.handle_of hs, hr, decide_true,
    must_true, checked_ok_bind]
  rfl
end

/-! ### What their effects do (R259, R311, R317, R320, R323) -/

theorem State.applyPlain_grant (s : State) (k : Nat) (g : Grant) (n : Nat) :
    s.applyPlain (.grant k g) n = { s with ten.grants := Tb.set s.ten.grants k g } := rfl

/-- A vault write that begins joins the list of those that have not finished, and its slot is held. -/
theorem State.applyPlain_vaultStart (s : State) (j : VaultJob) (n : Nat) : ∃ g, s.applyPlain (.vaultStart j) n =
    { s.holdSlot j.work with sec.vaultJobs := s.sec.vaultJobs ++ [j], ten.grants := g } := ⟨_, rfl⟩

/-- A rotation holds its slot as the tenant's coming generation. -/
theorem State.holdSlot_rotate (s : State) (r d : Nat) (keep : Bool) : ∃ key, Tb.get (s.holdSlot (.rotate r d keep)).sec.slots d =
    some ⟨.coming, r, s.tenantGen r + 1, key, false, 0, 0, 0, 0⟩ := ⟨_, Tb.get_set_same _ _ _⟩

end Sys2Proof.Machine

open Sys2Proof Sys2Proof.Machine

/-- Settles O22: each command's checks pass under its conditions; then what each effect writes. -/
theorem tenantAndKeyCommands : Obligations.TenantAndKeyCommands := by
  refine ⟨fun s m c q hs ht hn hc hq => ⟨fun hm he hk => ⟨fun hf h1 h63 => ?_, fun hf h9 => ?_⟩, fun g hm hg he hf h9 h16 => ?_⟩,
    fun s m c h hs ha hb hl hmagic h5 h16 => ⟨(s.given m c).reportId, (s.given m c).releasePriv, Nat.mod_lt _ (by decide),
      fun hk h8 => ?_, fun i y hk hy hr => ?_⟩,
    fun s m c i hs ht hn hr => ⟨fun hk => ?_, fun hk hg he hroom hi => ?_, fun hk hno hp hst hroom hi => ?_⟩,
    fun t n => ⟨fun k g => ?_, fun j => ?_, fun r d u a => ?_, fun k => rfl, fun sp a k nc rid pv sj d => rfl⟩⟩
  · exact hostCommand_takes_of hs (checkTenantCreate_grant ht hn hc hq (congrArg Fin.val hm) he hk hf h1 h63)
  · exact hostCommand_takes_of hs (checkTenantCreate_create ht hn hc hq (congrArg Fin.val hm) he hk hf h9)
  · exact hostCommand_takes_of hs (checkTenantCreate_granted ht hn hc hq (Fin.val_ne_of_ne hm) hg he hf h9 h16)
  · exact hostCommand_takes_of hs (checkAttest_device ha hb hl hmagic h5 h16 hk h8)
  · exact hostCommand_takes_of hs (checkAttest_session ha hb hl hmagic h5 h16 hk hy hr)
  · exact hostCommand_takes_of hs (checkKeyRotate_dropKept ht hn hr hk)
  · exact hostCommand_takes_of hs (checkKeyRotate_rotate ht hn hr hk hg he hroom hi)
  · exact hostCommand_takes_of hs (checkKeyRotate_erase ht hn hr hk hno hp hst hroom hi)
  · rw [State.applyPlain_grant, Tb.get_set_same]
  · obtain ⟨g, e⟩ := t.applyPlain_vaultStart j n
    rw [e]
  · obtain ⟨g, e⟩ := t.applyPlain_vaultStart ⟨.rotate r d u, a, false⟩ n
    obtain ⟨key, hz⟩ := t.holdSlot_rotate r d u
    rw [e]
    exact ⟨_, hz, rfl, rfl, rfl⟩
end

/-! PROOFS. Address translations and page requests. -/
section
namespace Sys2Proof.Machine

theorem space_page_iff {a sp : HostSpace} {b page : Nat} : (decide (a = sp) && decide (b = page)) = true ↔ a = sp ∧ b = page := by
  rw [Bool.and_eq_true, decide_eq_true_iff, decide_eq_true_iff]

/-- What is kept of a list of pages' records is what is not of this page. -/
theorem mem_otherPages_iff {α : Type} {l : List (HostSpace × Nat × α)} {sp : HostSpace} {page : Nat} {c : HostSpace × Nat × α} :
    c ∈ l.filter (fun c => !(c.1 = sp && c.2.1 = page)) ↔ c ∈ l ∧ ¬(c.1 = sp ∧ c.2.1 = page) := by
  rw [List.mem_filter, Bool.not_eq_true', ← Bool.not_eq_true, space_page_iff]

/-! ### A page that becomes present (R216, R217) -/

theorem State.pageIn_absent (s : State) (sp : HostSpace) (page : Nat) : (sp, page) ∉ (s.pageIn sp page).ats.absent := fun h =>
  absurd (List.mem_filter.mp h).2 (by rw [bne_self_eq_false]; exact Bool.false_ne_true)

theorem State.pageIn_requests (s : State) (sp : HostSpace) (page : Nat) :
    ∀ r ∈ (s.pageIn sp page).ats.requests, ¬(r.1 = sp ∧ r.2.1 = page) := fun _ h => (mem_otherPages_iff.mp h).2

/-- The units that waited for the page wait no more. -/
theorem State.pageIn_queue (s : State) (sp : HostSpace) (page : Nat) :
    ∀ u ∈ (s.pageIn sp page).work.queue, u.paused ≠ some (sp, page) := by
  intro u hu
  obtain ⟨v, -, rfl⟩ := List.mem_map.mp hu
  split
  · exact nofun
  · assumption

/-! ### A page that is refused, or for which no response comes (R219) -/

/-- No unit has joined or left the queue, and the translation block is as it was. -/
def SameWaits (s t : State) : Prop := t.work.queue = s.work.queue ∧ t.ats = s.ats

theorem SameWaits.refl (s : State) : SameWaits s s := ⟨rfl, rfl⟩
theorem SameWaits.stage {s t : State} (h : SameWaits s t) (effs : List Effect) (o : Option Nat) : SameWaits s (t.stage effs o) := h

/-- The requests of a model end with effects staged. -/
theorem SameWaits.endBound {s t : State} (h : SameWaits s t) (d : Digest) (st : Status) : SameWaits s (t.endBound d st) := by
  unfold State.endBound
  exact foldl_holds (SameWaits s) _ (fun _ _ h => h.stage _ _) _ _ h

/-- A load fails with effects staged. -/
theorem SameWaits.failLoad {s t : State} (h : SameWaits s t) (k : Nat) (m : Model) (st : Status) : SameWaits s (t.failLoad k m st) := h

/-- The state without the request for the page: the units that waited for it are out of the queue, and what else waits is told. -/
def State.unasked (s : State) (sp : HostSpace) (page : Nat) (st : Status) : State := { s with
  work.queue := s.work.queue.filter fun u => u.paused ≠ some (sp, page)
  ats.requests := s.ats.requests.filter fun r => !(r.1 = sp && r.2.1 = page)
  ats.waits := s.ats.waits.map fun (w : Nat × HostSpace × Nat × Option Status) =>
    if w.2.1 = sp && w.2.2.1 = page then (w.1, sp, page, some st) else w }

/-- The loads whose image the page holds fail, where it is a page of port 0. -/
theorem SameWaits.failLoads {s t : State} (h : SameWaits s t) (c : Prop) [Decidable c] (l : List (Nat × Model)) (st : Status) :
    SameWaits s (if c then t else l.foldl (fun t m => t.failLoad m.1 m.2 st) t) := by
  split
  · exact h
  · exact foldl_holds (SameWaits s) _ (fun _ _ h => h.failLoad _ _ _) _ _ h

/-- What fails with a page queues nothing and asks for nothing: the transfers of the units that waited, and the loads. -/
theorem State.failPage_sameWaits (s : State) (sp : HostSpace) (page : Nat) (st : Status) :
    SameWaits (s.unasked sp page st) (s.failPage sp page st) := by
  unfold State.failPage
  refine SameWaits.failLoads (foldl_holds (SameWaits (s.unasked sp page st)) _ (fun t u h => ?_) _ _ (.refl _)) _ _ st
  split
  · exact h.stage _ _
  · exact h.stage _ _
  · exact h.stage _ _
  · refine SameWaits.stage ?_ _ _
    split
    · exact h.endBound _ _
    · exact h
  · exact h

theorem State.failPage_queue (s : State) (sp : HostSpace) (page : Nat) (st : Status) :
    ∀ u ∈ (s.failPage sp page st).work.queue, u.paused ≠ some (sp, page) := by
  rw [(s.failPage_sameWaits sp page st).1]
  exact fun u hu => of_decide_eq_true (List.mem_filter.mp hu).2

theorem State.failPage_requests (s : State) (sp : HostSpace) (page : Nat) (st : Status) :
    ∀ r ∈ (s.failPage sp page st).ats.requests, ¬(r.1 = sp ∧ r.2.1 = page) := by
  rw [(s.failPage_sameWaits sp page st).2]
  exact fun r hr => (mem_otherPages_iff.mp hr).2

/-! ### The commands (R216 to R220) -/

/-- A page that becomes present, with its translation. -/
def State.translated (s : State) (sp : HostSpace) (page f : Nat) : State := { s.pageIn sp page with
  ats.cache := ((s.pageIn sp page).ats.cache.filter fun c => !(c.1 = sp && c.2.1 = page)) ++ [(sp, page, f)] }

theorem State.translated_cached (s : State) (sp : HostSpace) (page f : Nat) : (sp, page, f) ∈ (s.translated sp page f).ats.cache :=
  List.mem_append_right _ (List.mem_singleton_self _)

/-- A page has one translation at most. -/
theorem State.translated_only {s : State} {sp : HostSpace} {page f : Nat} {c : HostSpace × Nat × Nat}
    (hc : c ∈ (s.translated sp page f).ats.cache) (hsp : c.1 = sp) (hpage : c.2.1 = page) : c.2.2 = f := by
  rcases List.mem_append.mp hc with h | h
  · exact absurd ⟨hsp, hpage⟩ (mem_otherPages_iff.mp h).2
  · rw [List.mem_singleton.mp h]

/-- A translation is cached, and the page becomes present (R216, R217). -/
theorem execAtsResponse_present (s : State) (sp : HostSpace) (page f : Nat) : exec (.atsResponse sp page (some f)) s =
    .next ((s.count 3 5 1).translated sp page f) := rfl

/-- A page request goes out unless one is under way, and is counted. -/
theorem State.askPage_eq (s : State) (sp : HostSpace) (page : Nat) : ∃ d, s.askPage sp page = { s with
    dbg := d
    ats.requests := s.ats.requests ++ (if s.ats.requests.any fun r => decide (r.1 = sp) && decide (r.2.1 = page) then []
      else [(sp, page, s.timeUs)]) } := by
  unfold State.askPage
  split
  · exact ⟨s.dbg, by rw [List.append_nil]⟩
  · exact ⟨_, rfl⟩

/-- A page known not present, without a translation. -/
def State.pageOut (s : State) (sp : HostSpace) (page : Nat) : State := { s with
  ats.absent := if s.ats.absent.contains (sp, page) then s.ats.absent else s.ats.absent ++ [(sp, page)]
  ats.cache := s.ats.cache.filter fun c => !(c.1 = sp && c.2.1 = page) }

theorem State.pageOut_absent (s : State) (sp : HostSpace) (page : Nat) : (sp, page) ∈ (s.pageOut sp page).ats.absent := by
  show (sp, page) ∈ if _ then _ else _
  split
  · next h => exact List.contains_iff_mem.mp h
  · exact List.mem_append_right _ (List.mem_singleton_self _)

/-- A page that is not present is requested (R216). -/
theorem execAtsResponse_absent (s : State) (sp : HostSpace) (page : Nat) : exec (.atsResponse sp page none) s =
    .next (((s.count 3 5 1).pageOut sp page).askPage sp page) := rfl

theorem execPageResponse_of {s : State} {sp : HostSpace} {page : Nat} (h : ∃ r ∈ s.ats.requests, r.1 = sp ∧ r.2.1 = page) (ok : Bool) :
    exec (.pageResponse sp page ok) s = .next (if ok then s.pageIn sp page else s.failPage sp page .eRange) := by
  obtain ⟨r, hr, h⟩ := h
  have ha : (s.ats.requests.any fun r => decide (r.1 = sp) && decide (r.2.1 = page)) = true :=
    List.any_eq_true.mpr ⟨r, hr, space_page_iff.mpr h⟩
  exact if_neg (by rw [ha]; exact Bool.false_ne_true)

theorem execPageRequestTimeout_of {s : State} {sp : HostSpace} {page : Nat} (h : ∃ r ∈ s.ats.requests, r.1 = sp ∧ r.2.1 = page)
    (hd : ∀ r ∈ s.ats.requests, r.1 = sp → r.2.1 = page → s.pointReached (r.2.2 + 100000) = true) :
    exec (.pageRequestTimeout sp page) s = .next (s.failPage sp page .eTimeout) := by
  show execPageRequestTimeout sp page s = _
  unfold execPageRequestTimeout
  split
  · next hn =>
    obtain ⟨r, hr, h⟩ := h
    exact absurd (space_page_iff.mpr h) (List.find?_eq_none.mp hn r hr)
  · next r hf =>
    have hr := List.find?_some hf
    obtain ⟨hsp, hpage⟩ := space_page_iff.mp hr
    exact if_pos (hd r (List.mem_of_find?_eq_some hf) hsp hpage)

/-- In a commit window in which the page is present, rings and queues take what waits for them (R220). -/
theorem execDelayedRingWrite_of {s : State} {page : Nat} (hw : s.tk.windowOpen = true) (ha : s.ats.absent.contains (.port0, page) = false) :
    exec (.delayedRingWrite .port0 page) s =
      .next ((List.finRange 64).foldl State.flushCq ((s.ss.reqs.map (·.1)).foldl (fun s r => s.flushRing r) s).flushLate).flushDci :=
  if_neg (by rw [hw, ha]; decide)

end Sys2Proof.Machine

open Sys2Proof Sys2Proof.Machine

/-- Settles O57: a translation's answer either way, the ends of a page request, an invalidation and the delayed writes. -/
theorem translations : Obligations.Translations := by
  refine ⟨fun s sp page => ⟨fun f => ?present, ?absent⟩, fun s sp page h => ⟨?response, ?refused, fun hd => ?timeout, fun st => ?failed⟩,
    fun s sp page => ⟨_, rfl, fun c => mem_otherPages_iff⟩, fun s page hw ha => execDelayedRingWrite_of hw ha⟩
  case present =>
    exact ⟨_, execAtsResponse_present s sp page f, State.translated_cached _ sp page f, fun _ => State.translated_only,
      State.pageIn_absent _ sp page, State.pageIn_requests _ sp page, State.pageIn_queue _ sp page, rfl⟩
  case absent =>
    obtain ⟨d, e⟩ := ((s.count 3 5 1).pageOut sp page).askPage_eq sp page
    exact ⟨_, (execAtsResponse_absent s sp page).trans (congrArg _ e), (s.count 3 5 1).pageOut_absent sp page,
      fun c hc => (mem_otherPages_iff.mp hc).2, rfl, rfl⟩
  case response =>
    exact ⟨_, execPageResponse_of h true, s.pageIn_absent sp page, s.pageIn_requests sp page, s.pageIn_queue sp page, rfl⟩
  case refused => exact execPageResponse_of h false
  case timeout => exact execPageRequestTimeout_of h hd
  case failed => exact ⟨s.failPage_queue sp page st, s.failPage_requests sp page st⟩
end

/-! PROOFS. The work entries of direct host mode. -/
section
namespace Sys2Proof.Machine

/-! ### Serving a work entry (R267, R268) -/

theorem dciOp_of_clean {e : Cmd} {op : Nat} (h : dciClean e op = true) : dciOp e = op := by
  simp only [dciClean, Bool.and_eq_true, decide_eq_true_iff] at h
  obtain ⟨⟨-, h⟩, -⟩ := h
  exact h

/-- The session under which the effects of an entry are staged: that of an INPUT, a STEP or a DESTROY. -/
def dciOwner (e : Cmd) (op : Nat) : Option Nat := if op = 2 || op = 3 || op = 5 then some (dciHandle e % 2 ^ 24) else none

/-- A served entry completes with the effects of its checks, or fails through its tag with their status. -/
theorem State.dciEntry_serves {s : State} {e : Cmd} {op : Nat} (h : s.dciServes e op) (own : State → Checked (List Effect)) :
    s.dciEntry e op own = .next (match own s.dciFetched with
      | .ok effs => s.dciTakes effs (dciOwner e op)
      | .error f => s.dciTakes [.dciComplete (dciTag e) op f.1 []] none) := by
  obtain ⟨hf, hb, ha, hc⟩ := h
  have hop := dciOp_of_clean hc
  cases ho : own s.dciFetched
  all_goals
    unfold State.dciFetched at ho
    simp only [State.dciEntry, hf, hb, ha, hc, hop, ho, Bool.not_true, Bool.or_self, Bool.false_eq_true, if_false]
    rfl

/-- A served entry whose checks pass has its effects staged. -/
theorem State.dciEntry_takes {s : State} {e : Cmd} {op : Nat} {own : State → Checked (List Effect)} {effs : List Effect}
    (h : s.dciServes e op) (he : own s.dciFetched = .ok effs) : s.dciEntry e op own = .next (s.dciTakes effs (dciOwner e op)) := by
  rw [State.dciEntry_serves h, he]

/-! ### The checks of CREATE, INPUT, STEP and DESTROY (R268) -/

section
variable {v : State} {e : Cmd}

theorem State.needFirmware_of (h : v.dci.cause ≠ 1) : v.needFirmware = .ok () := if_neg h

theorem checkDciCreate_ok {b : Bytes} {r : Nat × List Effect} (hf : v.dci.cause ≠ 1) (ha : fld e 16 8 % 16 = 0)
    (hb : v.dciRead (fld e 16 8) 64 = .ok b) (hz : zeroAt b 48 16 = true) (ht : fld e 24 1 ≤ 63)
    (hn : Tb.has v.ten.tenants (fld e 24 1) = true)
    (hr : v.view.createSession (fld e 24 1) (fld e 25 1) (digestOf (b.take 48)) ((Config.freeValue v.freeCtr).truncate 128) = .ok r) :
    checkDciCreate e v = .ok (r.2 ++ [.dciComplete (dciTag e) 1 .ok (toLE 8 r.1)]) := by
  simp only [checkDciCreate, State.needFirmware_of hf, ha, hb, hz, ht, hn, hr, decide_true, Bool.and_self, must_true, checked_ok_bind]
  rfl

section
variable {i : Nat} {y : Session} {m : Model} (hf : v.dci.cause ≠ 1) (hs : v.dciSession e = .ok (i, y, m))
include hf hs

theorem checkDciInput_ok {b : Bytes} (h1 : 1 ≤ fld e 24 4) (hn : fld e 24 4 ≤ 1048576) (ha : fld e 16 8 % 16 = 0)
    (hb : v.dciRead (fld e 16 8) (4 * fld e 24 4) = .ok b) (hv : ∀ t ∈ words4 (fld e 24 4) b, t < m.arch.vocab)
    (hl : y.hist.length + fld e 24 4 ≤ m.arch.maxPos) (hfit : v.dciFits i y m (fld e 24 4) = .ok ()) :
    checkDciInput e v = .ok (.dciInput (dciTag e) i (words4 (fld e 24 4) b) ::
      .spool i 0x02 0 (payTurn 0 v.ten.map.epoch 0 0 ⟨0, none, none, none⟩ 0 0 []) ::
      (inputEntries y.hist.length (words4 (fld e 24 4) b)).map fun p => .spool i 0x03 0 p) := by
  have hv' : (words4 (fld e 24 4) b).all (fun t => decide (t < m.arch.vocab)) = true :=
    List.all_eq_true.mpr fun t ht => decide_eq_true (hv t ht)
  simp only [checkDciInput, State.needFirmware_of hf, hs, h1, hn, ha, hb, hv', hl, hfit, decide_true, Bool.and_self, must_true,
    checked_ok_bind]
  rfl

theorem checkDciStep_ok (hp : (dciParams e).inRange = true) (hne : y.hist.length ≠ 0) (hl : y.hist.length < m.arch.maxPos)
    (hfit : v.dciFits i y m 1 = .ok ()) : checkDciStep e v = .ok [.dciStep (dciTag e) i (dciParams e)] := by
  simp only [checkDciStep, State.needFirmware_of hf, hs, hp, hne, hl, hfit, ne_eq, not_false_eq_true, decide_true, must_true,
    checked_ok_bind]
  rfl
end

/-- A session that is IDLE, PARKED or GONE may be destroyed (R172). -/
theorem destroyable_of {st : SessState} (h : st = .idle ∨ st = .parked ∨ st = .gone) : destroyable st = .ok () := by
  rcases h with rfl | rfl | rfl <;> rfl

theorem checkDciDestroy_ok {i : Nat} {y : Session} (hf : v.dci.cause ≠ 1) (hs : v.view.sessOf (dciHandle e) = some (i, y))
    (hst : y.state = .idle ∨ y.state = .parked ∨ y.state = .gone) :
    checkDciDestroy e v = .ok [.sessDestroy i, .dciComplete (dciTag e) 5 .ok []] := by
  simp only [checkDciDestroy, State.needFirmware_of hf, State.handle_of hs, destroyable_of hst, checked_ok_bind]
  rfl

/-! ### FLYER (R211, R217, R219, R314) -/

/-- Once its buffer is read, a FLYER is answered by its descriptor. -/
theorem checkDciFlyer_read {d : Bytes} (ha : fld e 16 8 % 16 = 0) (hd : v.dciRead (fld e 16 8) 80 = .ok d) :
    checkDciFlyer e v = (v.flyer d).map (· ++ [.dciComplete (dciTag e) 4 .ok []]) := by
  simp only [checkDciFlyer, ha, hd, decide_true, must_true, checked_ok_bind]
  rfl
end

/-- Noting a key that is not held writes a trace record at most. -/
theorem State.noteFlyerMiss_frame (s : State) (e : Cmd) : ∃ g, s.noteFlyerMiss e = { s with dbg := g } := by
  unfold State.noteFlyerMiss
  split
  · split
    · exact ⟨s.dbg, rfl⟩
    · exact s.traceRec_frame _ _ _
  · exact ⟨s.dbg, rfl⟩

/-- A FLYER that can be fetched and whose tiles are not being rewritten fails with its page request, waits for a page, or is served. -/
theorem execDciFlyer_of {s : State} {e : Cmd} (hf : s.canFetchDci = true) (hb : s.flyerBusy e = false) :
    exec (.dciFlyer e) s = match s.waitFailed 64 with
    | some st => (s.waitOver 64).dciEntry e 4 fun _ => .error (st, [])
    | none => match s.flyerPage e with
      | some g => .next (s.waitOn 64 g.1 g.2)
      | none => (s.noteFlyerMiss e).dciEntry e 4 (checkDciFlyer e) :=
  if_neg (by rw [hf, hb]; decide)

/-- A FLYER whose pages are present is served, and goes by its descriptor. -/
theorem execDciFlyer_served {s : State} {e : Cmd} {d : Bytes} (h : s.dciServes e 4) (hb : s.flyerBusy e = false)
    (hw : s.waitFailed 64 = none) (hp : s.flyerPage e = none) (ha : fld e 16 8 % 16 = 0)
    (hd : (s.dciFetched).dciRead (fld e 16 8) 80 = .ok d) :
    exec (.dciFlyer e) s = .next (match ((s.noteFlyerMiss e).dciFetched).flyer d with
      | .ok effs => (s.noteFlyerMiss e).dciTakes (effs ++ [.dciComplete (dciTag e) 4 .ok []]) none
      | .error f => (s.noteFlyerMiss e).dciTakes [.dciComplete (dciTag e) 4 f.1 []] none) := by
  rw [execDciFlyer_of h.1 hb, hw, hp]
  obtain ⟨g, hg⟩ := s.noteFlyerMiss_frame e
  rw [hg]
  refine (State.dciEntry_serves (s := { s with dbg := g }) h _).trans ?_
  rw [checkDciFlyer_read (v := ({ s with dbg := g } : State).dciFetched) ha hd]
  cases ({ s with dbg := g } : State).dciFetched.flyer d <;> rfl

end Sys2Proof.Machine

open Sys2Proof Sys2Proof.Machine

/-- Settles O26: each entry's checks pass under its conditions; a FLYER fails with its page request, waits, or goes by its descriptor. -/
theorem dciEntries : Obligations.DciEntries := by
  refine ⟨fun s e b r h hc ha hb hz ht hn hr => ?create, fun s e b i y m h hc h1 hn ha hb hs hv hl hfit => ?input,
    fun s e i y m h hc hp hs hne hl hfit => ?step, fun s e st h hb hw => ?refused, fun s e g hf hb hw hp => ?waits,
    fun s e d h hb hw hp ha hd => ⟨execDciFlyer_served h hb hw hp ha hd, s.noteFlyerMiss_frame e⟩,
    fun s e i y h hc hs hst => ?destroy⟩
  case create => exact State.dciEntry_takes h (checkDciCreate_ok (v := s.dciFetched) hc ha hb hz ht hn hr)
  case input => exact State.dciEntry_takes h (checkDciInput_ok (v := s.dciFetched) hc hs h1 hn ha hb hv hl hfit)
  case step => exact State.dciEntry_takes h (checkDciStep_ok (v := s.dciFetched) hc hs hp hne hl hfit)
  case refused =>
    have hf : s.canFetchDci = true := h.1
    rw [execDciFlyer_of hf hb, hw]
    exact State.dciEntry_serves h _
  case waits => rw [execDciFlyer_of hf hb, hw, hp]
  case destroy => exact State.dciEntry_takes h (checkDciDestroy_ok (v := s.dciFetched) hc hs hst)
end

/-! PROOFS. The channel: NEGOTIATE, OPEN, CLOSE and QUERY. -/
section
namespace Sys2Proof.Machine

/-! ### A check that fails (R255) -/

/-- A check that does not hold ends the checks with its status. -/
theorem must_of_false {α : Type} {st : Status} {b : Bool} (h : b = false) (f : Unit → Checked α) :
    (must st b >>= f) = .error (st, []) := by
  rw [h]
  rfl

/-- A command that is served whose own checks fail is rejected with their status. -/
theorem hostCommand_rejects_of {own : State → Ctx → Checked (List Effect)} {s : State} {m : Fin 64} {c : Cmd} {op : Nat}
    {st : Status} {res : Bytes} (h : s.serves m c op) (he : own (s.sees m c) (s.given m c) = .error (st, res)) :
    s.hostCommand m c op own = .next (s.rejects m c st res) := by
  rw [State.hostCommand_serves s m c op h, he, State.answers]

/-- A mailbox that is updated reads as its update. -/
theorem State.updMbx_mbx_self (s : State) (m : Fin 64) (f : Mailbox → Mailbox) : (s.updMbx m f).mbx[m] = f s.mbx[m] :=
  Vector.getElem_set_self m.isLt

/-! ### The checks of the four commands (R252, R254, R260) -/

section
variable {s : State} {m : Fin 64} {c : Cmd}

theorem checkOpen_ok (h : ((s.sees m c).mbx[m]).chan = .negotiated) : checkOpen (s.sees m c) (s.given m c) =
    .ok [.chan m.val .opened ((s.sees m c).mbx[m]).nci, .complete s.nextCmd .ok
      (toLE 1 m.val ++ zeros 3 ++ toLE 4 (s.sees m c).ten.map.epoch ++ toLE 8 (s.sees m c).tk.tick)] := by
  simp only [checkOpen, State.given_m, mboxFin_val, h, beq_self_eq_true, must_true, checked_bind, State.given_done]
  rfl

theorem checkOpen_not_negotiated (h : ((s.sees m c).mbx[m]).chan ≠ .negotiated) :
    checkOpen (s.sees m c) (s.given m c) = .error (.eState, []) := by
  simp only [checkOpen, State.given_m, mboxFin_val]
  exact must_of_false (beq_eq_false_iff_ne.mpr h) _

theorem checkClose_ok (h : ((s.sees m c).mbx[m]).debts ≤ 1) :
    checkClose (s.sees m c) (s.given m c) = .ok [.chan m.val .idle 0, .complete s.nextCmd .ok []] := by
  simp only [checkClose, State.given_m, mboxFin_val, decide_eq_true h, must_true, checked_bind, State.given_done]
  rfl

theorem checkClose_owing (h : 1 < ((s.sees m c).mbx[m]).debts) :
    checkClose (s.sees m c) (s.given m c) = .error (.eBusy, []) := by
  simp only [checkClose, State.given_m, mboxFin_val]
  exact must_of_false (decide_eq_false (Nat.not_le.mpr h)) _

theorem checkNegotiate_ok (hc : ((s.sees m c).mbx[m]).chan ≠ .opened) (hle : fld c 8 1 ≤ fld c 9 1) (hlo : 0x10 ≤ fld c 8 1)
    (hv : fld c 8 1 ≤ 0x13) (hhi : fld c 9 1 ≤ 0x1F) : checkNegotiate (s.sees m c) (s.given m c) =
      .ok [.chan m.val .negotiated (Nat.min (fld c 9 1) 0x13),
        .complete s.nextCmd .ok (toLE 1 (Nat.min (fld c 9 1) 0x13) ++ toLE 1 3 ++ toLE 1 2 ++ toLE 1 1 ++ toLE 2 0x0100 ++
          toLE 1 0x22 ++ zeros 1 ++ toLE 8 Config.deviceId.toNat)] := by
  simp only [checkNegotiate, State.given_f, State.given_m, mboxFin_val, bne_iff_ne.mpr hc, decide_eq_true hle, decide_eq_true hlo,
    decide_eq_true hv, decide_eq_true hhi, Bool.and_self, must_true, checked_bind, State.given_done]
  rfl

/-- Items 3 to 6 are named by a key; the others want none. -/
theorem queryKey_ok {item key : Nat} (h : key = 0 ∨ item ∈ [3, 4, 5, 6]) :
    (decide (key = 0) || !(decide (item = 1) || decide (item = 2) || decide (item = 7))) = true := by
  simp only [List.mem_cons, List.not_mem_nil, or_false] at h
  simp only [Bool.or_eq_true, Bool.not_eq_true', Bool.or_eq_false_iff, decide_eq_true_eq, decide_eq_false_iff_not]
  omega

theorem checkQuery_ok {b : Bytes} {o : Option (Option Nat)} (h1 : 1 ≤ fld c 8 2) (h7 : fld c 8 2 ≤ 7) (ha : fld c 24 8 % 16 = 0)
    (hk : fld c 16 8 = 0 ∨ fld c 8 2 ∈ [3, 4, 5, 6]) (hq : (s.sees m c).queryItem (fld c 8 2) (fld c 16 8) = .ok (b, o))
    (ho : m = 0 ∨ o = none ∨ ∃ t, o = some (some t) ∧ (s.sees m c).routeOf t = some m.val) (hl : b.length ≤ fld c 32 4) :
    checkQuery (s.sees m c) (s.given m c) =
      .ok [.hostWrite .port0 (fld c 24 8) b, .complete s.nextCmd .ok (toLE 4 b.length)] := by
  simp only [checkQuery, State.given_f, State.given_m, decide_eq_true h1, decide_eq_true h7, decide_eq_true ha, queryKey_ok hk, hq,
    decide_eq_true hl, Bool.and_self, must_true, checked_ok_bind, State.given_done]
  rcases ho with rfl | rfl | ⟨t, rfl, ht⟩
  · cases o <;> rfl
  · rfl
  · simp only [Option.bind_some, ht, decide_true, Bool.or_true, must_true, checked_ok_bind]
    rfl
end
end Sys2Proof.Machine

open Sys2Proof Sys2Proof.Machine

/-- Settles O12: each command's check passes or fails by the channel's state or by its debts; then what the effect writes. -/
theorem openAndClose : Obligations.OpenAndClose := by
  refine ⟨fun s m c h => ⟨fun hc => ?unready, fun hc => ?opened⟩, fun s m c h => ⟨fun hd => ?owing, fun hd => ?closed⟩,
    fun t m ch v stamp => ?effect⟩
  case unready => exact hostCommand_rejects_of h (checkOpen_not_negotiated hc)
  case opened => exact hostCommand_takes_of h (checkOpen_ok hc)
  case owing => exact hostCommand_rejects_of h (checkClose_owing hd)
  case closed => exact hostCommand_takes_of h (checkClose_ok hd)
  case effect =>
    show ((t.updMbx (mboxFin m.val) fun b => { b with chan := ch, nci := v }).mbx[m]).chan = ch
    rw [mboxFin_val, State.updMbx_mbx_self]

/-- Settles O13: the checks of NEGOTIATE and of QUERY pass under their conditions. -/
theorem negotiateAndQuery : Obligations.NegotiateAndQuery :=
  ⟨fun _ _ _ h hc hle hlo hv hhi => hostCommand_takes_of h (checkNegotiate_ok hc hle hlo hv hhi),
    fun _ _ _ _ _ h h1 h7 ha hk hq ho hl => hostCommand_takes_of h (checkQuery_ok h1 h7 ha hk hq ho hl)⟩
end

/-! PROOFS. Direct host mode: its entry, its end, and Steward's restart and watchdog. -/
section
namespace Sys2Proof.Machine

variable {s : State}

/-! ### DCI_REQ (R264, R266) -/

theorem execDciReqSet_of (h : s.bar = true) : exec .dciReqSet s = .next { s with
    glb.dciReq := true, dci.entering := if s.glb.mode == .nci then some (s.dci.entering.getD 0) else s.dci.entering } :=
  ite_not_of_true h

theorem execDciReqClear_before (h : s.glb.mode ≠ .direct) : exec .dciReqClear s = .next { s with
    glb.dciReq := false, dci.entering := if s.dci.entering = some 0 then none else s.dci.entering } :=
  if_pos (bne_iff_ne.mpr h)

/-- `s` with DCI_REQ cleared, and a request not yet met withdrawn (R266). -/
def State.reqCleared (s : State) : State :=
  { s with glb.dciReq := false, dci.entering := if s.dci.entering = some 0 then none else s.dci.entering }

/-- In direct host mode a cleared request discards the queued work and ends the mode (R266). -/
theorem execDciReqClear_direct (h : s.glb.mode = .direct) : exec .dciReqClear s = .next { s.reqCleared.dropDci with
    glb.mode := .nci, glb.ready := false, glb.restarting := true, dci.active := false } :=
  if_neg (by simp [h])

/-! ### STEWARD_RESTART and STEWARD_WATCHDOG (R264, R265, R266) -/

theorem execStewardRestart_verified (hr : s.glb.restarting = true) (hs : s.glb.signatureOk = true) :
    exec .stewardRestart s = .next { s with glb.restarting := false, glb.ready := true, glb.stewardUs := s.timeUs
                                            mbx := s.mbx.map fun b => { b with chan := .idle, nci := 0 } } :=
  (ite_not_of_true hr).trans (ite_not_of_true hs)

theorem execStewardRestart_unverified (hr : s.glb.restarting = true) (hs : s.glb.signatureOk = false) :
    exec .stewardRestart s = .next (({ s with
      glb.restarting := false, glb.mode := .direct, dci.active := true, dci.cause := 1 } : State).setSticky 3) :=
  (ite_not_of_true hr).trans (if_pos (by rw [hs]; rfl))

theorem execStewardWatchdog_idle (h : s.serving = false) : exec .stewardWatchdog s = .next s :=
  if_pos (by rw [h]; rfl)

/-- A Steward that serves is timed: past its 100 ms the mode is asked for, sooner by a free value (R264). -/
theorem execStewardWatchdog_serving (h : s.serving = true) : exec .stewardWatchdog s =
    if s.pointReached (s.glb.stewardUs + 100000) then .next { s with dci.entering := some 2 }
    else .next (if (Config.freeValue s.freeCtr).getLsbD 0 then { s with freeCtr := s.freeCtr + 1, dci.entering := some 2 }
      else { s with freeCtr := s.freeCtr + 1 }) :=
  ite_not_of_true h
end Sys2Proof.Machine

open Sys2Proof Sys2Proof.Machine

/-- Settles O27: the request set and cleared in each mode, the restart either way, and the watchdog's three cases. -/
theorem directHostMode : Obligations.DirectHostMode := by
  refine ⟨fun s h => ?asked, fun s h => ?again, fun s h => ?ended, fun s h => execDciReqClear_before h,
    fun s hr hs => execStewardRestart_verified hr hs, fun s hr hs => execStewardRestart_unverified hr hs,
    fun s => ⟨execStewardWatchdog_idle, fun hs hp => ?overdue, fun hs hp => ?sooner⟩⟩
  case asked => rw [execDciReqSet_of (by simp [State.bar, h]), h, beq_self_eq_true, if_pos rfl]
  case again =>
    rw [execDciReqSet_of (by simp [State.bar, h]), h]
    rfl
  case ended =>
    obtain ⟨ss, w, hd⟩ := s.reqCleared.dropDci_frame
    refine ⟨_, execDciReqClear_direct h, ?_⟩
    rw [hd]
    exact ⟨rfl, rfl, rfl, rfl⟩
  case overdue => rw [execStewardWatchdog_serving hs, if_pos hp]
  case sooner =>
    rw [execStewardWatchdog_serving hs, if_neg (by simp [hp])]
    split <;> rfl
end

/-! PROOFS. Cold, warm and function level resets. -/
section
namespace Sys2Proof.Machine

/-- A cold reset leaves what it clears the state to, in every mode (R371). -/
theorem exec_coldReset (s : State) : exec .coldReset s = .next s.cleared := rfl

theorem exec_warmReset {s : State} (h : s.bar = true) : exec .warmReset s = .next s.warm := if_pos h

theorem exec_warmReset_unreached {s : State} (h : s.bar = false) : exec .warmReset s = .next s := if_neg (by simp [h])

/-- After a warm reset every port is down, and of its registers the two error counts are kept (R371). -/
theorem State.warm_ports (s : State) (p : Fin 20) : s.warm.ports[p] =
    { Port.reset with retries := (s.ports[p]).retries, fecUncorr := (s.ports[p]).fecUncorr } :=
  Vector.getElem_ofFn p.isLt

/-- A function level reset stops the function's mailbox, whose registers then start afresh (R241). -/
theorem exec_functionLevelReset (s : State) (f : Fin 64) :
    exec (.functionLevelReset f) s = .next ((s.stopMailbox f).updMbx f fun b => { Mailbox.reset with
      gen := b.gen, lost := b.lost, irq0 := b.irq0, irq1 := b.irq1, resetSeen := true }) := rfl
end Sys2Proof.Machine

open Sys2Proof Sys2Proof.Machine

/-- Settles O30: the cleared state, the warm one beside it field by field, and the stopped mailbox that starts afresh. -/
theorem resets : Obligations.Resets := by
  refine ⟨fun s => exec_coldReset s, fun s hb => ⟨s.cleared, s.warm, exec_coldReset s, exec_warmReset hb, ?warm⟩,
    fun s hb => exec_warmReset_unreached hb, fun s f hg => ?function⟩
  case warm =>
    refine ⟨rfl, rfl, rfl, rfl, rfl, rfl, rfl, rfl, rfl, rfl, rfl, rfl, rfl, rfl, rfl, fun p => ?_⟩
    rw [s.warm_ports p]
    exact ⟨rfl, rfl, rfl⟩
  case function =>
    obtain ⟨r, w, e⟩ := s.stopMailbox_alone f hg
    refine ⟨_, exec_functionLevelReset s f, ?_⟩
    rw [e, State.updMbx_updMbx]
    exact ⟨rfl, rfl⟩
end

/-! PROOFS. Watchdogs, the self-test's end and restored records. -/
section
namespace Sys2Proof.Machine

/-! ### A hang declared (R356, R357, R358) -/

/-- A hang's record and its trigger write the trace block alone. -/
theorem State.hangNoted_frame (s : State) (b : Bytes) :
    ∃ d, ((s.traceRec 0x8009 21 b).trigger 21 1 0).count 6 4 1 = { s with dbg := d } := by
  obtain ⟨d, hd⟩ := s.traceRec_frame 0x8009 21 b
  obtain ⟨e, he⟩ := State.trigger_frame { s with dbg := d } 21 1 0
  rw [hd, he]
  exact ⟨_, rfl⟩

/-- A declared hang has its event staged and a dump staged, its own or one that was staged before; besides it writes the trace block,
the debug bits and the free counter alone. -/
theorem State.declareHang_spec (s : State) (cause mbox : Nat) : ∃ d n k, d.staged.isSome = true ∧
    s.declareHang cause mbox = { s.stage [.event 0xE002 (toLE 1 cause ++ toLE 1 mbox)] with
      dbg := d, freeCtr := n, sec.sticky := k } := by
  unfold State.declareHang
  dsimp only
  obtain ⟨d, hd⟩ := (s.stage [.event 0xE002 (toLE 1 cause ++ toLE 1 mbox)]).hangNoted_frame (toLE 1 cause ++ toLE 1 mbox)
  rw [hd]
  split
  case isTrue h =>
    refine ⟨_, _, _, ?_, rfl⟩
    exact h
  case isFalse => exact ⟨_, _, _, rfl, rfl⟩

/-! ### The watchdogs (R246, R356) -/

theorem execMailboxWatchdog_of {s : State} {m : Fin 64} {t : Nat} (ht : (s.mbx[m]).wdogFrom = some t)
    (he : (s.mbx[m]).enabled = true) (hw : (s.mbx[m]).wdogEn = true) (hq : (s.mbx[m]).sqHead ≠ (s.mbx[m]).sqTail)
    (hp : s.pointReached (t + 1000 * (s.mbx[m]).wdogMs) = true) : exec (.mailboxWatchdog m) s =
      .next (((s.atTime (t + 1000 * (s.mbx[m]).wdogMs)).updMbx m fun b =>
        { b.raise b.wdog with wdog := true, wdogFrom := none, wdogFired := true }).declareHang 1 m.val) := by
  show execMailboxWatchdog m s = _
  unfold execMailboxWatchdog
  dsimp only
  rw [ht]
  exact if_neg (by simp only [he, hw, hq, hp, decide_false, Bool.not_true, Bool.or_self, Bool.false_eq_true, not_false_eq_true])

theorem execTickWatchdog_of {s : State} (h : s.ticking = true) : exec .tickWatchdog s = .next (s.declareHang 0 0) := if_pos h

/-! ### The self-test's end (R375, R378) -/

theorem execBistRunDone_ran {s : State} (h : s.pwr.shut = 2) (bs : List BistBlock) (fs : List BistFault) :
    exec (.bistRunDone (.ran bs fs)) s = .next { s with pwr := { s.pwr with
      shut := 3, record := some (bistResult bs (fs.take 4096), bs, fs.take 4096)
      runs := Nat.min (s.pwr.runs + 1) 0xFFFFFFFF, recordLifecycle := s.glb.lifecycle.code } } :=
  if_neg (not_not.mpr h)

theorem execBistRunDone_refused {s : State} {r : Nat} {bs : List BistBlock} {fs : List BistFault} (h : s.pwr.shut = 2)
    (hr : s.pwr.record = some (r, bs, fs)) :
    exec (.bistRunDone .refused) s = .next { s with pwr := { s.pwr with shut := 3, record := some (3, bs, fs) } } := by
  show execBistRunDone .refused s = _
  simp only [execBistRunDone, if_neg (not_not.mpr h), hr, Option.getD_some]

/-! ### Records of a RESTORE (R338, R339) -/

section
variable {s : State} {k : Restore} {i : Nat}

/-- A record that is to be placed and not staged is not passed over. -/
theorem restoreRecord_due (hi : i ∈ k.todo) (hd : i ∉ s.recordsStaged) : ¬ (!k.todo.contains i || s.recordsStaged.contains i) = true := by
  simp [hi, hd]

variable (hk : s.restore = some k) (hi : i ∈ k.todo) (hd : i ∉ s.recordsStaged)
include hk hi hd

theorem execRestoreRecord_unread : exec (.restoreRecord i false) s = .next (s.stage (k.giveUp s .eTimeout)) := by
  show execRestoreRecord i false s = _
  simp only [execRestoreRecord, hk, if_neg (restoreRecord_due hi hd), Bool.not_false, if_true]

theorem execRestoreRecord_changed (he : s.restoreEntry k i = none) :
    exec (.restoreRecord i true) s = .next (s.stage (k.giveUp s .eDigest)) := by
  show execRestoreRecord i true s = _
  simp only [execRestoreRecord, hk, if_neg (restoreRecord_due hi hd), Bool.not_true, Bool.false_eq_true, if_false, he]

/-- A record that is read is placed, and the last one ends the restore. -/
theorem execRestoreRecord_placed {sh e : Bytes} (he : s.restoreEntry k i = some (sh, e)) :
    exec (.restoreRecord i true) s = .next (s.stage (s.restoreEntries k sh e i ++ [.restoreRecord i] ++
      if ∀ j ∈ k.todo, j = i ∨ j ∈ s.recordsStaged then k.lastEffects s else []) (some i)) := by
  have hlast : (k.todo.all fun j => decide (j = i) || s.recordsStaged.contains j) = true ↔
      ∀ j ∈ k.todo, j = i ∨ j ∈ s.recordsStaged := by
    simp
  show execRestoreRecord i true s = _
  simp only [execRestoreRecord, hk, if_neg (restoreRecord_due hi hd), Bool.not_true, Bool.false_eq_true, if_false, he, hlast]
end
end Sys2Proof.Machine

open Sys2Proof Sys2Proof.Machine

/-- Settles O58: each watchdog is a hang declared; then the self-test's two ends, and a record unread, changed, last and not last. -/
theorem watchdogs : Obligations.Watchdogs := by
  refine ⟨fun s m t0 ht he hw hq hp => ?mailbox, fun s h => ?tick,
    fun s h => ⟨execBistRunDone_ran h, fun r bs fs hr => execBistRunDone_refused h hr⟩,
    fun s k i hk hi hd => ⟨execRestoreRecord_unread hk hi hd, execRestoreRecord_changed hk hi hd,
      fun sh e he => ⟨fun hl => ?last, fun hl => ?more⟩⟩⟩
  case mailbox =>
    obtain ⟨d, n, k, hs, hh⟩ := State.declareHang_spec ((s.atTime (t0 + 1000 * (s.mbx[m]).wdogMs)).updMbx m fun b =>
      { b.raise b.wdog with wdog := true, wdogFrom := none, wdogFired := true }) 1 m.val
    refine ⟨_, (execMailboxWatchdog_of ht he hw hq hp).trans (congrArg _ hh), ?_⟩
    simp only [State.stage_mbx, State.updMbx_mbx_self]
    exact ⟨trivial, trivial, trivial, rfl, hs⟩
  case tick =>
    obtain ⟨d, n, k, hs, hh⟩ := s.declareHang_spec 0 0
    exact ⟨_, (execTickWatchdog_of h).trans (congrArg _ hh), rfl, hs⟩
  case last => rw [execRestoreRecord_placed hk hi hd he, if_pos hl]
  case more =>
    obtain ⟨j, hj, hne, hns⟩ := hl
    rw [execRestoreRecord_placed hk hi hd he, if_neg fun h => (h j hj).elim hne hns, List.append_nil]
end

/-! PROOFS. Flits of a Twine port: acceptance, what is asked for again and resent, and latency. -/
section
namespace Sys2Proof.Machine

/-! ### One port changed, then messages sent -/

/-- A change that leaves the port as it is leaves the state as it is. -/
theorem State.updPort_fixed {s : State} {p : Fin 20} {f : Port → Port} (h : f s.ports[p] = s.ports[p]) : s.updPort p f = s := by
  have hs : s.ports.set p s.ports[p] = s.ports := Vector.set_getElem_self p.isLt
  rw [State.updPort, h, hs]

/-- Two changes of one port are one. -/
theorem State.updPort_updPort (s : State) (p : Fin 20) (f g : Port → Port) :
    (s.updPort p f).updPort p g = s.updPort p fun x => g (f x) := by
  simp only [State.updPort, ports_set_getElem, Vector.set_set]

theorem State.updPort_ports_ne (s : State) (f : Port → Port) {p q : Fin 20} (h : q ≠ p) :
    (s.updPort p f).ports[q] = s.ports[q] :=
  Vector.getElem_set_ne p.isLt q.isLt fun e => h (Fin.ext e.symm)

/-- A port that stays without queued flits sends nothing. -/
theorem State.updPort_drained {s : State} {p : Fin 20} {f : Port → Port} (h : (f s.ports[p]).txq = []) :
    (s.updPort p f).drainPort p = s.updPort p f :=
  State.drainPort_idle _ _ (by rw [State.updPort_ports, ports_set_getElem]; exact h)

/-- From `s` to `t` messages have been sent, and of the ports what sending leaves has stayed. -/
def Sends (s t : State) : Prop := Sent s t ∧ PortsSent s t

theorem Sends.refl (s : State) : Sends s s := ⟨Sent.refl s, PortsSent.refl s⟩
theorem Sends.trans {a b c : State} (h : Sends a b) (k : Sends b c) : Sends a c := ⟨h.1.trans k.1, h.2.trans k.2⟩
theorem Sends.sendMsg (s : State) (d : MsgDst) (n : Nat) (b : MsgBody) : Sends s (s.sendMsg d n b) :=
  ⟨s.sendMsg_frame d n b, s.sendMsg_sent d n b⟩
theorem Sends.queueFlits (s : State) (p : Fin 20) (m : TxMsg) : Sends s (s.queueFlits p m) :=
  ⟨s.queueFlits_frame p m, s.queueFlits_sent p m⟩
theorem Sends.drainPort (s : State) (p : Fin 20) : Sends s (s.drainPort p) := ⟨s.drainPort_frame p, s.drainPort_sent p⟩

/-- A port changed and messages sent: the port is as changed, but for sending. -/
theorem Sends.portNow {s t : State} {p : Fin 20} {f : Port → Port} {y : Port} (h : Sends (s.updPort p f) t)
    (hy : PortSent y (f s.ports[p])) : t = s.sentAs t ∧ s.portNow p y t := by
  refine ⟨h.1.eq_sentAs, ?_, fun q hq => ?_⟩
  · have hp := h.2 p
    rw [State.updPort_ports, ports_set_getElem] at hp
    exact hy.trans hp
  · have hp := h.2 q
    rw [State.updPort_ports_ne s f hq] at hp
    exact hp

/-- RETRY asked for, now or before in this µs (R275). -/
theorem State.askRetry_sends (s : State) (p : Fin 20) :
    Sends (s.updPort p fun x => { x with retryUs := some s.timeUs }) (s.askRetry p) := by
  unfold State.askRetry
  dsimp only
  split
  case isTrue h =>
    rw [State.updPort_fixed (by rw [← h])]
    exact Sends.refl s
  case isFalse => exact Sends.sendMsg _ _ _ _

/-- A port changed and RETRY asked for over it. -/
theorem State.askRetry_portNow (s : State) (p : Fin 20) (f : Port → Port) :
    (s.updPort p f).askRetry p = s.sentAs ((s.updPort p f).askRetry p) ∧
      s.portNow p { f s.ports[p] with retryUs := some s.timeUs } ((s.updPort p f).askRetry p) := by
  have h := (s.updPort p f).askRetry_sends p
  rw [State.updPort_updPort] at h
  exact h.portNow (PortSent.refl _)

/-! ### What an accepted flit carries (R277, R280) -/

/-- What taking DATA writes: the message that its flits join on the port, the count of what has been delivered, and the trace. -/
def Assembled (p : Fin 20) (s t : State) : Prop := ∃ d g b, t = { s.updPort p fun x => { x with partials := b } with
  dbg := d, grp := { s.grp with gotSeq := g } }

theorem Assembled.refl (p : Fin 20) (s : State) : Assembled p s s :=
  ⟨s.dbg, s.grp.gotSeq, (s.ports[p]).partials, by rw [State.updPort_fixed rfl]⟩
theorem Assembled.trans {p : Fin 20} {a b c : State} (h : Assembled p a b) (k : Assembled p b c) : Assembled p a c := by
  obtain ⟨_, _, _, rfl⟩ := h
  obtain ⟨d, g, l, rfl⟩ := k
  refine ⟨d, g, l, ?_⟩
  simp only [State.updPort, ports_set_getElem, Vector.set_set]
theorem Assembled.partials (p : Fin 20) (s : State) (k : Port → List Bytes) :
    Assembled p s (s.updPort p fun x => { x with partials := k x }) := ⟨s.dbg, s.grp.gotSeq, k s.ports[p], rfl⟩
theorem Assembled.trace (p : Fin 20) (s : State) (c r : Nat) (b : Bytes) : Assembled p s (s.traceRec c r b) := by
  obtain ⟨d, h⟩ := s.traceRec_frame c r b
  exact ⟨d, s.grp.gotSeq, (s.ports[p]).partials, by rw [h, State.updPort_fixed rfl]⟩
theorem Assembled.gotSeq (p : Fin 20) (s : State) (g : Tbl Nat) : Assembled p s { s with grp := { s.grp with gotSeq := g } } :=
  ⟨s.dbg, g, (s.ports[p]).partials, by rw [State.updPort_fixed rfl]⟩
theorem Assembled.ite {p : Fin 20} {s a b : State} {c : Prop} [Decidable c] (ha : Assembled p s a) (hb : Assembled p s b) :
    Assembled p s (if c then a else b) := by
  split
  exacts [ha, hb]

/-- A DATA flit begins, continues or drops the message of its class, and its last flit ends it. -/
theorem State.takeData_assembled (s : State) (p : Fin 20) (f payload : Bytes) : Assembled p s (s.takeData p f payload) := by
  unfold State.takeData
  extract_lets ctl c part m src s0 s1 whole s2
  have hs1 : Assembled p s s1 := by
    refine Assembled.ite (Assembled.partials p s _) (Assembled.trans (b := s0) (Assembled.trace p s _ _ _) ?_)
    exact Assembled.ite (Assembled.partials p s0 _) (Assembled.ite (Assembled.partials p s0 _)
      ((Assembled.partials p s0 _).trans (Assembled.trace p _ _ _ _)))
  have hs2 : Assembled p s s2 := hs1.trans (Assembled.partials p s1 _)
  exact Assembled.ite hs1 (Assembled.ite hs2 (hs2.trans (Assembled.gotSeq p s2 _)))

/-- What an accepted flit carries joins its message here, or goes on over another port. -/
theorem State.takeFlit_sends (s : State) (p : Fin 20) (f payload : Bytes) :
    ∃ u, Assembled p s u ∧ Sends u (s.takeFlit p f payload) := by
  unfold State.takeFlit
  dsimp only
  split
  case isTrue =>
    refine ⟨s, Assembled.refl p s, ?_⟩
    split
    case h_1 q _ =>
      split
      · exact Sends.refl s
      · exact Sends.queueFlits s q _
    case h_2 => exact Sends.refl s
  case isFalse => exact ⟨_, Assembled.ite (s.takeData_assembled p f payload) (Assembled.refl p s), Sends.refl _⟩

theorem State.takeFlit_idle {s : State} {f : Bytes} (p : Fin 20) (payload : Bytes) (hg : s.glb.inGroup = false) (hk : fieldAt f 0 1 = 0) :
    s.takeFlit p f payload = s := by
  simp [State.takeFlit, hg, hk]

/-- The port that has accepted a flit (R273 to R276). -/
def Port.accept (x : Port) (now : Nat) (f : Bytes) : Port := { x.takeAck now f with
  rxSeq := x.rxSeq + 1, rxPhase := if x.state == .keying then 0 else x.phaseOf f, tagFails := 0
  toReturn := if fieldAt f 0 1 = 1 || fieldAt f 0 1 = 2 then x.toReturn.modify (fieldAt f 1 1 % 8) (· + 1) else x.toReturn }

theorem Port.accept_idle {f : Bytes} (x : Port) (now : Nat) (hk : fieldAt f 0 1 = 0) : x.accept now f = { x.takeAck now f with
    rxSeq := x.rxSeq + 1, rxPhase := if x.state == .keying then 0 else x.phaseOf f, tagFails := 0 } := by
  rw [Port.accept, hk]
  rfl

/-- An accepted IDLE flit of a device by itself: with nothing queued on its port, the acceptance alone. -/
theorem State.accepted_idle {s : State} {p : Fin 20} {f : Bytes} (payload : Bytes) (hg : s.glb.inGroup = false)
    (hk : fieldAt f 0 1 = 0) (hq : (s.ports[p]).txq = []) :
    ((s.updPort p fun x => x.accept s.timeUs f).takeFlit p f payload).drainPort p = s.updPort p fun x => { x.takeAck s.timeUs f with
      rxSeq := x.rxSeq + 1, rxPhase := if x.state == .keying then 0 else x.phaseOf f, tagFails := 0 } := by
  have ht := State.takeFlit_idle (s := s.updPort p fun x => x.accept s.timeUs f) p payload hg hk
  rw [ht, State.updPort_drained hq]
  simp only [State.updPort, Port.accept_idle _ _ hk]

/-- An accepted flit's effect: its port as the acceptance leaves it, with its messages, besides what sending writes. -/
theorem State.accepted_portNow (s : State) (p : Fin 20) (f payload : Bytes) :
    let t := ((s.updPort p fun x => x.accept s.timeUs f).takeFlit p f payload).drainPort p
    t = { s.sentAs t with grp := { (s.sentAs t).grp with gotSeq := t.grp.gotSeq } } ∧
      s.portNow p { s.ports[p] with
        rxSeq := (s.ports[p]).rxSeq + 1
        rxPhase := if (s.ports[p]).state == .keying then 0 else (s.ports[p]).phaseOf f
        tagFails := 0, partials := (t.ports[p]).partials } t := by
  obtain ⟨_, ⟨d, g, b, rfl⟩, h⟩ := (s.updPort p fun x => x.accept s.timeUs f).takeFlit_sends p f payload
  have hs := h.trans (Sends.drainPort _ p)
  generalize State.drainPort _ p = t at hs
  rw [State.updPort_updPort] at hs
  obtain ⟨e, hp, hq⟩ := Sends.portNow (s := { s with dbg := d, grp := { s.grp with gotSeq := g } })
    (f := fun x => { x.accept s.timeUs f with partials := b }) hs (PortSent.refl _)
  exact ⟨by rw [e]; rfl, by rw [hp]; rfl, hq⟩

/-! ### Flits received (R273 to R276) -/

section
variable {s : State} {p : Fin 20} {flit : BitVec 2048} (hl : (s.ports[p]).live = true) (ht : (s.ports[p]).tagFails < 3)
include hl ht

/-- A port that carries flits and has not failed its tag three times takes flits. -/
theorem flit_not_refused : ¬ (!(s.ports[p]).live || decide (3 ≤ (s.ports[p]).tagFails)) = true := by
  rw [hl, decide_eq_false (Nat.not_le.mpr ht)]
  decide

theorem execFlit_garbled : exec (.flit p flit false) s = .next
    ((s.updPort p fun x => { x with fecUncorr := Nat.min (x.fecUncorr + 1) 0xFFFFFFFF }).askRetry p) :=
  if_neg (flit_not_refused hl ht)

theorem execFlit_gap (hn : fieldAt (toLE 256 flit.toNat) 2 2 ≠ (s.ports[p]).rxSeq % 65536)
    (hle : seqLe ((s.ports[p]).rxSeq % 65536) (fieldAt (toLE 256 flit.toNat) 2 2) = true) :
    exec (.flit p flit true) s = .next (s.askRetry p) := by
  show execFlit p flit true s = _
  simp only [execFlit, if_neg (flit_not_refused hl ht), Bool.not_true, Bool.false_eq_true, if_false, if_pos hn, if_pos hle]

theorem execFlit_untagged (hn : fieldAt (toLE 256 flit.toNat) 2 2 = (s.ports[p]).rxSeq % 65536)
    (ho : (s.ports[p]).openFlit (s.ports[p]).rxSeq (toLE 256 flit.toNat) = none) :
    exec (.flit p flit true) s = .next ((s.updPort p fun x => { x with tagFails := x.tagFails + 1 }).askRetry p) := by
  show execFlit p flit true s = _
  simp only [execFlit, if_neg (flit_not_refused hl ht), Bool.not_true, Bool.false_eq_true, if_false, if_neg (not_not.mpr hn), ho]

theorem execFlit_accepted (hn : fieldAt (toLE 256 flit.toNat) 2 2 = (s.ports[p]).rxSeq % 65536) {payload : Bytes}
    (ho : (s.ports[p]).openFlit (s.ports[p]).rxSeq (toLE 256 flit.toNat) = some payload) :
    exec (.flit p flit true) s = .next
      (((s.updPort p fun x => x.accept s.timeUs (toLE 256 flit.toNat)).takeFlit p (toLE 256 flit.toNat) payload).drainPort p) := by
  show execFlit p flit true s = _
  simp only [execFlit, if_neg (flit_not_refused hl ht), Bool.not_true, Bool.false_eq_true, if_false, if_neg (not_not.mpr hn), ho]
  rfl

theorem execFlit_repeated (hn : (fieldAt (toLE 256 flit.toNat) 2 2 + 1) % 65536 = (s.ports[p]).rxSeq % 65536)
    (hle : seqLe ((s.ports[p]).rxSeq % 65536) (fieldAt (toLE 256 flit.toNat) 2 2) = false)
    (hk : fieldAt (toLE 256 flit.toNat) 0 1 = 0)
    (ho : ((s.ports[p]).openFlit ((s.ports[p]).rxSeq - 1) (toLE 256 flit.toNat)).isSome = true) :
    exec (.flit p flit true) s = .next ((s.updPort p fun x => x.takeAck s.timeUs (toLE 256 flit.toNat)).drainPort p) := by
  have hne : fieldAt (toLE 256 flit.toNat) 2 2 ≠ (s.ports[p]).rxSeq % 65536 := by omega
  show execFlit p flit true s = _
  simp only [execFlit, if_neg (flit_not_refused hl ht), Bool.not_true, Bool.false_eq_true, if_false, if_pos hne, hle, hk, hn, ho,
    decide_true, Bool.and_self, if_true]
end

/-! ### Flits resent, and latency (R275, R291) -/

theorem execRetry_of {s : State} {p : Fin 20} (h : (s.ports[p]).live = true) (seq : BitVec 16) :
    exec (.retry p seq) s = .next (s.updPort p fun x => x.resend false seq.toNat) := if_pos h

theorem execLinkRetryTimeout_of {s : State} {p : Fin 20} (h : (s.ports[p]).live = true) (hb : (s.ports[p]).retryBuf ≠ []) :
    exec (.linkRetryTimeout p) s = .next ((s.atTime ((s.ports[p]).ackUs + 4)).updPort p fun x =>
      { x.resend true 0 with ackUs := Nat.max s.timeUs ((s.ports[p]).ackUs + 4) }) :=
  if_neg (by rw [h, List.isEmpty_eq_false_iff.mpr hb]; decide)

theorem Port.resend_all (x : Port) : x.resend true 0 = { x with
    retries := Nat.min (x.retries + x.retryBuf.length) 0xFFFFFFFF
    retryBuf := x.retryBuf.map fun f => { f with resent := f.resent + 1 } } := by
  simp [Port.resend]

theorem execEcho_of {s : State} {p : Fin 20} (h : (s.ports[p]).up = true) (ns : Word64) :
    exec (.echo p ns) s = .next (s.sendMsg (.port p.val) 0 (.echoReply ns.toNat)) := if_pos h

theorem execEchoReply_of {s : State} {p : Fin 20} (h : (s.ports[p]).up = true) (ns now : Word64) :
    exec (.echoReply p ns now) s = .next (if ((s.ports[p]).sample (now - ns).toNat).echoes = []
      then s.updPort p fun x => x.sample (now - ns).toNat
      else (s.updPort p fun x => x.sample (now - ns).toNat).sendMsg (.port p.val) 0 (.echo now.toNat)) := by
  show execEchoReply p ns now s = _
  simp only [execEchoReply, h, Bool.not_true, Bool.false_eq_true, if_false, State.updPort_ports, ports_set_getElem,
    List.isEmpty_iff]
end Sys2Proof.Machine

open Sys2Proof Sys2Proof.Machine

/-- Settles O56: a flit garbled, after a gap, untagged, accepted and repeated; then what is resent, and the echoes. -/
theorem flits : Obligations.Flits := by
  refine ⟨?received, fun s p seq hl => execRetry_of hl seq, fun s p hl hb => ?timeout, fun s p ns h => execEcho_of h ns,
    fun s p ns now h => ?reply⟩
  case received =>
    intro s p flit ok hl ht x f
    refine ⟨?garbled, ?gap, ?untagged, ?accepted, ?repeated⟩
    case garbled =>
      rintro rfl
      exact ⟨_, execFlit_garbled hl ht, s.askRetry_portNow p _⟩
    case gap =>
      rintro rfl hn hle
      exact ⟨_, execFlit_gap hl ht hn hle, (s.askRetry_sends p).portNow (PortSent.refl _)⟩
    case untagged =>
      rintro rfl hn ho
      exact ⟨_, execFlit_untagged hl ht hn ho, s.askRetry_portNow p _⟩
    case accepted =>
      rintro rfl hn ho
      obtain ⟨payload, ho⟩ := Option.isSome_iff_exists.mp ho
      have he := execFlit_accepted hl ht hn ho
      exact ⟨⟨_, he, s.accepted_portNow p f payload⟩, fun hk hq hg =>
        he.trans (congrArg Host.Outcome.next (State.accepted_idle payload hg hk hq))⟩
    case repeated =>
      rintro rfl hn hle hk ho hq
      rw [execFlit_repeated hl ht hn hle hk ho, State.updPort_drained hq]
      rfl
  case timeout =>
    rw [execLinkRetryTimeout_of hl hb]
    simp only [Port.resend_all]
    rfl
  case reply =>
    rw [execEchoReply_of h]
    split
    case isTrue =>
      obtain ⟨e, hn⟩ := (Sends.refl (s.updPort p fun x => x.sample (now - ns).toNat)).portNow (PortSent.refl _)
      exact ⟨_, rfl, e, hn, fun _ => rfl⟩
    case isFalse he =>
      obtain ⟨e, hn⟩ := (Sends.sendMsg (s.updPort p fun x => x.sample (now - ns).toNat) (.port p.val) 0
        (.echo now.toNat)).portNow (PortSent.refl _)
      exact ⟨_, rfl, e, hn, fun h => absurd h he⟩
end

/-! PROOFS. Faults of the board: rails, heat, clocks and the host ports' reset. -/
section
namespace Sys2Proof.Machine

/-! ### Units given up by a halt (R40, R52, R367) -/

/-- Units given up are counted up to the counter's limit, and nothing else of the tick's state changes. -/
theorem TickSt.abandon_many {α : Type} (l : List α) (t : TickSt) : ∃ c b,
    l.foldl (fun t _ => t.abandonOne) t = { t with abandonCnt := c, abandonSat := b } ∧
      (t.abandonCnt ≤ 0x7FFFFFFF → c = Nat.min (t.abandonCnt + l.length) 0x7FFFFFFF) := by
  induction l generalizing t with
  | nil => exact ⟨_, _, rfl, fun h => (Nat.min_eq_left h).symm⟩
  | cons a l ih =>
    obtain ⟨c, b, e, hc⟩ := ih t.abandonOne
    refine ⟨c, b, e, fun _ => (hc (Nat.min_le_right _ _)).trans ?_⟩
    show min (min (t.abandonCnt + 1) _ + l.length) _ = min (t.abandonCnt + (l.length + 1)) _
    omega

/-! ### Ports taken down (R270, R276, R280) -/

/-- Only ports, trace and free counter differ. -/
def PortsOnly (s t : State) : Prop := t = { s with ports := t.ports, dbg := t.dbg, freeCtr := t.freeCtr }

theorem PortsOnly.trans {a b c : State} (h : PortsOnly a b) (k : PortsOnly b c) : PortsOnly a c := by
  unfold PortsOnly at h k ⊢
  rw [k, h]

theorem State.drainPort_portsOnly (s : State) (p : Fin 20) : PortsOnly s (s.drainPort p) := by
  unfold State.drainPort
  dsimp only
  split
  case isTrue => exact rfl
  case isFalse =>
    refine foldl_holds (PortsOnly s) _ (fun t b h => h.trans ?_) _ _ rfl
    obtain ⟨d, e⟩ := t.traceRec_frame 0x0020 20 b
    rw [e]
    rfl

theorem State.queueFlits_portsOnly (s : State) (p : Fin 20) (m : TxMsg) : PortsOnly s (s.queueFlits p m) :=
  PortsOnly.trans (b := { s with ports := s.ports.set p { s.ports[p] with
    txq := (s.ports[p]).txq ++ [m], shapers := (s.ports[p]).shapers.modify m.tc fun h => { h with busy := true } } }) rfl
    (State.drainPort_portsOnly _ p)

/-- A port goes DOWN, and what it held for members is queued on other ports. -/
theorem State.downPort_spec (s : State) (p : Fin 20) : PortsOnly s (s.downPort p) ∧
    ∀ q : Fin 20, ((s.downPort p).ports[q]).state = if q = p then .down else (s.ports[q]).state := by
  unfold State.downPort
  extract_lets x again t
  have ht : PortsOnly s t ∧ ∀ q : Fin 20, (t.ports[q]).state = if q = p then .down else (s.ports[q]).state := by
    refine ⟨rfl, fun q => ?_⟩
    split
    case isTrue h => rw [h, State.updPort_ports, ports_set_getElem]
    case isFalse h => rw [State.updPort_ports_ne s _ h]
  refine foldl_holds (fun u => PortsOnly s u ∧ ∀ q : Fin 20, (u.ports[q]).state = if q = p then .down else (s.ports[q]).state)
    _ (fun u m hu => ?_) _ _ ht
  split
  case h_1 r _ => exact ⟨hu.1.trans (u.queueFlits_portsOnly r m), fun q => (u.queueFlits_state r q m).trans (hu.2 q)⟩
  case h_2 => exact hu

/-- Several ports go DOWN, and no other one does. -/
theorem State.downPorts_spec (l : List (Fin 20)) (s : State) : PortsOnly s (l.foldl State.downPort s) ∧
    ∀ q : Fin 20, ((l.foldl State.downPort s).ports[q]).state = if q ∈ l then .down else (s.ports[q]).state := by
  induction l generalizing s with
  | nil => exact ⟨rfl, fun q => by simp⟩
  | cons p l ih =>
    obtain ⟨h, hq⟩ := s.downPort_spec p
    obtain ⟨h', hq'⟩ := ih (s.downPort p)
    refine ⟨h.trans h', fun q => (hq' q).trans ?_⟩
    rw [hq q]
    by_cases hl : q ∈ l <;> by_cases hp : q = p <;> simp [hl, hp]

/-! ### The faults (R270, R367, R370, R388, R390) -/

theorem execRailFault_of {s : State} (h : s.glb.mode ≠ .halted) :
    exec .railFault s = .next { s.cleared with glb.mode := .halted } :=
  if_neg (by simpa using h)

theorem execTwineClockLoss_eq (s : State) (k : Fin 4) : exec (.twineClockLoss k) s =
    .next (((List.finRange 20).filter fun p => p.val / 5 = k.val).foldl State.downPort s) := rfl
end Sys2Proof.Machine

open Sys2Proof Sys2Proof.Machine

/-- Settles O31: a cleared state that halts, a halt, the host links, and the five ports of a reference. -/
theorem boardFaults : Obligations.BoardFaults := by
  refine ⟨fun s h => ⟨s.cleared, exec_coldReset s, execRailFault_of h⟩, fun s => ⟨s.cleared, exec_coldReset s, rfl⟩,
    fun s => ⟨_, rfl, ?halt⟩, fun s => rfl, fun s => ⟨rfl, rfl⟩, fun s k => ⟨_, execTwineClockLoss_eq s k, ?twine⟩⟩
  case halt =>
    obtain ⟨c, b, e, hc⟩ := s.tk.abandon_many s.work.running
    unfold State.halt State.dropWork
    rw [e]
    exact ⟨rfl, hc⟩
  case twine =>
    obtain ⟨h, hq⟩ := s.downPorts_spec ((List.finRange 20).filter fun p => p.val / 5 = k.val)
    refine ⟨h, fun q => ?_⟩
    rw [hq q]
    by_cases hk : q.val / 5 = k.val <;> simp [hk]
end

/-! PROOFS. Joining a group: acknowledgements, the proposal, JOIN_TICK and the joins given up. -/
section
namespace Sys2Proof.Machine

/-! ### Acknowledgements and the proposal (R291 steps 1 and 3) -/

/-- Rank 0 takes an acknowledgement of its join: a failure gives the join up, and each rank counts once. -/
theorem execJoinAck_root {s : State} {d : Bytes} {rank : Fin 64} {st : Fin 16} (hj : s.grp.join = some d) (ho : descOwn d = some 0)
    (hr : rank.val < descN d) (ht : s.grp.joinTick = none) : exec (.joinAck rank st) s = .next
      (if st.val ≠ 0 then s.failJoin (statusOf st.val) else if rank.val ∈ s.grp.joinAcks then s
        else { s with grp.joinAcks := s.grp.joinAcks ++ [rank.val] }) := by
  have hdue : ¬ (decide ((descOwn d).getD 0 ≠ 0) || decide (descN d ≤ rank.val) || s.grp.joinTick.isSome) = true := by
    simp [ho, ht, hr]
  show execJoinAck rank st s = _
  simp only [execJoinAck, hj, if_neg hdue, List.contains_iff_mem, apply_ite Host.Outcome.next]

theorem execJoinPropose_of {s : State} (h : s.grp.join.isSome = true) (tick : BitVec 48) (table : Bytes) :
    exec (.joinPropose tick table) s = .next { s with
      grp.joinTick := some tick.toNat, grp.joinTable := table, tk.pinEdge := none, tk.pinMark := none, tk.pinSamples := [] } :=
  if_neg (by rw [Option.isNone_eq_false_iff.mpr h]; decide)

theorem execJoinTimeout_of {s : State} (h : s.grp.join.isSome = true) (hp : s.pointReached s.grp.joinUntilUs = true) :
    exec .joinTimeout s = .next (s.failJoin .eTimeout) :=
  if_neg (by simp [Option.isNone_eq_false_iff.mpr h, hp])

/-- A join given up is forgotten, and its command's completion is staged (R290). -/
theorem State.failJoin_spec (s : State) (st : Status) :
    (s.failJoin st).grp = { s.grp with join := none, joinCmd := none, joinTick := none, joinTable := [], joinAcks := [] } ∧
    (s.failJoin st).work.steward = s.work.steward ++
      (s.grp.joinCmd.map fun c => (⟨none, 16, none, [.complete c st []]⟩ : Item)).toList := by
  unfold State.failJoin
  cases s.grp.joinCmd with
  | none => exact ⟨rfl, (List.append_nil _).symm⟩
  | some c => exact ⟨rfl, rfl⟩

/-! ### JOIN_TICK (R291 step 5) -/

/-- The device in its place at JOIN_TICK: its rank, its group, the tick number and the table, with nothing staged. -/
theorem State.takePlace_spec {s : State} {d : Bytes} {own : Nat} (ho : descOwn d = some own) (tick : Nat) :
    let t := s.takePlace d tick
    t.glb.inGroup = true ∧ t.glb.rank = own ∧ t.tk.tick = tick ∧ t.grp.groupId = fieldAt d 8 8 ∧ t.grp.n = descN d ∧
      t.grp.members = (List.range (descN d)).map (descId d) ∧ t.grp.join = none ∧ t.grp.joinCmd = none ∧
      t.tk.noUnits = false ∧ t.tk.staged = none ∧
      t.tk.table = (if own = 0 then s.tk.table else tableOf s.grp.joinTable) ∧ t.work = s.work := by
  unfold State.takePlace
  extract_lets own' n f root table ports _ tk old _ pwr _ g _ _ u t
  have hown : own' = own := congrArg (Option.getD · 0) ho
  have htable : table = if own = 0 then s.tk.table else tableOf s.grp.joinTable := by
    rw [← hown]
    exact ite_congr (propext decide_eq_true_iff) (fun _ => rfl) fun _ => rfl
  have ht : ∃ x, t = { u with dbg := x } := by
    unfold t
    split
    exacts [⟨_, rfl⟩, u.traceRec_frame _ _ _]
  obtain ⟨x, e⟩ := ht
  rw [e]
  exact ⟨rfl, hown, rfl, rfl, rfl, rfl, rfl, rfl, rfl, rfl, htable, rfl⟩

/-- At JOIN_TICK under MODE 0 the device takes its place, and the completion and the GROUP event are staged. -/
theorem execJoinGo_of {s : State} {d : Bytes} {own : Nat} {tick : BitVec 48} (copy : Option JoinCopy) (hj : s.grp.join = some d)
    (ho : descOwn d = some own) (ht : s.grp.joinTick = some tick.toNat) (hr : own = 0 → s.tk.tick = tick.toNat) (hm : descMode d = 0) :
    let u := s.takePlace d tick.toNat
    exec (.joinGo tick copy) s = .next { u with
      grp.joinTable := []
      work.steward := u.work.steward ++ (s.grp.joinCmd.map fun c => (⟨none, 16, none, [.complete c .ok (toLE 1 own)]⟩ : Item)).toList ++
        [⟨none, 16, none, [u.groupEvent]⟩] } := by
  have hdue : ¬ (decide (s.grp.joinTick ≠ some tick.toNat) || (decide (own = 0) && decide (s.tk.tick ≠ tick.toNat))) = true := by
    simpa [ht] using hr
  have hmode : decide (descMode d = 1) = false := by simp [hm]
  show execJoinGo tick copy s = _
  simp only [execJoinGo, hj, ho, Option.getD_some, if_neg hdue, hmode, Bool.false_and, Bool.false_eq_true, if_false,
    if_neg (of_decide_eq_false hmode)]
  cases s.grp.joinCmd with
  | none =>
    rw [Option.map_none, Option.toList_none, List.append_nil]
    cases copy <;> rfl
  | some c => cases copy <;> rfl
end Sys2Proof.Machine

open Sys2Proof Sys2Proof.Machine

/-- Settles O53: acknowledgements, the proposal, JOIN_TICK's place with its two staged items, and a join given up. -/
theorem joining : Obligations.Joining := by
  refine ⟨fun s d rank st hj ho hr ht => ?ack, fun s tick table h => execJoinPropose_of h tick table,
    fun s d own tick copy hj ho ht hr hm => ?go, fun s h hp => execJoinTimeout_of h hp, State.failJoin_spec⟩
  case ack =>
    rw [execJoinAck_root hj ho hr ht]
    exact ⟨fun h => by rw [if_pos h], fun h hn => by rw [if_neg (not_not.mpr h), if_neg hn],
      fun h hi => by rw [if_neg (not_not.mpr h), if_pos hi]⟩
  case go =>
    obtain ⟨hi, hrank, htick, hid, hn, hmem, hjoin, hcmd, hunits, hstaged, htable, hwork⟩ := State.takePlace_spec (s := s) ho tick.toNat
    refine ⟨_, execJoinGo_of copy hj ho ht hr hm, hi, hrank, htick, hid, hn, hmem, hjoin, hcmd, hunits, hstaged, htable, ?_⟩
    rw [hwork]
    rfl
end

/-! PROOFS. What clears a debug sticky bit and what moves the lifecycle. -/
section
namespace Sys2Proof.Machine

/-- The sticky bits, the lifecycle and the queue of a state, as what a command is held against. -/
def State.securityKept (s : State) : Kept := ⟨s.pending, s.sec.sticky, s.glb.lifecycle, none, false⟩

theorem State.keeps_securityKept (s : State) : Keeps s.securityKept s :=
  ⟨fun h => (nomatch h), BitVec.and_self, rfl, rfl, fun _ e => nomatch e⟩

theorem Keeps.stickyKept {s t : State} (h : Keeps s.securityKept t) : stickyKept s t :=
  (BitVec.and_comm _ _).trans h.2.1

theorem Keeps.lifecycle_eq {K : Kept} {t : State} (h : Keeps K t) : t.glb.lifecycle = K.lc := h.2.2.2.1

/-- A command that leaves the power on, LC_ADVANCE apart, keeps the sticky bits and the lifecycle. -/
theorem exec_keeps_security {i : Instr} {s t : State} (hp : i.powers = false) (hl : ∀ token, i ≠ .lcAdvance token)
    (h : exec i s = .next t) : Keeps s.securityKept t :=
  exec_outKeeps hp hl (fun _ => rfl) s.keeps_securityKept t h

/-! ### LC_ADVANCE (R307 to R309) -/

theorem exec_lcAdvance_accepted {s : State} {token : BitVec 1536} {l : Lifecycle} (h : s.tokenOk (toLE 192 token.toNat) = some l) :
    exec (.lcAdvance token) s = .next (s.advanceTo l) := by
  show execLcAdvance token s = _
  simp only [execLcAdvance, h]

theorem exec_lcAdvance_refused {s : State} {token : BitVec 1536} (h : s.tokenOk (toLE 192 token.toNat) = none) :
    exec (.lcAdvance token) s = .next { s with sec.jtagRefused := true } := by
  show execLcAdvance token s = _
  simp only [execLcAdvance, h]

/-- Each kind of transition ends in the state it is for. -/
theorem State.advanceTo_lifecycle (s : State) (l : Lifecycle) : (s.advanceTo l).glb.lifecycle = l := by
  fun_cases State.advanceTo s l <;> rfl

/-- No transition clears a sticky bit: the one that restarts the boot sequence is a warm reset, which keeps them (R306). -/
theorem State.advanceTo_sticky (s : State) (l : Lifecycle) : (s.advanceTo l).sec.sticky = s.sec.sticky := by
  fun_cases State.advanceTo s l <;> rfl

theorem exec_lcAdvance_sticky {s t : State} {token : BitVec 1536} (h : exec (.lcAdvance token) s = .next t) :
    t.sec.sticky = s.sec.sticky := by
  cases hk : s.tokenOk (toLE 192 token.toNat) with
  | none =>
    rw [exec_lcAdvance_refused hk] at h
    cases h
    rfl
  | some l =>
    rw [exec_lcAdvance_accepted hk] at h
    cases h
    exact s.advanceTo_sticky l

/-! ### Commands that take the power away (R370, R371, R388) -/

theorem Instr.eq_of_powers {i : Instr} (h : i.powers = true) : i = .coldReset ∨ i = .railFault ∨ i = .thermalTrip := by
  unfold Instr.powers at h
  split at h
  · exact .inl rfl
  · exact .inr (.inl rfl)
  · exact .inr (.inr rfl)
  · cases h

/-- The lifecycle is fused, so a loss of power keeps it. -/
theorem exec_lifecycle_of_powers {i : Instr} {s t : State} (hp : i.powers = true) (h : exec i s = .next t) :
    t.glb.lifecycle = s.glb.lifecycle := by
  obtain rfl | rfl | rfl := Instr.eq_of_powers hp
  case inl =>
    cases h
    rfl
  case inr.inl =>
    change execRailFault s = .next t at h
    unfold execRailFault at h
    split at h <;> cases h <;> rfl
  case inr.inr =>
    cases h
    rfl

theorem exec_lifecycle {i : Instr} {s t : State} (hl : ∀ token, i ≠ .lcAdvance token) (h : exec i s = .next t) :
    t.glb.lifecycle = s.glb.lifecycle := by
  cases hp : i.powers with
  | false => exact (exec_keeps_security hp hl h).lifecycle_eq
  | true => exact exec_lifecycle_of_powers hp h
end Sys2Proof.Machine

open Sys2Proof Sys2Proof.Machine

/-- Settles O5: LC_ADVANCE leaves the sticky bits alone, and every other command that leaves the power on keeps those that are set. -/
theorem debugBitsOnlyGrow : Obligations.DebugBitsOnlyGrow := by
  intro i s t hp h
  by_cases hl : ∃ token, i = .lcAdvance token
  · obtain ⟨token, rfl⟩ := hl
    unfold stickyKept
    rw [exec_lcAdvance_sticky h, BitVec.and_self]
  · exact (exec_keeps_security hp (not_exists.mp hl) h).stickyKept

/-- Settles O6: every other command keeps the lifecycle, with or without power, and LC_ADVANCE goes by its token. -/
theorem lifecycleOnlyByToken : Obligations.LifecycleOnlyByToken := by
  refine ⟨fun i s t => exec_lifecycle, fun token s => ?_⟩
  split
  next l hk => exact ⟨_, exec_lcAdvance_accepted hk, s.advanceTo_lifecycle l⟩
  next hk => exact exec_lcAdvance_refused hk
end

/-! PROOFS. The other JTAG instructions: the challenge, the BIST record, and the raw test engine. -/
section
namespace Sys2Proof.Machine

/-- The challenge is one free value, which is kept and read out (R308). -/
theorem exec_lcChallenge (s : State) : exec .lcChallenge s = .next { s with
    freeCtr := s.freeCtr + 1, sec.challenge := some ((Config.freeValue s.freeCtr).truncate 256)
    sec.jtagOut := toLE 32 ((Config.freeValue s.freeCtr).truncate 256).toNat } := rfl

theorem exec_bistRead_of {s : State} (h : s.glb.bistFail = true ∧ s.glb.bootStage = 3 ∨ s.glb.lifecycle.open_ = true) :
    exec .bistRead s = .next { s with sec.jtagOut := s.bistBytes, sec.sticky := s.sec.sticky ||| 4#5 } :=
  if_pos (by simpa using h)

theorem exec_bistRead_locked {s : State} (h : s.glb.bistFail = false ∨ s.glb.bootStage ≠ 3) (ho : s.glb.lifecycle.open_ = false) :
    exec .bistRead s = .next s :=
  if_neg (by simpa [ho, imp_iff_not_or] using h)

theorem exec_rawTestEngine_open {s : State} (h : s.glb.lifecycle.open_ = true) :
    exec .rawTestEngine s = .next { s with sec.sticky := s.sec.sticky ||| 4#5 ||| 16#5 } := if_pos h

theorem exec_rawTestEngine_locked {s : State} (h : s.glb.lifecycle.open_ = false) : exec .rawTestEngine s = .next s :=
  if_neg (by simp [h])
end Sys2Proof.Machine

open Sys2Proof Sys2Proof.Machine

/-- Settles O32: the challenge, and the two instructions where JTAG answers them and where it does not. -/
theorem jtag : Obligations.Jtag :=
  ⟨exec_lcChallenge, fun _ => exec_bistRead_of, fun _ => exec_bistRead_locked, fun _ => exec_rawTestEngine_open,
    fun _ => exec_rawTestEngine_locked⟩
end

/-! PROOFS. One step of the block: what it runs, the queue that it leaves, and the form of the host memories. -/
section
namespace Sys2Proof.Machine

/-! ### The front of the queue (log 3) -/

theorem step_of_cons {s : State} {c : Instr} {rest : List Instr} (h : s.pending = c :: rest) :
    step s = exec c { s with pending := rest } := by
  rw [step, h]

theorem step_of_nil {s : State} (h : s.pending = []) : step s = .next s := by
  rw [step, h]

/-! ### The queue and the form of the memories (log 5) -/

theorem State.memoryOk_iff (s : State) : s.memoryOk = true ↔
    Memory.wf s.host0 = true ∧ Memory.wf s.host1 = true ∧ Memory.wf s.cxl0 = true ∧ Memory.wf s.cxl1 = true := by
  simp only [State.memoryOk, Bool.and_eq_true, and_assoc]

/-- The queue and the form of the memories of a state, as what a command is held against. -/
def State.hostKept (s : State) : Kept := ⟨s.pending, 0, s.glb.lifecycle, none, s.memoryOk⟩

theorem State.keeps_hostKept (s : State) : Keeps s.hostKept s :=
  ⟨s.memoryOk_iff.mp, BitVec.and_zero, rfl, rfl, fun _ e => nomatch e⟩

theorem Keeps.memoryOk {K : Kept} {t : State} (h : Keeps K t) (hm : K.mem = true) : t.memoryOk = true :=
  t.memoryOk_iff.mpr (h.1 hm)

theorem Keeps.pending_eq {K : Kept} {t : State} (h : Keeps K t) : t.pending = K.pending := h.2.2.1

/-- The queue and the host memories of `t` are those of `s`. -/
def SameHost (s t : State) : Prop :=
  t.pending = s.pending ∧ t.host0 = s.host0 ∧ t.host1 = s.host1 ∧ t.cxl0 = s.cxl0 ∧ t.cxl1 = s.cxl1

theorem SameHost.memoryOk_eq {s t : State} (h : SameHost s t) : t.memoryOk = s.memoryOk := by
  obtain ⟨-, h0, h1, c0, c1⟩ := h
  rw [State.memoryOk, h0, h1, c0, c1, State.memoryOk]

/-- A loss of power clears the device, not the host's memory (R371). -/
theorem exec_sameHost_of_powers {i : Instr} {s t : State} (hp : i.powers = true) (h : exec i s = .next t) : SameHost s t := by
  obtain rfl | rfl | rfl := Instr.eq_of_powers hp
  case inl =>
    cases h
    exact ⟨rfl, rfl, rfl, rfl, rfl⟩
  case inr.inl =>
    change execRailFault s = .next t at h
    unfold execRailFault at h
    split at h <;> cases h <;> exact ⟨rfl, rfl, rfl, rfl, rfl⟩
  case inr.inr =>
    cases h
    exact ⟨rfl, rfl, rfl, rfl, rfl⟩

theorem State.advanceTo_sameHost (s : State) (l : Lifecycle) : SameHost s (s.advanceTo l) := by
  fun_cases State.advanceTo s l <;> exact ⟨rfl, rfl, rfl, rfl, rfl⟩

theorem exec_lcAdvance_sameHost {s t : State} {token : BitVec 1536} (h : exec (.lcAdvance token) s = .next t) : SameHost s t := by
  cases hk : s.tokenOk (toLE 192 token.toNat) with
  | none =>
    rw [exec_lcAdvance_refused hk] at h
    cases h
    exact ⟨rfl, rfl, rfl, rfl, rfl⟩
  | some l =>
    rw [exec_lcAdvance_accepted hk] at h
    cases h
    exact s.advanceTo_sameHost l

/-- Power lost and LC_ADVANCE touch neither the queue nor a host memory; every other command keeps the queue, and its writes the form. -/
theorem exec_keeps_host {i : Instr} {s t : State} (h : exec i s = .next t) : SameHost s t ∨ Keeps s.hostKept t := by
  cases hp : i.powers with
  | true => exact .inl (exec_sameHost_of_powers hp h)
  | false =>
    by_cases hl : ∃ token, i = .lcAdvance token
    · obtain ⟨token, rfl⟩ := hl
      exact .inl (exec_lcAdvance_sameHost h)
    · exact .inr (exec_outKeeps hp (not_exists.mp hl) (fun _ => rfl) s.keeps_hostKept t h)

theorem exec_pending {i : Instr} {s t : State} (h : exec i s = .next t) : t.pending = s.pending :=
  (exec_keeps_host h).elim And.left Keeps.pending_eq

theorem exec_memoryOk {i : Instr} {s t : State} (hm : s.memoryOk = true) (h : exec i s = .next t) : t.memoryOk = true :=
  (exec_keeps_host h).elim (fun e => e.memoryOk_eq.trans hm) fun k => k.memoryOk hm
end Sys2Proof.Machine

open Sys2Proof Sys2Proof.Machine

/-- Settles O3: a cold reset leaves the four host memories empty. -/
theorem resetMemoryCanonical : Obligations.ResetMemoryCanonical := State.reset.memoryOk_iff.mpr ⟨rfl, rfl, rfl, rfl⟩

/-- Settles O4: a step idles, or runs the front command on a state with the same memories. -/
theorem stepKeepsMemory : Obligations.StepKeepsMemory := by
  intro s t hm h
  cases hp : s.pending with
  | nil =>
    rw [step_of_nil hp] at h
    cases h
    exact hm
  | cons c rest =>
    rw [step_of_cons hp] at h
    exact exec_memoryOk (s := { s with pending := rest }) hm h

/-- Settles O8: whatever the command, the queue that it leaves is the one that it found. -/
theorem queueFifo : Obligations.QueueFifo := fun _ _ _ => exec_pending

/-- Settles O1: the two cases of the queue. -/
theorem stepRunsFrontCommand : Obligations.StepRunsFrontCommand := ⟨fun _ _ _ => step_of_cons, fun _ => step_of_nil⟩
end

/-! PROOFS. Every command ends in a next state. -/
section
namespace Sys2Proof.Machine

/-- The command neither faults nor is refused: there is a next state. -/
def Ends (r : Res) : Prop := ∃ t, r = .next t

theorem ends_next (t : State) : Ends (.next t) := ⟨t, rfl⟩

theorem Ends.ite {c : Prop} [Decidable c] {a b : Res} (ha : Ends a) (hb : Ends b) : Ends (if c then a else b) := by
  split
  · exact ha
  · exact hb

/-- A command with one condition, which has no occurrence where the condition fails (log 12). -/
theorem ends_guarded {c : Prop} [Decidable c] {t u : State} : Ends (if c then .next t else .next u) :=
  .ite (ends_next t) (ends_next u)

/-! ### Steward's service of a host command and of a work entry (R247, R268) -/

theorem State.hostCommand_ends (s : State) (m : Fin 64) (c : Cmd) (op : Nat) (own : State → Ctx → Checked (List Effect))
    (now : State → Ctx → State) : Ends (s.hostCommand m c op own now) := by
  fun_cases State.hostCommand <;> exact ends_next _

theorem exec_ends_of_hostCall {i : Instr} {m : Fin 64} {c : Cmd} {op : Nat} (h : i.hostCall = some (m, c, op)) (s : State) :
    Ends (exec i s) := by
  obtain ⟨_, own, -, -, he⟩ := exec_hostCall i m c op h
  rw [he]
  exact s.hostCommand_ends m c op own (nowOf op)

theorem State.dciEntry_ends (s : State) (e : Cmd) (op : Nat) (own : State → Checked (List Effect)) : Ends (s.dciEntry e op own) := by
  fun_cases State.dciEntry <;> exact ends_next _

/-- A Flyer entry waits, fails with its page request, or is served as any other entry (R216, R217). -/
theorem execDciFlyer_ends (e : Cmd) (s : State) : Ends (execDciFlyer e s) := by
  fun_cases execDciFlyer e s
  · exact ends_next _
  · exact State.dciEntry_ends ..
  · exact ends_next _
  · exact State.dciEntry_ends ..

/-! ### Commands that branch on what the state holds: each branch is a next state -/

theorem execSatClear_ends (r : SatCounter) (s : State) : Ends (execSatClear r s) := by
  fun_cases execSatClear <;> exact ends_next _

theorem execRegisterWrite_ends (f : Fin 64) (off : BitVec 24) (v : Word32) (s : State) : Ends (execRegisterWrite f off v s) := by
  fun_cases execRegisterWrite <;> exact ends_next _

theorem execLcAdvance_ends (token : BitVec 1536) (s : State) : Ends (execLcAdvance token s) := by
  fun_cases execLcAdvance <;> exact ends_next _

theorem execBootComplete_ends (s : State) : Ends (execBootComplete s) := by
  fun_cases execBootComplete <;> exact ends_next _

theorem execOperatingPointStep_ends (ok : Bool) (s : State) : Ends (execOperatingPointStep ok s) := by
  fun_cases execOperatingPointStep <;> exact ends_next _

theorem execSchedActivate_ends (s : State) : Ends (execSchedActivate s) := by
  fun_cases execSchedActivate <;> exact ends_next _

theorem execVerdictDeadline_ends (s : State) : Ends (execVerdictDeadline s) := by
  fun_cases execVerdictDeadline <;> exact ends_next _

theorem execVerdictWaitExpiry_ends (s : State) : Ends (execVerdictWaitExpiry s) := by
  fun_cases execVerdictWaitExpiry <;> exact ends_next _

theorem execSlotStart_ends (k : Fin 16) (s : State) : Ends (execSlotStart k s) := by
  fun_cases execSlotStart <;> exact ends_next _

theorem execSlotEnd_ends (k : Fin 16) (s : State) : Ends (execSlotEnd k s) := by
  fun_cases execSlotEnd <;> exact ends_next _

theorem execUnitEnded_ends (u : Nat) (s : State) : Ends (execUnitEnded u s) := by
  fun_cases execUnitEnded <;> exact ends_next _

theorem execInDoubtExpiry_ends (u : Nat) (s : State) : Ends (execInDoubtExpiry u s) := by
  fun_cases execInDoubtExpiry <;> exact ends_next _

theorem execTokenize_ends (u : Nat) (s : State) : Ends (execTokenize u s) := by
  fun_cases execTokenize <;> exact ends_next _

theorem execPrefillSlice_ends (u : Nat) (s : State) : Ends (execPrefillSlice u s) := by
  fun_cases execPrefillSlice <;> exact ends_next _

theorem execDecodeStep_ends (u : Nat) (s : State) : Ends (execDecodeStep u s) := by
  fun_cases execDecodeStep <;> exact ends_next _

theorem execDecodeUnitCreate_ends (r : Nat) (s : State) : Ends (execDecodeUnitCreate r s) := by
  fun_cases execDecodeUnitCreate <;> exact ends_next _

theorem execRingRoomTimeout_ends (r : Nat) (s : State) : Ends (execRingRoomTimeout r s) := by
  fun_cases execRingRoomTimeout <;> exact ends_next _

theorem execStallHoldExpiry_ends (r : Nat) (s : State) : Ends (execStallHoldExpiry r s) := by
  fun_cases execStallHoldExpiry <;> exact ends_next _

theorem execParkTileTimeout_ends (u : Nat) (s : State) : Ends (execParkTileTimeout u s) := by
  fun_cases execParkTileTimeout <;> exact ends_next _

theorem execReviveTileTimeout_ends (u : Nat) (s : State) : Ends (execReviveTileTimeout u s) := by
  fun_cases execReviveTileTimeout <;> exact ends_next _

theorem execSearchPass_ends (u : Nat) (s : State) : Ends (execSearchPass u s) := by
  fun_cases execSearchPass <;> exact ends_next _

theorem execStoreQueryDeadline_ends (q : Nat) (s : State) : Ends (execStoreQueryDeadline q s) := by
  fun_cases execStoreQueryDeadline <;> exact ends_next _

theorem execChkptTileTimeout_ends (u : Nat) (s : State) : Ends (execChkptTileTimeout u s) := by
  fun_cases execChkptTileTimeout <;> exact ends_next _

theorem execReelWrite_ends (s : State) : Ends (execReelWrite s) := by
  fun_cases execReelWrite <;> exact ends_next _

theorem execPurgeTimeout_ends (p : Nat) (s : State) : Ends (execPurgeTimeout p s) := by
  fun_cases execPurgeTimeout <;> exact ends_next _

theorem execEvictDrainDeadline_ends (slot : Fin 8) (s : State) : Ends (execEvictDrainDeadline slot s) := by
  fun_cases execEvictDrainDeadline <;> exact ends_next _

theorem execModelChunkRead_ends (slot : Fin 8) (chunk : Nat) (s : State) : Ends (execModelChunkRead slot chunk s) := by
  fun_cases execModelChunkRead <;> exact ends_next _

theorem execModelChunkTimeout_ends (slot : Fin 8) (chunk : Nat) (s : State) : Ends (execModelChunkTimeout slot chunk s) := by
  fun_cases execModelChunkTimeout <;> exact ends_next _

theorem execModelActivate_ends (slot : Fin 8) (s : State) : Ends (execModelActivate slot s) := by
  fun_cases execModelActivate <;> exact ends_next _

theorem execGroupWaitTimeout_ends (x : Nat) (s : State) : Ends (execGroupWaitTimeout x s) := by
  fun_cases execGroupWaitTimeout <;> exact ends_next _

theorem execGroupApply_ends (x : Nat) (s : State) : Ends (execGroupApply x s) := by
  fun_cases execGroupApply <;> exact ends_next _

theorem execVaultWriteDone_ends (s : State) : Ends (execVaultWriteDone s) := by
  fun_cases execVaultWriteDone <;> exact ends_next _

theorem execRouteMapActivate_ends (s : State) : Ends (execRouteMapActivate s) := by
  fun_cases execRouteMapActivate <;> exact ends_next _

theorem execEpochDrainDeadline_ends (s : State) : Ends (execEpochDrainDeadline s) := by
  fun_cases execEpochDrainDeadline <;> exact ends_next _

theorem execHoldTimeout_ends (idx : Nat) (s : State) : Ends (execHoldTimeout idx s) := by
  fun_cases execHoldTimeout <;> exact ends_next _

theorem execHandoffOfferDeadline_ends (h : Word64) (s : State) : Ends (execHandoffOfferDeadline h s) := by
  fun_cases execHandoffOfferDeadline <;> exact ends_next _

theorem execHandoffAcceptDeadline_ends (h : Word64) (s : State) : Ends (execHandoffAcceptDeadline h s) := by
  fun_cases execHandoffAcceptDeadline <;> exact ends_next _

theorem execOwnerQueryRetry_ends (h : Word64) (s : State) : Ends (execOwnerQueryRetry h s) := by
  fun_cases execOwnerQueryRetry <;> exact ends_next _

theorem execHandoffSettleTimeout_ends (h : Word64) (s : State) : Ends (execHandoffSettleTimeout h s) := by
  fun_cases execHandoffSettleTimeout <;> exact ends_next _

theorem execDecisionQuery_ends (rank : Fin 64) (key : UnitKey) (s : State) : Ends (execDecisionQuery rank key s) := by
  fun_cases execDecisionQuery <;> exact ends_next _

theorem execMemberLost_ends (rank : Fin 64) (s : State) : Ends (execMemberLost rank s) := by
  fun_cases execMemberLost <;> exact ends_next _

theorem execWidthChange_ends (s : State) : Ends (execWidthChange s) := by
  fun_cases execWidthChange <;> exact ends_next _

theorem execJoinAck_ends (rank : Fin 64) (status : Fin 16) (s : State) : Ends (execJoinAck rank status s) := by
  fun_cases execJoinAck <;> exact ends_next _

theorem execJoinGo_ends (tick : BitVec 48) (copy : Option JoinCopy) (s : State) : Ends (execJoinGo tick copy s) := by
  fun_cases execJoinGo <;> exact ends_next _

theorem execHello_ends (via : HelloVia) (body : Bytes) (s : State) : Ends (execHello via body s) := by
  fun_cases execHello <;> exact ends_next _

theorem execGateTakeover_ends (port : Fin 20) (s : State) : Ends (execGateTakeover port s) := by
  fun_cases execGateTakeover <;> exact ends_next _

theorem execGateEntrySwitch_ends (port : Fin 20) (i : Fin 32) (s : State) : Ends (execGateEntrySwitch port i s) := by
  fun_cases execGateEntrySwitch <;> exact ends_next _

theorem execAtsResponse_ends (space : HostSpace) (page : Nat) (frame : Option Nat) (s : State) :
    Ends (execAtsResponse space page frame s) := by
  fun_cases execAtsResponse <;> exact ends_next _

theorem execPageRequestTimeout_ends (space : HostSpace) (page : Nat) (s : State) : Ends (execPageRequestTimeout space page s) := by
  fun_cases execPageRequestTimeout <;> exact ends_next _

theorem execMailboxWatchdog_ends (m : Fin 64) (s : State) : Ends (execMailboxWatchdog m s) := by
  fun_cases execMailboxWatchdog <;> exact ends_next _

theorem execHangDumpTimeout_ends (s : State) : Ends (execHangDumpTimeout s) := by
  fun_cases execHangDumpTimeout <;> exact ends_next _

theorem execBistRunDone_ends (run : BistRun) (s : State) : Ends (execBistRunDone run s) := by
  fun_cases execBistRunDone <;> exact ends_next _

theorem execFlit_ends (port : Fin 20) (flit : BitVec 2048) (fecOk : Bool) (s : State) : Ends (execFlit port flit fecOk s) := by
  fun_cases execFlit <;> exact ends_next _

theorem execRestoreRecord_ends (idx : Nat) (ok : Bool) (s : State) : Ends (execRestoreRecord idx ok s) := by
  fun_cases execRestoreRecord <;> exact ends_next _

/-- Host commands and work entries are served; of the other commands some have no condition, some one, and some branch. -/
theorem exec_ends (i : Instr) (s : State) : Ends (exec i s) :=
  match i with
  | .negotiate .. | .openChannel .. | .closeChannel .. | .query .. | .loadModel .. | .evictModel .. | .loadAdapter .. |
    .retireAdapter .. | .loadGrammar .. | .loadVocab .. | .sessionCreate .. | .sessionDestroy .. | .park .. | .revive .. |
    .handoffOffer .. | .handoffCommit .. | .queryOwner .. | .adopt .. | .claim .. | .purge .. | .submit .. | .cancel .. |
    .resume .. | .retract .. | .storeCreate .. | .insert .. | .delete .. | .storeQuery .. | .compact .. | .checkpoint .. |
    .restore .. | .verifyReel .. | .tenantCreate .. | .attest .. | .keyRotate .. | .schedLoad .. | .gateListLoad .. |
    .shaperSet .. | .energySet .. | .traceCfg .. | .traceTrigger .. | .hangDump .. | .countersRead .. | .groupJoin .. |
    .groupShrink .. | .routeMapSet .. | .shutdown .. | .bistResults .. => exec_ends_of_hostCall rfl s
  | .dciCreate .. | .dciInput .. | .dciStep .. | .dciDestroy .. => State.dciEntry_ends ..
  | .dciFlyer .. => execDciFlyer_ends ..
  | .lcChallenge | .coldReset | .thermalTrip | .xtalLoss | .hostClockLoss | .twineClockLoss .. | .pciePerst .. |
    .functionLevelReset .. | .prefixLookup .. | .parkTile .. | .reviveTile .. | .chkptTile .. | .compactBuild .. |
    .prune .. | .purgeSweep .. | .reencryptionSweep .. | .modelShardFree .. | .adapterFree .. | .releaseKeyExpiry .. |
    .commit .. | .abandon .. | .act .. | .sessionMove .. | .reshardTile .. | .linkShaperRefill .. | .atsInvalidation .. |
    .bistResultUpkeep .. => ends_next _
  | .dciReqSet | .dciReqClear | .warmReset | .mbxEnable .. | .mbxDisable .. | .sqTailWrite .. | .cqHeadWrite .. |
    .tickCtrlWrite .. | .tickNowLoRead | .dciEnableWrite .. | .dciWqTailWrite .. | .dciCqHeadWrite .. | .bistRead |
    .rawTestEngine | .boot .. | .oscWaitDone | .railFault | .commitPoint | .tickInEdge .. | .pinLoss | .pinRestore |
    .tickFault .. | .whorlBoundary .. | .peakTrip | .commitWindowOpen .. | .coordinatorDeadline | .mirrorAckDeadline |
    .offer .. | .accept .. | .handoffMsgCommit .. | .handoffMsgAbort .. | .queryOwnerMsg .. | .ownerReply .. |
    .hankTile .. | .ready .. | .notReady .. | .tableDigest .. | .tableVerdict .. | .loaded .. | .failed .. | .activate .. |
    .abort .. | .mirror .. | .mirrorAck .. | .move .. | .topk .. | .traceMsg .. | .status .. | .shrink .. | .shrinkTimeout |
    .joinPropose .. | .joinTimeout | .portRetrain .. | .portDown .. | .retry .. | .linkRetryTimeout .. | .echo .. |
    .echoReply .. | .keyPhaseSwitch .. | .pageResponse .. | .delayedRingWrite .. | .tickWatchdog | .wdogEnWrite .. => ends_guarded
  | .tickMarker .. | .forward .. | .linkTrained .. | .stewardWatchdog | .stewardRestart => .ite (ends_next _) ends_guarded
  | .satClear .. => execSatClear_ends ..
  | .registerWrite .. => execRegisterWrite_ends ..
  | .lcAdvance .. => execLcAdvance_ends ..
  | .bootComplete => execBootComplete_ends ..
  | .operatingPointStep .. => execOperatingPointStep_ends ..
  | .schedActivate => execSchedActivate_ends ..
  | .verdictDeadline => execVerdictDeadline_ends ..
  | .verdictWaitExpiry => execVerdictWaitExpiry_ends ..
  | .slotStart .. => execSlotStart_ends ..
  | .slotEnd .. => execSlotEnd_ends ..
  | .unitEnded .. => execUnitEnded_ends ..
  | .inDoubtExpiry .. => execInDoubtExpiry_ends ..
  | .tokenize .. => execTokenize_ends ..
  | .prefillSlice .. => execPrefillSlice_ends ..
  | .decodeStep .. => execDecodeStep_ends ..
  | .decodeUnitCreate .. => execDecodeUnitCreate_ends ..
  | .ringRoomTimeout .. => execRingRoomTimeout_ends ..
  | .stallHoldExpiry .. => execStallHoldExpiry_ends ..
  | .parkTileTimeout .. => execParkTileTimeout_ends ..
  | .reviveTileTimeout .. => execReviveTileTimeout_ends ..
  | .searchPass .. => execSearchPass_ends ..
  | .storeQueryDeadline .. => execStoreQueryDeadline_ends ..
  | .chkptTileTimeout .. => execChkptTileTimeout_ends ..
  | .reelWrite => execReelWrite_ends ..
  | .purgeTimeout .. => execPurgeTimeout_ends ..
  | .evictDrainDeadline .. => execEvictDrainDeadline_ends ..
  | .modelChunkRead .. => execModelChunkRead_ends ..
  | .modelChunkTimeout .. => execModelChunkTimeout_ends ..
  | .modelActivate .. => execModelActivate_ends ..
  | .groupWaitTimeout .. => execGroupWaitTimeout_ends ..
  | .groupApply .. => execGroupApply_ends ..
  | .vaultWriteDone => execVaultWriteDone_ends ..
  | .routeMapActivate => execRouteMapActivate_ends ..
  | .epochDrainDeadline => execEpochDrainDeadline_ends ..
  | .holdTimeout .. => execHoldTimeout_ends ..
  | .handoffOfferDeadline .. => execHandoffOfferDeadline_ends ..
  | .handoffAcceptDeadline .. => execHandoffAcceptDeadline_ends ..
  | .ownerQueryRetry .. => execOwnerQueryRetry_ends ..
  | .handoffSettleTimeout .. => execHandoffSettleTimeout_ends ..
  | .decisionQuery .. => execDecisionQuery_ends ..
  | .memberLost .. => execMemberLost_ends ..
  | .widthChange => execWidthChange_ends ..
  | .joinAck .. => execJoinAck_ends ..
  | .joinGo .. => execJoinGo_ends ..
  | .hello .. => execHello_ends ..
  | .gateTakeover .. => execGateTakeover_ends ..
  | .gateEntrySwitch .. => execGateEntrySwitch_ends ..
  | .atsResponse .. => execAtsResponse_ends ..
  | .pageRequestTimeout .. => execPageRequestTimeout_ends ..
  | .mailboxWatchdog .. => execMailboxWatchdog_ends ..
  | .hangDumpTimeout => execHangDumpTimeout_ends ..
  | .bistRunDone .. => execBistRunDone_ends ..
  | .flit .. => execFlit_ends ..
  | .restoreRecord .. => execRestoreRecord_ends ..
end Sys2Proof.Machine

open Sys2Proof Sys2Proof.Machine

/-- Settles O9: a command whose condition fails leaves the state, and one that is served ends in what its checks answer. -/
theorem neverStops : Obligations.NeverStops := exec_ends
end

/-! PROOFS. The energy ledger, operating-point steps and peak trips. -/
section
namespace Sys2Proof.Machine

/-- A step that was chosen and is not yet due does not hold up the boundary (R363, R367). -/
theorem execWhorlBoundary_settles {s : State} (e : Nat) (h64 : s.tk.tick % 64 = 0) (ht : s.ticking = true)
    (hp : s.pwr.settled < s.tk.tick / 64) (hd : s.tableDue = false) (hc : ∀ c, s.pwr.chosen = some c → s.tk.tick < c.2) :
    exec (.whorlBoundary e) s = .next (s.settleWhorl e) := by
  show execWhorlBoundary e s = _
  unfold execWhorlBoundary
  cases h : s.pwr.chosen with
  | none => exact if_neg (by simp [h64, ht, hd, Nat.not_le.mpr hp])
  | some c => exact if_neg (by simp [h64, ht, hd, Nat.not_le.mpr hp, Nat.not_le.mpr (hc c h)])

/-- What a boundary counts writes the counters alone. -/
theorem State.ledgerCounts_frame (s : State) (p : Prop) [Decidable p] (a b : Nat) :
    ∃ d, ((if p then s.count 7 0 1 else s).count 7 1 a).count 7 2 b = { s with dbg := d } := by
  split <;> exact ⟨_, rfl⟩

/-- The step chosen, as R366 states its two conditions. -/
theorem PwrSt.choose_map (p : PwrSt) (a debt run ew n : Nat) : (p.choose a debt run ew).map (fun b => (b, n)) =
    if a < debt ∧ p.point < 3 then some (true, n)
    else if 4 ≤ run ∧ 8 * ew ≤ 7 * 64 * a ∧ 0 < p.point then some (false, n) else none := by
  simp only [PwrSt.choose, Bool.and_eq_true, decide_eq_true_eq, and_assoc]
  rw [apply_ite (Option.map _), apply_ite (Option.map _)]
  rfl

theorem execOperatingPointStep_of {s : State} {down : Bool} {n : Nat} (ok : Bool) (hc : s.pwr.chosen = some (down, n))
    (ht : s.ticking = true) (hn : n ≤ s.tk.tick) : exec (.operatingPointStep ok) s = .next (s.stepPoint down ok) := by
  show execOperatingPointStep ok s = _
  simp only [execOperatingPointStep, hc]
  exact if_neg (by simp [ht, Nat.not_lt.mpr hn])

theorem execPeakTrip_of {s : State} (h : s.ticking = true) : exec .peakTrip s = .next s.peakTrip := if_pos h
end Sys2Proof.Machine

open Sys2Proof Sys2Proof.Machine

/-- Settles O36: the ledger settled, its choice as R366 states it; a step carried out and cancelled; a peak trip. -/
theorem powerLedger : Obligations.PowerLedger := by
  refine ⟨fun s e h64 ht hp hd hc => ?boundary, fun s down n hc ht hn =>
    ⟨execOperatingPointStep_of false hc ht hn, s.stepPoint down true, execOperatingPointStep_of true hc ht hn, rfl⟩,
    fun s ht => ⟨s.peakTrip, execPeakTrip_of ht, rfl⟩⟩
  rw [execWhorlBoundary_settles e h64 ht hp hd hc]
  unfold State.settleWhorl
  extract_lets p a debt run takes w a' d whorl allow chosen tk settled
  obtain ⟨g, hg⟩ := settled.ledgerCounts_frame (0 < debt) (debt - p.debt) e
  rw [hg]
  refine ⟨_, w, debt, rfl, rfl, ?_, rfl, rfl, rfl, rfl, rfl, rfl, p.choose_map a debt run e _, rfl⟩
  simp only [w, takes, decide_eq_true_eq, p]
end

/-! PROOFS. CHECKPOINT, RESTORE and VERIFY_REEL. -/
section
namespace Sys2Proof.Machine

/-! ### Their checks (R331, R332, R336, R340) -/

theorem checkCheckpoint_ok {s : State} {m : Fin 64} {c : Cmd} {p : ParkStore} (ha : fld c 32 8 % 16 = 0)
    (hl : reelLenOf (Nat.max (s.sees m c).grp.n 1) 0 ≤ fld c 40 8) (hp : Tb.get (s.sees m c).ten.map.stores (fld c 8 1) = some p)
    (ho : fld c 16 8 % 65536 = 0) (hs : fld c 24 8 % 65536 = 0) (hz : fld c 24 8 ≠ 0)
    (hfit : fld c 16 8 + Nat.max (s.sees m c).grp.n 1 * fld c 24 8 ≤ p.len) (hk : (s.sees m c).chkpt = none)
    (hr : (s.sees m c).restoring = false) (hm : (s.sees m c).grp.moves = []) (hsh : (s.sees m c).grp.shrink = none)
    (he : (s.sees m c).energyOk (.chkptTile 0) 65536 none = true) : checkCheckpoint (s.sees m c) (s.given m c) =
      .ok (.checkpointStart s.nextCmd (fld c 8 1) (fld c 16 8) (fld c 24 8) (fld c 32 8) (fld c 40 8) ::
        (if (s.sees m c).grp.n ≤ 1 then [] else
          ((List.range (s.sees m c).grp.n).filter (· ≠ (s.sees m c).glb.rank)).map fun r =>
            .send (.rank r) (.forward c (toLE 1 m.val)))) := by
  simp only [checkCheckpoint, State.given_f, State.given_id, State.given_c, State.given_m, ha, hl, hp, ho, hs, hz, hfit, hk, hr, hm, hsh, he,
    want_some, List.isEmpty_nil, Option.isNone_none, ne_eq, not_false_eq_true, Bool.not_false, decide_true, Bool.and_self, must_true,
    checked_ok_bind]
  rfl

theorem checkVerifyReel_read {s : State} {m : Fin 64} {c : Cmd} {b : Bytes} (ha : fld c 16 8 % 16 = 0)
    (hb : (s.given m c).rd .port0 (fld c 16 8) (fld c 24 8) = some b) :
    checkVerifyReel (s.sees m c) (s.given m c) = match reelChecks (fld c 24 8) b with
      | .ok _ => .ok [.complete s.nextCmd .ok (toLE 8 (fieldAt b 8 8))]
      | .error st => .error (st, []) := by
  simp only [checkVerifyReel, State.given_f, ha, Ctx.read_of hb, decide_true, must_true, checked_ok_bind, State.given_done]
  cases reelChecks (fld c 24 8) b <;> rfl

/-- RESTORE of a whole reel finds no session and orders one restore, which ends at once where the reel holds none (R336). -/
theorem checkRestoreAll_ok {v : State} {x : Ctx} {effs : List Effect} (h : checkRestoreAll v x = .ok effs) :
    v.ss.sessions = [] ∧ ∃ r fin, effs = .restoreStart x.id r (x.acceptor v) :: fin := by
  simp only [checkRestoreAll, checked_bind_iff, must_ok_iff, exists_const, Bool.and_eq_true, List.isEmpty_iff] at h
  obtain ⟨-, rs, -, ⟨⟨hs, -⟩, -⟩, r, -, -, -, -, -, h⟩ := h
  exact ⟨hs, r, _, (Except.ok.inj h).symm⟩

/-- RESTORE with ONE_SHARD orders one session rebuilt, under the handle that it names (R340). -/
theorem checkOneShard_ok {v : State} {x : Ctx} {effs : List Effect} (h : checkOneShard v x = .ok effs) :
    ∃ y r, effs = [.oneShard x.id (x.f 32 8 % 2 ^ 24) (x.f 32 8 / 2 ^ 24) y r] := by
  simp only [checkOneShard, checked_bind_iff, must_ok_iff, exists_const] at h
  obtain ⟨-, rs, -, r, -, -, -, sh, -, e, -, -, -, -, -, -, -, -, mdl, -, -, -, -, h⟩ := h
  exact ⟨_, _, (Except.ok.inj h).symm⟩

theorem checkRestore_ok {v : State} {x : Ctx} {effs : List Effect} (h : checkRestore v x = .ok effs) :
    if x.flag 0 then ∃ y r, effs = [.oneShard x.id (x.f 32 8 % 2 ^ 24) (x.f 32 8 / 2 ^ 24) y r]
    else v.ss.sessions = [] ∧ ∃ r fin, effs = .restoreStart x.id r (x.acceptor v) :: fin := by
  unfold checkRestore at h
  split at h
  case isTrue hf => rw [if_pos hf]; exact checkOneShard_ok h
  case isFalse hf => rw [if_neg hf]; exact checkRestoreAll_ok h

/-! ### What their effects do (R333, R336, R340) -/

/-- A rebuild that starts is in its table with the target and the command that it is given. -/
theorem State.startRebuild_rebuilds {s : State} {i : Nat} {x : Session} (hx : Tb.get s.ss.sessions i = some x) (rb : Rebuild)
    (stamp : Nat) : ∃ r, Tb.get (s.startRebuild i rb stamp).ss.rebuilds i = some r ∧ r.target = rb.target ∧ r.cmd = rb.cmd := by
  unfold State.startRebuild
  rw [hx]
  exact ⟨_, Tb.get_set_same _ _ _, rfl, rfl⟩

theorem State.applyPlain_checkpointStart (s : State) (d sto o l ra rl n : Nat) :
    s.applyPlain (.checkpointStart d sto o l ra rl) n =
      s.startCheckpoint (some d) sto o l ra rl (if s.grp.n ≤ 1 then s.tk.tick else s.tk.tick + 2) := rfl

theorem State.applyPlain_restoreStart (s : State) (d : Nat) (reel : Bytes) (a n : Nat) :
    s.applyPlain (.restoreStart d reel a) n = s.startRestore (if d = noCmd then none else some d) reel a := rfl

theorem State.applyPlain_oneShard (s : State) (d i g : Nat) (y : Session) (rb : Rebuild) (n : Nat) :
    s.applyPlain (.oneShard d i g y rb) n =
      ({ s with ss.sessions := Tb.set s.ss.sessions i y, ss.gens := Tb.set s.ss.gens i g } : State).startRebuild i
        { rb with cmd := some d } n := rfl
end Sys2Proof.Machine

open Sys2Proof Sys2Proof.Machine

/-- Settles O21: each command's checks under its conditions, RESTORE's read backwards from its answer; then each effect. -/
theorem checkpointCommands : Obligations.CheckpointCommands := by
  refine ⟨fun s m c p h ha hl hp ho hs hz hfit hk hr hm hsh he =>
      hostCommand_takes_of h (checkCheckpoint_ok ha hl hp ho hs hz hfit hk hr hm hsh he),
    fun s m c h => ⟨State.hostCommand_serves s m c _ h, fun effs he => ⟨hostCommand_takes_of h he, checkRestore_ok he⟩⟩,
    fun s m c b h ha hb => ?verify, fun t n => ⟨fun d sto o l ra rl => ?started, fun d reel a => ?restored, fun d i g y rb => ?rebuilt⟩⟩
  case verify =>
    refine (State.hostCommand_serves s m c _ h).trans ?_
    rw [checkVerifyReel_read ha hb]
    cases reelChecks (fld c 24 8) b <;> rfl
  case started =>
    rw [State.applyPlain_checkpointStart]
    exact ⟨_, rfl, rfl, rfl, rfl, rfl, rfl, rfl, rfl⟩
  case restored =>
    rw [State.applyPlain_restoreStart]
    exact ⟨_, rfl, rfl, rfl, rfl⟩
  case rebuilt =>
    rw [State.applyPlain_oneShard]
    exact State.startRebuild_rebuilds (Tb.get_set_same _ _ _) _ n
end
